-- ==== Sys2Proof/Word.lean ====
section
/-! DEFINITION. Words and the sparse maps of the model. -/
namespace Sys2Proof

/-- A 64-bit word: a control register, a general register, a doubleword of memory. -/
abbrev Word := BitVec 64

/-- A byte. -/
abbrev Byte := BitVec 8

/-- A 64-byte granule or sector, byte 0 in bits [7:0] (R236, R232). -/
abbrev Granule := BitVec 512

/-- A 256-byte superline, byte 0 in bits [7:0] (R245). -/
abbrev Superline := BitVec 2048

/-- A sparse array: (index, entry) pairs with strictly rising indices. What an unlisted index reads as is said
where the array is read; no listed entry equals it. -/
abbrev SMap (α : Type) := List (Nat × α)

end Sys2Proof
end

