-- ==== Sys2Proof/Syntax.lean ====
section
/-! DEFINITION. The commands of the block: one constructor of Instr for each row of spec/opcode_table.json, with its
operands, and the types of the operands. A docstring names the rule of spec/ that governs the row. -/
namespace Sys2Proof

/-- The two AKZ32 lockstep pairs (R51). -/
inductive Akz32 where
  | keeper | cadence
deriving DecidableEq, Repr

/-- Who makes a control-space access: a compute thread, Keeper, Cadence, an authenticated debug session, or the
block at another mesh stop (R3, R37, R227, R411). -/
inductive Master where
  | thread (n : Fin 512)
  | keeper
  | cadence
  | debug
  | stop (id : Fin 120)
deriving DecidableEq, Repr

/-- An AKZ core's thread: 0 to 511 the compute threads (R101), 512 the Keeper pair, 513 the Cadence pair. -/
abbrev Th := Fin 514

/-- A register number of an AKZ instruction (R56). -/
abbrev R5 := Fin 32

/-- The values of the rounding-mode field rm that are not reserved (R84). -/
inductive Rm where
  | dyn | rne | rna | rtz | rtp | rtn
deriving DecidableEq, Repr

/-- The integer types of FCVI and FCVF (R84, sub 0 to 3 and 4 to 7). -/
inductive IntKind where
  | s64 | u64 | s32 | u32
deriving DecidableEq, Repr

/-- The two parts of an interrupt entry that other commands can fall between: the selection at cycle 0, and the
latch at the end of cycle 16 with all that follows (R123, R124). -/
inductive EntryPhase where
  | select | latch
deriving DecidableEq, Repr

/-- Why a line comes into a core (R104, R108, R233): a demand miss of a thread slot, the L1D stride or the L2 stream
prefetcher, or a load of a slot that runs ahead of an older unresolved instruction. -/
inductive FillKind where
  | demand (slot : Fin 2) | stride | stream | early (slot : Fin 2)
deriving DecidableEq, Repr

/-- The slots of a signal-engine bundle (R190). -/
inductive Slot where
  | ld0 | ls1 | m0 | m1 | m2 | m3 | a | b
deriving DecidableEq, Repr

/-- Bits [25:0] of a syllable; bits [31:26] are the opcode, which the command names (R191). A syllable command also says
whether it is the last one of its bundle, and if so how many empty bundles issue before that bundle (R190, R193). -/
abbrev Syl := BitVec 26

/-- The tick inputs (R24). -/
inductive TickInput where
  | a | b
deriving DecidableEq, Repr

/-- When a request that reaches a channel is served: it waits in its queue for a command boundary (R274, R275), or
nothing is ahead of it and it is served at once. -/
inductive Service where
  | queued | atOnce
deriving DecidableEq, Repr

/-- The master behind a request to a memory channel, as R291 tells them apart. -/
inductive ReqSrc where
  | core (t : Th)
  | writeback (core : Fin 256)
  | dma (engine : Fin 128) (channel : Fin 4)
  | engineCache (engine : Fin 128)
  | pcie (link : Fin 8)
  | eth (port : Fin 144) (tx : Bool)
  | fabric (node : Fin 4096) (tag : BitVec 16)
deriving DecidableEq, Repr

/-- One superline operation at a channel (R253, R255, R274): the superline, the sectors it reads or covers, the
bytes a write covers and their data, and what the request carries. -/
structure Req where
  sline : BitVec 44
  sect  : BitVec 4
  mask  : BitVec 256
  data  : Superline
  tid   : Fin 1024
  c0    : Bool
  y     : Bool
  codec : BitVec 4
  stop  : Fin 128
  src   : ReqSrc
deriving DecidableEq, Repr

/-- A bank of a channel, as bits [12:4] of a command entry name it (R440): subchannel, rank, bank group, bank. -/
abbrev BankId := Fin 512

/-- What freezes a channel (R288). -/
inductive FreezeCause where
  | caParity | mdUncorrectable | mdCode | secondError
deriving DecidableEq, Repr

/-- A freeze trigger: its cause, and for a metadata cause a superline of the failed line (R288, R290). -/
structure FreezeTrigger where
  cause : FreezeCause
  sline : BitVec 44
deriving DecidableEq, Repr

/-- A link partner's advertisement (R304). -/
structure Adv where
  minV    : BitVec 4
  maxV    : BitVec 4
  feat    : BitVec 16
  maxRate : BitVec 2
  bond    : BitVec 2
  encReq  : Bool
  node    : BitVec 12
  msgMin  : BitVec 4
  msgMax  : BitVec 4
deriving DecidableEq, Repr

/-- A received Ethernet frame (R312, R313): the length without FCS, the PCP of its outer VLAN tag if it has one, the
outcome of the FCS and MACsec checks, whether it was protected, and its bytes, eight to a word. -/
structure EthFrame where
  len      : BitVec 14
  pcp      : Option (Fin 8)
  checksOk : Bool
  prot     : Bool
  bytes    : List Word
deriving DecidableEq, Repr

/-- An inbound PCI Express or CXL memory request (R318); a 32-bit write to CL_IRAISE is an MSI (R120). -/
structure PcieReq where
  addr  : Word
  write : Bool
  size  : BitVec 13
  data  : List Word
deriving DecidableEq, Repr

/-- How an outbound read completes (R317). -/
inductive CplStatus where
  | success | unsupported | abort
deriving DecidableEq, Repr

/-- The operations of a Gohal packet (R338). -/
inductive FabOp where
  | write | readReq | readData | fetchOp | response | leaseGrant | recallNotice | drained | confirm
  | reserved (op : BitVec 6)
deriving DecidableEq, Repr

/-- A packet as a link carries it (R338), after link decryption: the four words of its header, whether its payload passes
its check, the function of a fetch-and-op, for which the header has no field (entry 153), and the payload as coded. -/
structure RawPacket where
  h0      : Word
  h1      : Word
  h2      : Word
  h3      : Word
  dataOk  : Bool
  aop     : Fin 16
  payload : List Word
deriving DecidableEq, Repr

/-- What a PCI Express or CXL link enters (R316, R319): L0 with the generation and the lanes that training gave, L1, or
neither, with or without a device present. -/
inductive PcieState where
  | l0 (gen lanes : Nat)
  | l1
  | down (present : Bool)
deriving DecidableEq, Repr

/-- A Gohal packet: the fields of its header (R338), whether its payload check passes, and its payload. -/
structure Packet where
  dst     : BitVec 12
  src     : BitVec 12
  cls     : Fin 4
  flow    : BitVec 12
  tid     : Fin 1024
  op      : FabOp
  tcode   : BitVec 4
  codec   : BitVec 4
  y       : Bool
  addr    : BitVec 52
  hops    : BitVec 4
  len     : BitVec 13
  tag     : BitVec 16
  resp    : BitVec 2
  reason  : BitVec 3
  deferK  : BitVec 8
  bad     : Bool
  dataOk  : Bool
  aop     : Fin 16
  payload : List Word
deriving DecidableEq, Repr

/-- A request leaving through the source gateway (R330, R344): its master, its target, and what it carries. -/
structure FabReq where
  src     : ReqSrc
  dst     : BitVec 12
  addr    : BitVec 52
  tid     : Fin 1024
  op      : FabOp
  c0job   : Bool
  y       : Bool
  codec   : BitVec 4
  len     : BitVec 13
  aop     : Fin 16
  payload : List Word
deriving DecidableEq, Repr

/-- Activity of one energy class charged to a TID, that no other command reports (mesh hops, static energy, ...;
R357, R358). -/
structure Activity where
  tid   : Fin 1024
  cls   : Fin 22
  count : Nat
  c0    : Bool
  level : Fin 6
deriving DecidableEq, Repr

/-- What the key engine finds in an image (R394, R395): the header fields the checks read, the outcomes of the
cryptographic checks, and the plaintext. -/
structure Image where
  magicOk  : Bool
  type     : BitVec 16
  zerosOk  : Bool
  step     : BitVec 16
  svn      : BitVec 32
  ifMin    : BitVec 8
  ifMax    : BitVec 8
  keyIdx   : BitVec 16
  hashOk   : Bool
  sigOk    : Bool
  len      : BitVec 32
  tagOk    : Bool
  payload  : List Word
deriving DecidableEq, Repr

/-- What Keeper ROM finds at a boot (R443): flash discovery and reads, the Keeper image of each slot, and the
microcode images that follow them. -/
structure BootInput where
  flashOk  : Bool
  readOk   : Bool
  slotA    : Image
  slotB    : Image
  ucodeA   : List Image
  ucodeB   : List Image
deriving DecidableEq, Repr

/-- The supply rails that LASTFAULT and R469 tell apart, and the regulator outputs of a power domain. -/
inductive Rail where
  | vao | vinCore | vddq | vsdA | vsdH | vio
  | domain (d : Fin 83)
deriving DecidableEq, Repr

/-- The reference clock inputs (R470). -/
inductive RefIn where
  | a | b
deriving DecidableEq, Repr

/-- The frame of the management bus and the host mailbox (R455). -/
structure MgmtMsg where
  apiver  : Byte
  op      : Byte
  len     : BitVec 16
  tag     : BitVec 16
  payload : List Byte
deriving DecidableEq, Repr

/-- The commands of the block, row by row of spec/opcode_table.json. -/
inductive Instr where
  /-- AKZ32_LOW_WORD_WRITE (R4): An AKZ32 core writes the low word of a control register, which is staged in its holding register; R5 and R6 settle conflicting sequences. -/
  | akz32LowWordWrite (k : Akz32) (off : BitVec 40) (v : BitVec 32)
  /-- AKZ32_HIGH_WORD_WRITE (R4): An AKZ32 core writes the high word and commits all 64 bits indivisibly, or the write is discarded under R5 and R6. -/
  | akz32HighWordWrite (k : Akz32) (off : BitVec 40) (v : BitVec 32)
  /-- AKZ32_LOW_WORD_READ (R4): An AKZ32 core reads the low word, which performs one full 64-bit read and keeps the high word. -/
  | akz32LowWordRead (k : Akz32) (off : BitVec 40)
  /-- AKZ32_HIGH_WORD_READ (R4): An AKZ32 core reads the high word and receives the kept word, or zero with an error under R5 and R6. -/
  | akz32HighWordRead (k : Akz32) (off : BitVec 40)
  /-- REGISTER_WRITE (R10): A write to a control register or field that has no row of its own acts by its access type, including reserved-encoding, lock and missing-register handling. -/
  | registerWrite (m : Master) (off : BitVec 40) (v : Word)
  /-- RC_REGISTER_READ (R10): A read of an RC register returns its value and then clears it to its reset value. -/
  | rcRegisterRead (m : Master) (off : BitVec 40)
  /-- KEEP_WORD_WRITE (R402): An accepted write to a Keep word is queued, counted against the word's endurance, and may make the word worn. -/
  | keepWordWrite (m : Master) (w : Fin 4096) (v : BitVec 32)
  /-- KEEP_WRITE_PERSISTED (R404): A queued Keep word write becomes persistent within 25 µs, and the next queued write starts. -/
  | keepWritePersisted
  /-- LOCAL_TICK (R23): The local tick starts a frame: CAD_FRAMECNT and CAD_SFPOS advance, armed timing changes take effect, and the plan banks swap or are reused. -/
  | localTick
  /-- LATE_RUN_RAS_EVENT (R43): CAD_LATERUN reaching 64, and each further 64 consecutive late frames, raises a RAS event. -/
  | lateRunRasEvent
  /-- PLAN_TAKES_EFFECT (R23): At 20 ns after the tick, the slot, DRAM window, energy, timer reload and scrub tables of the new plan govern. -/
  | planTakesEffect
  /-- TICK_EDGE (R24): A rising edge arrives on TICK_A or TICK_B and is time-stamped if it falls within ±100 ns of the local tick. -/
  | tickEdge (inp : TickInput) (ns : Int)
  /-- SPEEDWELL_MARKER_RECEIVE (R31): A marker is received on a port, corrected by the link delay, and SF_MISMATCH is set if its superframe position differs from the node's own. -/
  | speedwellMarkerReceive (port : Fin 144) (frame : Word) (sfpos : BitVec 12) (stamp : Int)
  /-- TICK_MONITOR_EVALUATION (R25): At offset 120 ns the monitor classifies the tick inputs and the marker votes, and selects the tick source under R27. -/
  | tickMonitorEvaluation
  /-- TICK_DISCREPANCY_FAULT (R26): The discrepancy count reaches N and a tick-discrepancy fault is raised. -/
  | tickDiscrepancyFault
  /-- TICK_FREERUN (R29): A hold on the internal oscillator reaches 64 frames, so TICK_FREERUN is set and a RAS event is raised. -/
  | tickFreerun
  /-- TICK_FAULT_CLEAR (R30): Sixteen consecutive agreeing evaluations clear the fault, hold and free run, and return the tick to the PRIMARY input. -/
  | tickFaultClear
  /-- FRAME_ACQUISITION (R33): An evaluation finds a unique largest group of at least 3 agreeing markers, and CAD_FRAMECNT and CAD_SFPOS load at the next tick with RUN set. -/
  | frameAcquisition
  /-- FCNT_MISMATCH (R34): At the third evaluation of a run of marker majorities that differ from CAD_FRAMECNT, FCNT_MISMATCH is set, the count is incremented and a RAS event is raised. -/
  | fcntMismatch
  /-- START_LOCAL_TICK (R47): A write of 1 to CAD_CTRL.RUN starts the local tick at the next edge of the active source. -/
  | startLocalTick (m : Master)
  /-- SET_ACQUIRE (R47): A write of CAD_CTRL.ACQUIRE makes the device take its frame number from Speedwell markers. -/
  | setAcquire (m : Master) (on : Bool)
  /-- CAD_FRAMESET_WRITE (R33): The number of the frame that the first tick starts is set when no markers are received; it is discarded while RUN is 1. -/
  | cadFramesetWrite (m : Master) (v : Word)
  /-- CAD_TIMING_NEXT_WRITE (R21): The new T_f and superframe length are written, or discarded while a change is armed. -/
  | cadTimingNextWrite (m : Master) (v : Word)
  /-- ARM_TIMING_CHANGE (R21): A non-zero write to CAD_TIMING_AT arms or moves the timing change, subject to the CAD_FRAMECNT + 2 conditions. -/
  | armTimingChange (m : Master) (v : Word)
  /-- CANCEL_TIMING_CHANGE (R21): A write of 0 to CAD_TIMING_AT cancels an armed change if its frame is still at least CAD_FRAMECNT + 2. -/
  | cancelTimingChange (m : Master)
  /-- PLAN_TABLE_WRITE (R38): A write to a next-bank word sets its written flag; it is discarded after a seal or when it comes from a master that is not permitted. -/
  | planTableWrite (m : Master) (off : BitVec 24) (v : Word)
  /-- CAD_SEAL (R39): A write to CAD_SEAL is judged for timing, frame number, repeat seal and the table structural checks, and the result is recorded in CAD_SEALSTAT. -/
  | cadSeal (m : Master) (v : Word)
  /-- SEAL_DEADLINE (R39): At T_f − 200 ns the window for sealing the next plan closes, and scrub units not done are dropped. -/
  | sealDeadline
  /-- CADENCE_LOCKSTEP_MISMATCH (R44): The two Cadence cores disagree, so both stop and a RAS event is raised. -/
  | cadenceLockstepMismatch
  /-- CADENCE_RESTART (R44): Keeper firmware restarts the Cadence pair from its verified image within 1 ms, and LOCKSTEP is set. -/
  | cadenceRestart
  /-- ADD (R61): rd := rs1 + rs2. -/
  | add (t : Th) (rd rs1 rs2 : R5)
  /-- SUB (R61): rd := rs1 − rs2. -/
  | sub (t : Th) (rd rs1 rs2 : R5)
  /-- AND (R61): Bitwise and of rs1 and rs2. -/
  | and (t : Th) (rd rs1 rs2 : R5)
  /-- OR (R61): Bitwise or of rs1 and rs2. -/
  | or (t : Th) (rd rs1 rs2 : R5)
  /-- XOR (R61): Bitwise xor of rs1 and rs2. -/
  | xor (t : Th) (rd rs1 rs2 : R5)
  /-- SLL (R62): Left shift of rs1 by the shift amount. -/
  | sll (t : Th) (rd rs1 rs2 : R5)
  /-- SRL (R62): Logical right shift of rs1. -/
  | srl (t : Th) (rd rs1 rs2 : R5)
  /-- SRA (R62): Arithmetic right shift of rs1. -/
  | sra (t : Th) (rd rs1 rs2 : R5)
  /-- SLT (R61): Signed less-than compare. -/
  | slt (t : Th) (rd rs1 rs2 : R5)
  /-- SLTU (R61): Unsigned less-than compare. -/
  | sltu (t : Th) (rd rs1 rs2 : R5)
  /-- SEQ (R61): Set if equal. -/
  | seq (t : Th) (rd rs1 rs2 : R5)
  /-- SNE (R61): Set if not equal. -/
  | sne (t : Th) (rd rs1 rs2 : R5)
  /-- MUL (R61): Low half of the product. -/
  | mul (t : Th) (rd rs1 rs2 : R5)
  /-- MULH (R61): High half of the signed × signed product. -/
  | mulh (t : Th) (rd rs1 rs2 : R5)
  /-- MULHU (R61): High half of the unsigned × unsigned product. -/
  | mulhu (t : Th) (rd rs1 rs2 : R5)
  /-- MULHSU (R61): High half of the signed × unsigned product. -/
  | mulhsu (t : Th) (rd rs1 rs2 : R5)
  /-- DIV (R63): Signed quotient, saturated where it cannot be represented. -/
  | div (t : Th) (rd rs1 rs2 : R5)
  /-- DIVU (R63): Unsigned quotient. -/
  | divu (t : Th) (rd rs1 rs2 : R5)
  /-- REM (R63): Signed remainder. -/
  | rem (t : Th) (rd rs1 rs2 : R5)
  /-- REMU (R63): Unsigned remainder. -/
  | remu (t : Th) (rd rs1 rs2 : R5)
  /-- ADDW (R62): 32-bit add, sign-extended. -/
  | addw (t : Th) (rd rs1 rs2 : R5)
  /-- SUBW (R62): 32-bit subtract, sign-extended. -/
  | subw (t : Th) (rd rs1 rs2 : R5)
  /-- SLLW (R62): 32-bit left shift. -/
  | sllw (t : Th) (rd rs1 rs2 : R5)
  /-- SRLW (R62): 32-bit logical right shift. -/
  | srlw (t : Th) (rd rs1 rs2 : R5)
  /-- SRAW (R62): 32-bit arithmetic right shift. -/
  | sraw (t : Th) (rd rs1 rs2 : R5)
  /-- MULW (R61): 32-bit multiply. -/
  | mulw (t : Th) (rd rs1 rs2 : R5)
  /-- DIVW (R63): 32-bit signed divide. -/
  | divw (t : Th) (rd rs1 rs2 : R5)
  /-- DIVUW (R63): 32-bit unsigned divide. -/
  | divuw (t : Th) (rd rs1 rs2 : R5)
  /-- REMW (R63): 32-bit signed remainder. -/
  | remw (t : Th) (rd rs1 rs2 : R5)
  /-- REMUW (R63): 32-bit unsigned remainder. -/
  | remuw (t : Th) (rd rs1 rs2 : R5)
  /-- ADDI (R65): Add the sign-extended immediate. -/
  | addi (t : Th) (rd rs1 : R5) (imm : BitVec 16)
  /-- ANDI (R65): Bitwise and with the immediate. -/
  | andi (t : Th) (rd rs1 : R5) (imm : BitVec 16)
  /-- ORI (R65): Bitwise or with the immediate. -/
  | ori (t : Th) (rd rs1 : R5) (imm : BitVec 16)
  /-- XORI (R65): Bitwise xor with the immediate. -/
  | xori (t : Th) (rd rs1 : R5) (imm : BitVec 16)
  /-- SLTI (R65): Signed compare with the immediate. -/
  | slti (t : Th) (rd rs1 : R5) (imm : BitVec 16)
  /-- SLTIU (R65): Unsigned compare with the immediate. -/
  | sltiu (t : Th) (rd rs1 : R5) (imm : BitVec 16)
  /-- SLLI (R65): SHI kind 0b00: left shift by shamt. -/
  | slli (t : Th) (word : Bool) (rd rs1 : R5) (shamt : BitVec 6)
  /-- SRLI (R65): SHI kind 0b01: logical right shift by shamt. -/
  | srli (t : Th) (word : Bool) (rd rs1 : R5) (shamt : BitVec 6)
  /-- SRAI (R65): SHI kind 0b10: arithmetic right shift by shamt. -/
  | srai (t : Th) (word : Bool) (rd rs1 : R5) (shamt : BitVec 6)
  /-- LUI (R65): rd := sext(imm) × 2^16. -/
  | lui (t : Th) (rd : R5) (imm : BitVec 21)
  /-- AUIPC (R65): rd := PC + sext(imm) × 2^16. -/
  | auipc (t : Th) (rd : R5) (imm : BitVec 21)
  /-- LB (R67): Load a byte, sign-extended. -/
  | lb (t : Th) (rd rs1 : R5) (imm : BitVec 16)
  /-- LH (R67): Load a half-word, sign-extended. -/
  | lh (t : Th) (rd rs1 : R5) (imm : BitVec 16)
  /-- LW (R67): Load a word, sign-extended. -/
  | lw (t : Th) (rd rs1 : R5) (imm : BitVec 16)
  /-- LD (R67): Load a double-word. -/
  | ld (t : Th) (rd rs1 : R5) (imm : BitVec 16)
  /-- LBU (R67): Load a byte, zero-extended. -/
  | lbu (t : Th) (rd rs1 : R5) (imm : BitVec 16)
  /-- LHU (R67): Load a half-word, zero-extended. -/
  | lhu (t : Th) (rd rs1 : R5) (imm : BitVec 16)
  /-- LWU (R67): Load a word, zero-extended. -/
  | lwu (t : Th) (rd rs1 : R5) (imm : BitVec 16)
  /-- SB (R67): Store a byte. -/
  | sb (t : Th) (rs2 rs1 : R5) (imm : BitVec 16)
  /-- SH (R67): Store a half-word. -/
  | sh (t : Th) (rs2 rs1 : R5) (imm : BitVec 16)
  /-- SW (R67): Store a word. -/
  | sw (t : Th) (rs2 rs1 : R5) (imm : BitVec 16)
  /-- SD (R67): Store a double-word. -/
  | sd (t : Th) (rs2 rs1 : R5) (imm : BitVec 16)
  /-- BEQ (R66): Branch if rs1 = rs2. -/
  | beq (t : Th) (rs1 rs2 : R5) (off : BitVec 16)
  /-- BNE (R66): Branch if rs1 ≠ rs2. -/
  | bne (t : Th) (rs1 rs2 : R5) (off : BitVec 16)
  /-- BLT (R66): Branch if rs1 < rs2, signed. -/
  | blt (t : Th) (rs1 rs2 : R5) (off : BitVec 16)
  /-- BGE (R66): Branch if rs1 ≥ rs2, signed. -/
  | bge (t : Th) (rs1 rs2 : R5) (off : BitVec 16)
  /-- BLTU (R66): Branch if rs1 < rs2, unsigned. -/
  | bltu (t : Th) (rs1 rs2 : R5) (off : BitVec 16)
  /-- BGEU (R66): Branch if rs1 ≥ rs2, unsigned. -/
  | bgeu (t : Th) (rs1 rs2 : R5) (off : BitVec 16)
  /-- BEQI (R66): Branch if rs1 equals the sign-extended immediate. -/
  | beqi (t : Th) (rs1 : R5) (imm : BitVec 10) (off : BitVec 11)
  /-- BNEI (R66): Branch if rs1 differs from the sign-extended immediate. -/
  | bnei (t : Th) (rs1 : R5) (imm : BitVec 10) (off : BitVec 11)
  /-- BLTI (R66): Branch if rs1 is below the immediate, signed. -/
  | blti (t : Th) (rs1 : R5) (imm : BitVec 10) (off : BitVec 11)
  /-- BGEI (R66): Branch if rs1 is at least the immediate, signed. -/
  | bgei (t : Th) (rs1 : R5) (imm : BitVec 10) (off : BitVec 11)
  /-- BLTUI (R66): Branch if rs1 is below the zero-extended immediate, unsigned. -/
  | bltui (t : Th) (rs1 : R5) (imm : BitVec 10) (off : BitVec 11)
  /-- BGEUI (R66): Branch if rs1 is at least the zero-extended immediate, unsigned. -/
  | bgeui (t : Th) (rs1 : R5) (imm : BitVec 10) (off : BitVec 11)
  /-- JAL (R66): Jump by a word offset, writing PC + 4 into rd. -/
  | jal (t : Th) (rd : R5) (off : BitVec 21)
  /-- JALR (R66): Jump to rs1 + imm, writing PC + 4; a misaligned target takes an ALIGNMENT trap. -/
  | jalr (t : Th) (rd rs1 : R5) (imm : BitVec 16)
  /-- LDRES (R75): Load and set the thread's reservation on the granule, starting a 128-cycle hold. -/
  | ldres (t : Th) (dbl : Bool) (rd rs1 : R5)
  /-- STCOND (R75): Store if the reservation is valid, return success in rd, and clear the reservation. -/
  | stcond (t : Th) (dbl : Bool) (rd rs1 rs2 : R5)
  /-- ASWAP (R75): Atomic swap. -/
  | aswap (t : Th) (dbl : Bool) (rd rs1 rs2 : R5)
  /-- AADD (R75): Atomic add. -/
  | aadd (t : Th) (dbl : Bool) (rd rs1 rs2 : R5)
  /-- AAND (R75): Atomic and. -/
  | aand (t : Th) (dbl : Bool) (rd rs1 rs2 : R5)
  /-- AOR (R75): Atomic or. -/
  | aor (t : Th) (dbl : Bool) (rd rs1 rs2 : R5)
  /-- AXOR (R75): Atomic xor. -/
  | axor (t : Th) (dbl : Bool) (rd rs1 rs2 : R5)
  /-- AMIN (R75): Atomic signed minimum. -/
  | amin (t : Th) (dbl : Bool) (rd rs1 rs2 : R5)
  /-- AMAX (R75): Atomic signed maximum. -/
  | amax (t : Th) (dbl : Bool) (rd rs1 rs2 : R5)
  /-- AMINU (R75): Atomic unsigned minimum. -/
  | aminu (t : Th) (dbl : Bool) (rd rs1 rs2 : R5)
  /-- AMAXU (R75): Atomic unsigned maximum. -/
  | amaxu (t : Th) (dbl : Bool) (rd rs1 rs2 : R5)
  /-- RESERVATION_HOLD_EXPIRY (R78): A core's 128-cycle reservation hold ends, and waiting requests from other cores are served. -/
  | reservationHoldExpiry (t : Th)
  /-- FENCE (R74): Later accesses wait until every earlier local and control access has been performed. -/
  | fence (t : Th)
  /-- FENCE_F (R74): Later accesses wait for every earlier access and fabric acknowledgement, and a recorded fabric store failure traps. -/
  | fenceF (t : Th)
  /-- IFLUSH (R79): Discard the fetched words of one line and invalidate it in L1I. -/
  | iflush (t : Th) (rs1 : R5)
  /-- IFLUSH_A (R79): Discard all fetched words and invalidate L1I for the thread. -/
  | iflushA (t : Th)
  /-- FLW (R83): Load binary32 into an f register, tagged binary32. -/
  | flw (t : Th) (fd rs1 : R5) (imm : BitVec 16)
  /-- FLD (R83): Load binary64 into an f register, tagged binary64. -/
  | fld (t : Th) (fd rs1 : R5) (imm : BitVec 16)
  /-- FSW (R83): Store bits [31:0] of an f register. -/
  | fsw (t : Th) (fs2 rs1 : R5) (imm : BitVec 16)
  /-- FSD (R83): Store all 64 bits of an f register. -/
  | fsd (t : Th) (fs2 rs1 : R5) (imm : BitVec 16)
  /-- FADD (R84): Floating-point add. -/
  | fadd (t : Th) (dbl : Bool) (rm : Rm) (fd fs1 fs2 : R5)
  /-- FSUB (R84): Floating-point subtract. -/
  | fsub (t : Th) (dbl : Bool) (rm : Rm) (fd fs1 fs2 : R5)
  /-- FMUL (R84): Floating-point multiply. -/
  | fmul (t : Th) (dbl : Bool) (rm : Rm) (fd fs1 fs2 : R5)
  /-- FDIV (R84): Floating-point divide. -/
  | fdiv (t : Th) (dbl : Bool) (rm : Rm) (fd fs1 fs2 : R5)
  /-- FSQRT (R84): Floating-point square root. -/
  | fsqrt (t : Th) (dbl : Bool) (rm : Rm) (fd fs1 : R5)
  /-- FMIN (R84): IEEE minimum. -/
  | fmin (t : Th) (dbl : Bool) (fd fs1 fs2 : R5)
  /-- FMAX (R84): IEEE maximum. -/
  | fmax (t : Th) (dbl : Bool) (fd fs1 fs2 : R5)
  /-- FMINN (R84): IEEE minimumNumber. -/
  | fminn (t : Th) (dbl : Bool) (fd fs1 fs2 : R5)
  /-- FMAXN (R84): IEEE maximumNumber. -/
  | fmaxn (t : Th) (dbl : Bool) (fd fs1 fs2 : R5)
  /-- FCPS (R84): copySign. -/
  | fcps (t : Th) (dbl : Bool) (fd fs1 fs2 : R5)
  /-- FNEG (R84): Negate. -/
  | fneg (t : Th) (dbl : Bool) (fd fs1 : R5)
  /-- FABS (R84): Absolute value. -/
  | fabs (t : Th) (dbl : Bool) (fd fs1 : R5)
  /-- FCEQ (R84): compareQuietEqual into a g register. -/
  | fceq (t : Th) (dbl : Bool) (rd fs1 fs2 : R5)
  /-- FCLT (R84): compareSignalingLess. -/
  | fclt (t : Th) (dbl : Bool) (rd fs1 fs2 : R5)
  /-- FCLE (R84): compareSignalingLessEqual. -/
  | fcle (t : Th) (dbl : Bool) (rd fs1 fs2 : R5)
  /-- FCUN (R84): compareQuietUnordered. -/
  | fcun (t : Th) (dbl : Bool) (rd fs1 fs2 : R5)
  /-- FCLTQ (R84): compareQuietLess. -/
  | fcltq (t : Th) (dbl : Bool) (rd fs1 fs2 : R5)
  /-- FCLEQ (R84): compareQuietLessEqual. -/
  | fcleq (t : Th) (dbl : Bool) (rd fs1 fs2 : R5)
  /-- FCVI (R84): Float to integer, saturating. -/
  | fcvi (t : Th) (dbl : Bool) (k : IntKind) (rm : Rm) (rd fs1 : R5)
  /-- FCVF (R84): Integer to float. -/
  | fcvf (t : Th) (dbl : Bool) (k : IntKind) (rm : Rm) (fd rs1 : R5)
  /-- FCVP (R84): Convert between binary32 and binary64. -/
  | fcvp (t : Th) (dbl : Bool) (rm : Rm) (fd fs1 : R5)
  /-- FTOG (R84): Raw move from an f register to a g register. -/
  | ftog (t : Th) (dbl : Bool) (rd fs1 : R5)
  /-- GTOF (R84): Raw move from a g register to an f register, tagged. -/
  | gtof (t : Th) (dbl : Bool) (fd rs1 : R5)
  /-- FKIND (R84): Class number of the operand. -/
  | fkind (t : Th) (dbl : Bool) (rd fs1 : R5)
  /-- FMADD (R85): Fused rs1 × rs2 + rs3. -/
  | fmadd (t : Th) (dbl : Bool) (rm : Rm) (fd fs1 fs2 fs3 : R5)
  /-- FMSUB (R85): Fused rs1 × rs2 − rs3. -/
  | fmsub (t : Th) (dbl : Bool) (rm : Rm) (fd fs1 fs2 fs3 : R5)
  /-- FNMSUB (R85): Fused −(rs1 × rs2) + rs3. -/
  | fnmsub (t : Th) (dbl : Bool) (rm : Rm) (fd fs1 fs2 fs3 : R5)
  /-- FNMADD (R85): Fused −(rs1 × rs2) − rs3. -/
  | fnmadd (t : Th) (dbl : Bool) (rm : Rm) (fd fs1 fs2 fs3 : R5)
  /-- CSRRW (R88): Read a CSR and write rs1 into it. -/
  | csrrw (t : Th) (rd rs1 : R5) (csr : BitVec 12)
  /-- CSRRS (R88): Read a CSR and set the bits of rs1. -/
  | csrrs (t : Th) (rd rs1 : R5) (csr : BitVec 12)
  /-- CSRRC (R88): Read a CSR and clear the bits of rs1. -/
  | csrrc (t : Th) (rd rs1 : R5) (csr : BitVec 12)
  /-- PREDICTOR_FLUSH (R107): A write of 1 to HCORE.PFLUSH removes the thread's predictor entries and resets its history and return stack. -/
  | predictorFlush (t : Th)
  /-- SORREL_ENABLE (R115): A write setting HCORE.SORREL takes effect only if the core's Sorrel region is READY. -/
  | sorrelEnable (t : Th)
  /-- SYSCALL (R88): Trap with cause SYSCALL. -/
  | syscall (t : Th) (code : BitVec 12)
  /-- HCALL (R88): Trap to H with cause HCALL. -/
  | hcall (t : Th) (code : BitVec 12)
  /-- TRET (R98): Return from a trap: restore privilege, IE, INTRAP, IPRIO and SUAS, and continue at XTF_PC. -/
  | tret (t : Th)
  /-- WFI (R125): Stop the thread's issue until a vector would be deliverable. -/
  | wfi (t : Th)
  /-- WFI_WAKE (R125): A waiting thread's wait ends within 8 cycles: it takes the interrupt or issues the next instruction. -/
  | wfiWake (t : Th)
  /-- BREAK (R88): Trap with cause BREAK. -/
  | brk (t : Th) (code : BitVec 12)
  /-- UACCESS_OPEN (R147): Set SUAS.OPEN. -/
  | uaccessOpen (t : Th)
  /-- UACCESS_CLOSE (R147): Clear SUAS.OPEN. -/
  | uaccessClose (t : Th)
  /-- RESERVED_INSTRUCTION (R92): A word with a reserved opcode or function code raises RESERVED-OPCODE. -/
  | reservedInstruction (t : Th) (w : BitVec 32)
  /-- TLBW (R140): Write the entry held in TLB_VA, TLB_PA and TLB_ATTR to the L2 TLB after the status checks. -/
  | tlbw (t : Th) (rd : R5)
  /-- TLBP (R139): Return the page size of the L2 entry that would translate rs1. -/
  | tlbp (t : Th) (rd rs1 : R5)
  /-- TLBI_VA (R139): Remove the entries of the current context whose range contains rs1. -/
  | tlbiVa (t : Th) (rs1 : R5)
  /-- TLBI_ASID (R139): Remove the unlocked entries of an ASID. -/
  | tlbiAsid (t : Th) (rs1 : R5)
  /-- TLBI_TID (R139): Remove the unlocked LVL 0 entries of a TID. -/
  | tlbiTid (t : Th) (rs1 : R5)
  /-- TLBI_ALL (R139): Remove every TLB entry. -/
  | tlbiAll (t : Th)
  /-- WSTEP (R149): Read a table word through the walk cache. -/
  | wstep (t : Th) (rd rs1 rs2 : R5)
  /-- WSTEP_U (R149): Read a table word bypassing the walk cache. -/
  | wstepU (t : Th) (rd rs1 rs2 : R5)
  /-- WFLUSH (R139): Remove the walk-cache entry keyed by (rs1, rs2). -/
  | wflush (t : Th) (rs1 rs2 : R5)
  /-- WFLUSH_B (R139): Remove every walk-cache entry with base rs1. -/
  | wflushB (t : Th) (rs1 : R5)
  /-- WFLUSH_A (R139): Remove the walk-cache entries of the current TID, or every entry at H. -/
  | wflushA (t : Th)
  /-- RAISE_INTERRUPT (R120): A write to CL_IRAISE, from a core or as an MSI, sets a vector pending on a thread. -/
  | raiseInterrupt (m : Master) (cl : Fin 32) (v : BitVec 32)
  /-- INTERRUPT_ENTRY (R123): A deliverable vector is taken at a commit point, with selection, latch, frame write and IPRIO update over 24 cycles. -/
  | interruptEntry (t : Th) (ph : EntryPhase)
  /-- SORREL_REGION_LOAD (R116): A write of WAYS 1 to 8 to CL_SRLCTL starts loading the region into locked L2 ways. -/
  | sorrelRegionLoad (m : Master) (c : Fin 256) (v : Word)
  /-- SORREL_REGION_READY (R116): The region load completes and READY is set, or the load stops on a thirteenth pinned directory entry. -/
  | sorrelRegionReady (c : Fin 256)
  /-- SORREL_REGION_RELEASE (R116): A write of WAYS = 0 releases the locked ways and clears READY. -/
  | sorrelRegionRelease (m : Master) (c : Fin 256) (v : Word)
  /-- CORE_MISS_FILL (R234): Data for a core miss arrives and fills the LLC sectors, L2 and L1D. -/
  | coreMissFill (c : Fin 256) (a : Word) (kind : FillKind)
  /-- JOB_START (R173): An engine starts the frame job of its next slot at cycle 60 or 8 cycles after the previous job, after energy admission and TID handling. -/
  | jobStart (e : Fin 128)
  /-- SUPERFRAME_JOB_START (R178): A superframe job starts at cycle 60 of the frame at STARTPOS when that frame has a fresh plan. -/
  | superframeJobStart (e : Fin 128)
  /-- JOB_DEADLINE (R176): At cycle D a running job is aborted with OVERRUN, or CUT before a timing change, and later slots are skipped. -/
  | jobDeadline (e : Fin 128)
  /-- DMA_GO (R168): A write of SE_DMACTL.GO starts a channel transfer after the endpoint and alignment checks. -/
  | dmaGo (e : Fin 128) (c : Fin 4)
  /-- DMA_STOP (R189): A write of SE_DMACTL.STOP stops the channel with ERRCODE 5. -/
  | dmaStop (e : Fin 128) (c : Fin 4)
  /-- DMA_DONE (R168): A channel finishes its transfer and sets its bit in SE_EVPEND. -/
  | dmaDone (e : Fin 128) (c : Fin 4)
  /-- DMA_FAIL (R169): A channel access fails, so the channel stops with ERR and its error code. -/
  | dmaFail (e : Fin 128) (c : Fin 4) (code : BitVec 4)
  /-- DRAM_CACHE_FILL (R167): A missed 128-byte line arrives in the engine's DRAM cache and issue resumes. -/
  | dramCacheFill (e : Fin 128)
  /-- TIMER_LOAD (R182): An enabled timer loads its current reload value at cycle 30 of the next frame. -/
  | timerLoad (g : Fin 16) (t : Fin 8)
  /-- TIMER_EXPIRY (R182): A timer expires, sets its event, acts on TIO and reloads, stops or clears EN. -/
  | timerExpiry (g : Fin 16) (t : Fin 8)
  /-- TIO_DRIVE_WRITE (R183): A write to SG_TIODRV is discarded if it would drive a pin that another group drives. -/
  | tioDriveWrite (m : Master) (g : Fin 16) (v : Word)
  /-- TIO_EDGE (R184): A selected edge on a TIO pin is captured into the FIFO, or dropped with OVF set. -/
  | tioEdge (g : Fin 16) (k : Fin 8) (rise : Bool) (cycle : BitVec 16)
  /-- EVENT_PENDING (R185): A capture, timer or DMA event becomes pending for its bound engine. -/
  | eventPending (e : Fin 128) (ev : Fin 20)
  /-- ARM_PROGRAM_SWITCH (R186): A write to SE_SWFRAME arms a program switch for frame F. -/
  | armProgramSwitch (m : Master) (e : Fin 128) (v : Word)
  /-- CANCEL_PROGRAM_SWITCH (R186): A write of SE_SWSTAT.CANCEL disarms the switch. -/
  | cancelProgramSwitch (m : Master) (e : Fin 128)
  /-- ENGINE_APERTURE_ACCESS (R188): A 64-bit access through a data-memory or program aperture arbitrates under R163; writes to the active bank are discarded. -/
  | engineApertureAccess (m : Master) (off : BitVec 40) (w : Option Word)
  /-- SE_LDW (R198): Load a 24-bit sample into d[r]. -/
  | seLdw (e : Fin 128) (sl : Slot) (w : Syl) (last : Option (Fin 2048))
  /-- SE_LDX (R198): Load an 8-byte granule into a d pair. -/
  | seLdx (e : Fin 128) (sl : Slot) (w : Syl) (last : Option (Fin 2048))
  /-- SE_LDQ (R198): Load 16 bytes into four d registers. -/
  | seLdq (e : Fin 128) (sl : Slot) (w : Syl) (last : Option (Fin 2048))
  /-- SE_LDP (R198): Load a p register. -/
  | seLdp (e : Fin 128) (sl : Slot) (w : Syl) (last : Option (Fin 2048))
  /-- SE_LDM (R198): Load an m register. -/
  | seLdm (e : Fin 128) (sl : Slot) (w : Syl) (last : Option (Fin 2048))
  /-- SE_STW (R198): Store a d register. -/
  | seStw (e : Fin 128) (sl : Slot) (w : Syl) (last : Option (Fin 2048))
  /-- SE_STX (R198): Store a d pair. -/
  | seStx (e : Fin 128) (sl : Slot) (w : Syl) (last : Option (Fin 2048))
  /-- SE_STQ (R198): Store four d registers. -/
  | seStq (e : Fin 128) (sl : Slot) (w : Syl) (last : Option (Fin 2048))
  /-- SE_STP (R198): Store a p register. -/
  | seStp (e : Fin 128) (sl : Slot) (w : Syl) (last : Option (Fin 2048))
  /-- SE_STM (R198): Store an m register. -/
  | seStm (e : Fin 128) (sl : Slot) (w : Syl) (last : Option (Fin 2048))
  /-- SE_MAC2 (R198): Accumulate two products. -/
  | seMac2 (e : Fin 128) (sl : Slot) (w : Syl) (last : Option (Fin 2048))
  /-- SE_MSU2 (R198): Subtract two products from the accumulator. -/
  | seMsu2 (e : Fin 128) (sl : Slot) (w : Syl) (last : Option (Fin 2048))
  /-- SE_MUL2 (R198): Set the accumulator to the sum of two products. -/
  | seMul2 (e : Fin 128) (sl : Slot) (w : Syl) (last : Option (Fin 2048))
  /-- SE_CMAC (R201): Complex multiply-accumulate. -/
  | seCmac (e : Fin 128) (sl : Slot) (w : Syl) (last : Option (Fin 2048))
  /-- SE_CMACJ (R201): Complex multiply-accumulate with conjugate. -/
  | seCmacj (e : Fin 128) (sl : Slot) (w : Syl) (last : Option (Fin 2048))
  /-- SE_CMUL (R198): Complex multiply into an accumulator pair. -/
  | seCmul (e : Fin 128) (sl : Slot) (w : Syl) (last : Option (Fin 2048))
  /-- SE_CMULR (R202): Complex product rounded to Q1.23 into a d pair. -/
  | seCmulr (e : Fin 128) (sl : Slot) (w : Syl) (last : Option (Fin 2048))
  /-- SE_CX (R198): Companion syllable of a complex instruction. -/
  | seCx (e : Fin 128) (sl : Slot) (w : Syl) (last : Option (Fin 2048))
  /-- SE_ADD (R202): Sample add with saturation. -/
  | seAdd (e : Fin 128) (sl : Slot) (w : Syl) (last : Option (Fin 2048))
  /-- SE_SUB (R202): Sample subtract. -/
  | seSub (e : Fin 128) (sl : Slot) (w : Syl) (last : Option (Fin 2048))
  /-- SE_NEG (R202): Sample negate. -/
  | seNeg (e : Fin 128) (sl : Slot) (w : Syl) (last : Option (Fin 2048))
  /-- SE_ABS (R202): Sample absolute value. -/
  | seAbs (e : Fin 128) (sl : Slot) (w : Syl) (last : Option (Fin 2048))
  /-- SE_AND (R198): Bitwise and on bits [23:0]. -/
  | seAnd (e : Fin 128) (sl : Slot) (w : Syl) (last : Option (Fin 2048))
  /-- SE_OR (R198): Bitwise or on bits [23:0]. -/
  | seOr (e : Fin 128) (sl : Slot) (w : Syl) (last : Option (Fin 2048))
  /-- SE_XOR (R198): Bitwise xor on bits [23:0]. -/
  | seXor (e : Fin 128) (sl : Slot) (w : Syl) (last : Option (Fin 2048))
  /-- SE_SHL (R202): Left shift of a sample. -/
  | seShl (e : Fin 128) (sl : Slot) (w : Syl) (last : Option (Fin 2048))
  /-- SE_SHR (R198): Arithmetic right shift of a sample. -/
  | seShr (e : Fin 128) (sl : Slot) (w : Syl) (last : Option (Fin 2048))
  /-- SE_MIN (R198): Signed minimum. -/
  | seMin (e : Fin 128) (sl : Slot) (w : Syl) (last : Option (Fin 2048))
  /-- SE_MAX (R198): Signed maximum. -/
  | seMax (e : Fin 128) (sl : Slot) (w : Syl) (last : Option (Fin 2048))
  /-- SE_MOV (R198): Copy a d register. -/
  | seMov (e : Fin 128) (sl : Slot) (w : Syl) (last : Option (Fin 2048))
  /-- SE_MOVI (R198): Load a sign-extended immediate. -/
  | seMovi (e : Fin 128) (sl : Slot) (w : Syl) (last : Option (Fin 2048))
  /-- SE_MOVHI (R198): Set bits [23:16] of a d register. -/
  | seMovhi (e : Fin 128) (sl : Slot) (w : Syl) (last : Option (Fin 2048))
  /-- SE_EXT (R202): Extract a rounded sample from an accumulator. -/
  | seExt (e : Fin 128) (sl : Slot) (w : Syl) (last : Option (Fin 2048))
  /-- SE_ALD (R198): Load an accumulator from a d register. -/
  | seAld (e : Fin 128) (sl : Slot) (w : Syl) (last : Option (Fin 2048))
  /-- SE_ACLR (R198): Clear an accumulator. -/
  | seAclr (e : Fin 128) (sl : Slot) (w : Syl) (last : Option (Fin 2048))
  /-- SE_ABF (R202): Complex butterfly, optionally halved. -/
  | seAbf (e : Fin 128) (sl : Slot) (w : Syl) (last : Option (Fin 2048))
  /-- SE_BR (R205): Unconditional branch with two delay slots. -/
  | seBr (e : Fin 128) (sl : Slot) (w : Syl) (last : Option (Fin 2048))
  /-- SE_BEQ (R205): Branch if the d registers are equal. -/
  | seBeq (e : Fin 128) (sl : Slot) (w : Syl) (last : Option (Fin 2048))
  /-- SE_BNE (R205): Branch if the d registers are not equal. -/
  | seBne (e : Fin 128) (sl : Slot) (w : Syl) (last : Option (Fin 2048))
  /-- SE_BLT (R205): Branch if less. -/
  | seBlt (e : Fin 128) (sl : Slot) (w : Syl) (last : Option (Fin 2048))
  /-- SE_BGE (R205): Branch if greater or equal. -/
  | seBge (e : Fin 128) (sl : Slot) (w : Syl) (last : Option (Fin 2048))
  /-- SE_PBEQ (R205): Branch if the p registers are equal. -/
  | sePbeq (e : Fin 128) (sl : Slot) (w : Syl) (last : Option (Fin 2048))
  /-- SE_PBNE (R205): Branch if the p registers are not equal. -/
  | sePbne (e : Fin 128) (sl : Slot) (w : Syl) (last : Option (Fin 2048))
  /-- SE_LOOP (R206): Start a zero-overhead loop with its count from a d register. -/
  | seLoop (e : Fin 128) (sl : Slot) (w : Syl) (last : Option (Fin 2048))
  /-- SE_LOOPI (R206): Start a zero-overhead loop with an immediate count. -/
  | seLoopi (e : Fin 128) (sl : Slot) (w : Syl) (last : Option (Fin 2048))
  /-- SE_PSETL (R198): Set the low half of a p register. -/
  | sePsetl (e : Fin 128) (sl : Slot) (w : Syl) (last : Option (Fin 2048))
  /-- SE_PSETH (R198): Set the high half of a p register. -/
  | sePseth (e : Fin 128) (sl : Slot) (w : Syl) (last : Option (Fin 2048))
  /-- SE_MSET (R198): Set an m register. -/
  | seMset (e : Fin 128) (sl : Slot) (w : Syl) (last : Option (Fin 2048))
  /-- SE_PADD (R198): Add an m register to a p register. -/
  | sePadd (e : Fin 128) (sl : Slot) (w : Syl) (last : Option (Fin 2048))
  /-- SE_RDC (R212): Read a local register into a p register. -/
  | seRdc (e : Fin 128) (sl : Slot) (w : Syl) (last : Option (Fin 2048))
  /-- SE_WRC (R212): Write a local register from a p register. -/
  | seWrc (e : Fin 128) (sl : Slot) (w : Syl) (last : Option (Fin 2048))
  /-- SE_RDX (R198): Read an engine-block register into a p pair. -/
  | seRdx (e : Fin 128) (sl : Slot) (w : Syl) (last : Option (Fin 2048))
  /-- SE_WRX (R198): Write an engine-block DMA register from a p pair. -/
  | seWrx (e : Fin 128) (sl : Slot) (w : Syl) (last : Option (Fin 2048))
  /-- SE_EVWAIT (R207): Hold issue until an event in the mask is pending. -/
  | seEvwait (e : Fin 128) (sl : Slot) (w : Syl) (last : Option (Fin 2048))
  /-- SE_EVTAKE (R207): Take one event, popping a capture entry or clearing a pending bit. -/
  | seEvtake (e : Fin 128) (sl : Slot) (w : Syl) (last : Option (Fin 2048))
  /-- SE_JEND (R175): End the job once DMA is idle, and complete it if it issues by cycle D − 1. -/
  | seJend (e : Fin 128) (sl : Slot) (w : Syl) (last : Option (Fin 2048))
  /-- SE_IRET (R208): Return from an engine interrupt once the boundary is quiet. -/
  | seIret (e : Fin 128) (sl : Slot) (w : Syl) (last : Option (Fin 2048))
  /-- SE_INTERRUPT_ENTRY (R208): A deliverable engine interrupt is taken at a quiet boundary: IRA saved, IE cleared, FRZ set. -/
  | seInterruptEntry (e : Fin 128)
  /-- RANGE_ENABLE (R226): A write setting MAP_RCFG.V is accepted only if every range check passes. -/
  | rangeEnable (m : Master) (r : Fin 16) (v : Word)
  /-- RANGE_DISABLE (R226): A write clearing MAP_RCFG.V is performed without checks. -/
  | rangeDisable (m : Master) (r : Fin 16) (v : Word)
  /-- SLICE_RETARGET (R241): A write of MAP_SLICE.TARGET starts moving a logical slice to another physical slice. -/
  | sliceRetarget (m : Master) (l : Fin 256) (v : Word)
  /-- SLICE_RETARGET_DONE (R241): The move completes, setting CUR := TARGET and clearing BUSY. -/
  | sliceRetargetDone (l : Fin 256)
  /-- FABRIC_REQUEST_ARRIVAL (R240): A request from another node for local memory is judged against leases and served as a non-core access. -/
  | fabricRequestArrival (p : Packet)
  /-- SUPERLINE_READ (R253): A channel serves a superline read according to the metadata cache and the stored code. -/
  | superlineRead (ch : Fin 16) (r : Req) (how : Service)
  /-- SUPERLINE_WRITE (R255): A channel merges, quantises and encodes a superline write as one indivisible action. -/
  | superlineWrite (ch : Fin 16) (r : Req) (how : Service)
  /-- METADATA_CLEAR_DONE (R248): Channel initialisation finishes clearing the metadata region and sets MDREADY. -/
  | metadataClearDone (ch : Fin 16)
  /-- METADATA_FLUSH (R487): A write of MC_CMPCTL.MDFLUSH starts writing back the dirty metadata lines. -/
  | metadataFlush (m : Master) (ch : Fin 16)
  /-- METADATA_FLUSH_DONE (R487): The last flushed line is written, and MDBUSY clears. -/
  | metadataFlushDone (ch : Fin 16)
  /-- DRAM_COMMAND_BOUNDARY (R275): At a command boundary the scheduler picks the next work in priority order. -/
  | dramCommandBoundary (ch : Fin 16) (act : Option (BankId × BitVec 18))
  /-- WRITE_AGE_DRAIN (R275): The oldest normal write has waited 16 µs, so a drain starts. -/
  | writeAgeDrain (ch : Fin 16)
  /-- WRITE_QUEUE_LIMIT_WRITE (R277): A write to MC_WQ_HI or MC_WQ_LO is discarded if it would make LO at least HI. -/
  | writeQueueLimitWrite (m : Master) (ch : Fin 16) (hi : Bool) (v : Word)
  /-- REFRESH_INTERVAL_DUE (R281): A refresh interval falls due and is refreshed, owed, or discharged by same-bank refresh. -/
  | refreshIntervalDue (ch : Fin 16)
  /-- MODE_REGISTER_4_POLL (R281): Every 1 ms the controller reads DRAM mode register 4 and sets tREFI. -/
  | modeRegister4Poll (ch : Fin 16) (hot : Bool)
  /-- CHANNEL_FREEZE (R289): A freeze trigger stops new commands, sets FROZEN, and starts the snapshot and deferral. -/
  | channelFreeze (ch : Fin 16) (trig : FreezeTrigger)
  /-- FREEZE_SNAPSHOT_DONE (R289): In-flight commands complete, the snapshot is captured, and the freeze event reaches Keeper. -/
  | freezeSnapshotDone (ch : Fin 16)
  /-- REPLAY (R290): ACT REPLAY resyncs from the partner, reissues in-flight requests and serves the queued ones. -/
  | replay (m : Master) (ch : Fin 16)
  /-- RESUME (R290): ACT RESUME resyncs and lets the outcomes of in-flight requests stand. -/
  | resume (m : Master) (ch : Fin 16)
  /-- RETIRE (R290): ACT RETIRE takes the channel out of service, and unmirrored requests fail WITHDRAWN. -/
  | retire (m : Master) (ch : Fin 16)
  /-- FREEZE_DEADLINE (R289): No action has been written by the deadline, so DEFAULT is applied and DEFAULTED is set. -/
  | freezeDeadline (ch : Fin 16)
  /-- FREEZE_ACTION_DONE (R289): The freeze action completes and FROZEN clears. -/
  | freezeActionDone (ch : Fin 16)
  /-- REBUILD (R287): A write of MC_MIRCTL.REBUILD starts copying the pair's superlines from the partner. -/
  | rebuild (m : Master) (ch : Fin 16)
  /-- REBUILD_DONE (R287): The rebuild copy completes, and REBUILDING and DEGRADED clear. -/
  | rebuildDone (ch : Fin 16)
  /-- PORT_CONFIG_WRITE (R301): A write to LE_PORTCFG sets personality, rate, bond, features and EN, subject to the DOWN and alignment rules. -/
  | portConfigWrite (m : Master) (p : Fin 144) (v : Word)
  /-- RENEG (R307): A write of LE_PORTCFG.RENEG takes the link to DOWN to renegotiate. -/
  | reneg (m : Master) (p : Fin 144)
  /-- LINK_BACKOFF_EXPIRY (R307): The backoff after a failure elapses, and an enabled link leaves DOWN for SIGNAL. -/
  | linkBackoffExpiry (p : Fin 144)
  /-- LINK_SIGNAL_DETECTED (R307): Signal and clock are recovered on every lane at 56 Gb/s, and the link enters ADVERT. -/
  | linkSignalDetected (p : Fin 144)
  /-- ADVERTISEMENT_RECEIVE (R305): A partner advertisement arrives; three identical ones decide the version and go to TRAIN or MGMT. -/
  | advertisementReceive (p : Fin 144) (adv : Adv)
  /-- TRAINING_DONE (R307): Equalisation and FEC lock are reached, and the link goes to DELAY or ACTIVE. -/
  | trainingDone (p : Fin 144)
  /-- DELAY_PROBE (R309): A delay probe or its echo is received and time-stamped: the partner's probe, t1 none,
  received at t2 and echoed at t3; or the echo of this side's, with the four times of the measurement. -/
  | delayProbe (p : Fin 144) (t1 : Option Nat) (t2 t3 t4 : Nat)
  /-- DELAY_DONE (R309): Sixteen probes complete, and the smallest delay is stored in LE_PORTDLY. -/
  | delayDone (p : Fin 144)
  /-- KEY_AGREEMENT_DONE (R392): The KEYX exchange agrees link keys and the link becomes ACTIVE, or it fails to MGMT with REASON 4. -/
  | keyAgreementDone (p : Fin 144) (ok : Bool)
  /-- LINK_STATE_TIMEOUT (R307): The time limit of a link state passes, so the link falls back to a narrower width, to DOWN or to MGMT. -/
  | linkStateTimeout (p : Fin 144) (locked : Nat)
  /-- FEC_LOCK_LOST (R307): FEC lock is lost for 1 ms, and the link goes to DOWN. -/
  | fecLockLost (p : Fin 144)
  /-- MANAGEMENT_MESSAGE_RECEIVE (R310): A management message arrives on a link in MGMT or a management exchange. -/
  | managementMessageReceive (p : Fin 144) (msg : List Byte)
  /-- ETHERNET_FRAME_RECEIVE (R313): A received frame is steered to a queue and written to a descriptor, or dropped. -/
  | ethernetFrameReceive (p : Fin 144) (f : EthFrame)
  /-- ETHERNET_FRAME_TRANSMIT (R313): A transmit descriptor is served in strict priority, and its write-back is written. -/
  | ethernetFrameTransmit (p : Fin 144)
  /-- PCIE_INBOUND_REQUEST (R318): An inbound PCI Express memory request is matched to a window and forwarded, or refused. -/
  | pcieInboundRequest (k : Fin 8) (r : PcieReq)
  /-- PCIE_COMPLETION_RECEIVE (R317): A completion for an outbound read arrives; an error status causes a MACHINE-CHECK. -/
  | pcieCompletionReceive (k : Fin 8) (t : Th) (st : CplStatus) (v : Word)
  /-- PCIE_COMPLETION_TIMEOUT (R317): An outbound read times out and the core takes MACHINE-CHECK. -/
  | pcieCompletionTimeout (k : Fin 8) (t : Th)
  /-- SHADOW_MICROWORD_WRITE (R327): A Keeper write of the second half of a microword commits it to the shadow bank and clears MIRRORED. -/
  | shadowMicrowordWrite (m : Master) (le : Fin 36) (i : Fin 32768) (v : Word)
  /-- CONTROL_STORE_COPY (R322): A write of LE_CTL.COPY starts copying the active bank into the shadow bank. -/
  | controlStoreCopy (m : Master) (le : Fin 36)
  /-- CONTROL_STORE_COPY_DONE (R322): The copy completes after 8.192 µs and sets MIRRORED. -/
  | controlStoreCopyDone (le : Fin 36)
  /-- MICROWORD_ISSUE (R321): A link-engine thread issues a microword after the check of R322. -/
  | microwordIssue (le : Fin 36) (th : Fin 4) (cond : Bool) (disp : BitVec 14)
  /-- ARM_MICROCODE_SWITCH (R323): A write to LE_UCSW arms a switch for frame F. -/
  | armMicrocodeSwitch (m : Master) (le : Fin 36) (v : Word)
  /-- CANCEL_MICROCODE_SWITCH (R323): A write of LE_UCSWSTAT.CANCEL disarms the switch. -/
  | cancelMicrocodeSwitch (m : Master) (le : Fin 36)
  /-- MICROCODE_BANK_SWAP (R324): When all four threads hold at switch points, the banks swap in one engine cycle. -/
  | microcodeBankSwap (le : Fin 36)
  /-- MICROCODE_SWITCH_ABANDON (R324): The threads do not all hold by T_f, so the switch is abandoned with ABORTED set. -/
  | microcodeSwitchAbandon (le : Fin 36)
  /-- MICROCODE_SWITCH_REVERT (R324): No release comes by 2 × T_f − 200 ns, so the banks swap back. -/
  | microcodeSwitchRevert (le : Fin 36)
  /-- SLOT_BOUNDARY (R333): At each link slot boundary the transmitter chooses what to send from the slot table. -/
  | slotBoundary (p : Fin 144) (s : Fin 65)
  /-- C0_MESSAGE_ADMIT (R337): A C0 message is admitted and placed in the first group of its flow at least 200 ns later. -/
  | c0MessageAdmit (f : Fin 4096) (r : FabReq)
  /-- FABRIC_REQUEST_ISSUE (R344): A request leaving through the source gateway is classified and judged. -/
  | fabricRequestIssue (r : FabReq)
  /-- PACKET_RECEIVE (R338): A Gohal packet arrives on a link, is checked, and is either delivered or forwarded through the crossbar. -/
  | packetReceive (p : Fin 144) (raw : RawPacket)
  /-- FABRIC_RESPONSE_RECEIVE (R345): A response arrives at the requester and its outcome is delivered to the master. -/
  | fabricResponseReceive (pkt : Packet)
  /-- DEFERRED_REISSUE (R345): A deferred request is reissued at 20 ns after the tick k frames later. -/
  | deferredReissue (tag : BitVec 16)
  /-- FABRIC_REQUEST_TIMEOUT (R345): A request with no response within 64 frames completes as REFUSE 6. -/
  | fabricRequestTimeout (tag : BitVec 16)
  /-- FLOW_DESCRIPTOR_WRITE (R336): A write to MAP_FLOW sets a descriptor, or clears V with effect at the next tick. -/
  | flowDescriptorWrite (m : Master) (f : Fin 4096) (v : Word)
  /-- GRANT (R350): A write of MAP_LEASEA.GRANT makes the lease GRANTED at the next tick and sends a lease grant. -/
  | grant (m : Master) (i : Fin 64)
  /-- LEASE_GRANT_RECEIVE (R350): A lease grant message arrives at the borrower. -/
  | leaseGrantReceive (p : Packet)
  /-- RECALL (R351): A write of MAP_LEASEA.RECALL starts a recall at 20 ns of the next frame. -/
  | recall (m : Master) (i : Fin 64)
  /-- RECALL_NOTICE_RECEIVE (R351): The borrower records a recall notice and drains from the next 20 ns point. -/
  | recallNoticeReceive (p : Packet)
  /-- LEASE_DRAINED (R351): The accesses outstanding to a draining range reach zero, so DRAINED is sent and the entry is WITHDRAWN. -/
  | leaseDrained (j : Fin 64)
  /-- DRAINED_RECEIVE (R351): The lender receives DRAINED and confirms at the next 20 ns point. -/
  | drainedReceive (p : Packet)
  /-- CONFIRM_RECEIVE (R351): The borrower receives the confirm of a recall. -/
  | confirmReceive (p : Packet)
  /-- FORCED_RECALL_CONFIRM (R351): No DRAINED arrives by frame n + 64, so the lender confirms with FORCED and a RAS event. -/
  | forcedRecallConfirm (j : Fin 64)
  /-- LEAVE (R353): A MAP_SVCCTL leave request marks a cluster, group or port leaving. -/
  | leave (m : Master) (v : Word)
  /-- JOIN (R353): A MAP_SVCCTL join request begins bringing a block into service. -/
  | join (m : Master) (v : Word)
  /-- SERVICE_DRAIN_DONE (R354): A leaving block meets its drained condition and is confirmed out of service at the next tick. -/
  | serviceDrainDone
  /-- SERVICE_READY (R354): A joining block meets its ready condition and is confirmed in service at the next tick. -/
  | serviceReady
  /-- SERVICE_OPERATION_TIMEOUT (R353): A join or leave not confirmed by frame n + 1,024 ends with STATE failed and a RAS event. -/
  | serviceOperationTimeout
  /-- LEDGER_POSTING (R359): Every 100 ns the ledger debits activity to accounts and applies fetch gating and the frame cap. -/
  | ledgerPosting (acts : List Activity)
  /-- LEDGER_CLOSE (R359): At 100 ns the previous frame closes, the device account is updated, and grants and C0 reserves are credited. -/
  | ledgerClose (acts : List Activity)
  /-- RECALIBRATION (R360): At the close of every 1,024th frame, FACTOR is recalibrated against the sensed energy. -/
  | recalibration (sensed : Nat)
  /-- SET_BALANCE (R361): A write to ENL_ACCTSET sets a TID balance at the next posting. -/
  | setBalance (m : Master) (v : Word)
  /-- PERFORMANCE_LEVEL_REQUEST (R371): A write of ENL_PLVL.REQ changes the cluster's target level. -/
  | performanceLevelRequest (m : Master) (cl : Fin 32) (v : Word)
  /-- VOLTAGE_RAMP_DONE (R372): The voltage ramp of a level transition completes, and the clock switches with a 20 ns pause. -/
  | voltageRampDone (cl : Fin 32)
  /-- LEVEL_TRANSITION_DONE (R372): A level transition completes, BUSY clears, and any newer target starts. -/
  | levelTransitionDone (cl : Fin 32)
  /-- POWER_DOMAIN_ON (R375): A write of ENL_PWRCTL.ON := 1 starts powering a domain. -/
  | powerDomainOn (m : Master) (d : Fin 83)
  /-- POWER_DOMAIN_OFF (R374): A write of ON := 0 powers a domain off if R374 permits it. -/
  | powerDomainOff (m : Master) (d : Fin 83)
  /-- POWER_DOMAIN_ON_DONE (R375): A domain reaches STATE on, with its blocks reset and its memories zero. -/
  | powerDomainOnDone (d : Fin 83)
  /-- POWER_DOMAIN_OFF_DONE (R375): A domain finishes powering off, and its state is lost. -/
  | powerDomainOffDone (d : Fin 83)
  /-- SLEEP_ENTRY (R376): Both threads of a core wait in WFI with DEPTH non-zero, so entry to the sleep state starts. -/
  | sleepEntry (c : Fin 256)
  /-- SLEEP_ENTRY_DONE (R378): Sleep entry completes, and any wake that arrived during entry starts. -/
  | sleepEntryDone (c : Fin 256)
  /-- SLEEP_WAKE_EVENT (R377): A wake event starts waking a sleeping core. -/
  | sleepWakeEvent (c : Fin 256)
  /-- SLEEP_WAKE_DONE (R376): A core finishes waking and issues its first instruction or enters an interrupt. -/
  | sleepWakeDone (c : Fin 256)
  /-- ENTER_DORMANT (R379): A write of ENL_DORMCTL.ENTER starts Dormant entry if the device is out of service. -/
  | enterDormant (m : Master)
  /-- DORMANT_ENTRY_DONE (R380): Dormant entry completes with only AO running, and any pending wake starts. -/
  | dormantEntryDone
  /-- WAKE_N_ASSERT (R476): WAKE_N is low for 100 samples in Dormant, which is a wake event. -/
  | wakeNAssert
  /-- DORMANT_WAKE (R379): A wake event restores the domains and takes DRAM out of self-refresh. -/
  | dormantWake
  /-- RTC_ALARM (R381): COUNT equals ALARM with ALMEN set, so RTCFIRED is set, Keeper is interrupted and a Dormant device wakes. -/
  | rtcAlarm
  /-- GENERATE_TENANT (R389): Draw a tenant key pair, load the TID's slots and write the wrapped blob. -/
  | generateTenant (m : Master) (tid : Fin 1024)
  /-- IMPORT_TENANT (R389): Unwrap a blob and load the slots of its TID. -/
  | importTenant (m : Master) (tid : Fin 1024)
  /-- ERASE_TENANT (R389): Erase the slots of a TID. -/
  | eraseTenant (m : Master) (tid : Fin 1024)
  /-- LOAD_RACK (R389): Load the rack authentication key from THS_KEYBUF. -/
  | loadRack (m : Master)
  /-- LOAD_SAK (R389): Load a MACsec secure association key on an Ethernet link. -/
  | loadSak (m : Master) (port : BitVec 8) (an : Fin 4)
  /-- ERASE_SAK (R389): Erase a MACsec secure association key. -/
  | eraseSak (m : Master) (port : BitVec 8) (an : Fin 4)
  /-- KEY_COMMAND_DONE (R389): A key command completes within 5 µs with its RESULT, and Keeper is interrupted. -/
  | keyCommandDone
  /-- LINK_REKEY (R393): A packet counter reaches 2^40 or 2^26 frames pass, and the lower-node side starts an in-band rekey. -/
  | linkRekey (p : Fin 144) (frame : Word)
  /-- LINK_REKEY_FAILURE (R393): A rekey not complete within 64 frames, or whose HMAC check fails, takes the link DOWN. -/
  | linkRekeyFailure (p : Fin 144)
  /-- VERIFY_IMAGE (R395): A write of THS_IMGCMD.GO starts verifying an image into its destination. -/
  | verifyImage (m : Master)
  /-- IMAGE_VERIFY_DONE (R395): Verification ends with its RESULT, and the destination is zeroed on a tag failure. -/
  | imageVerifyDone (img : Image)
  /-- LID_MESH_ALARM (R397): An open or short on the lid mesh qualifies Thistle source 1. -/
  | lidMeshAlarm (detail : Byte)
  /-- RAIL_GLITCH (R468): A 0.5 to 5 ns deviation of more than 15% on a monitored rail qualifies source 2. -/
  | railGlitch (detail : Byte)
  /-- CLOCK_GLITCH (R472): A clock period shorter than 75% of nominal qualifies source 3. -/
  | clockGlitch (detail : Byte)
  /-- TEMPERATURE_ALARM (R397): A junction sensor below −50 °C or above 125 °C in two samples qualifies source 4. -/
  | temperatureAlarm (detail : Byte)
  /-- LIGHT_SENSOR_ALARM (R397): Light above the threshold at the die qualifies source 5. -/
  | lightSensorAlarm (detail : Byte)
  /-- FIRMWARE_ALARM (R398): A write to THS_RAISE raises an alarm at the level written. -/
  | firmwareAlarm (m : Master) (v : Word)
  /-- LEVEL3_ERASE_DONE (R400): At 50 µs the array erase completes, ERASED is set, and the device restarts or stays off. -/
  | level3EraseDone
  /-- HOLD_RELEASE (R399): A write to THS_HOLDCLR releases held TIDs and, with ALL, ends the debug lock. -/
  | holdRelease (m : Master) (v : Word)
  /-- ZEROIZE_WIRE_ASSERT (R401): A zeroize wire qualifies as asserted, raising Level 3 or Level 2 by the discrepancy rules. -/
  | zeroizeWireAssert (wire : TickInput)
  /-- ZEROIZE_WIRE_RELEASE (R401): A zeroize wire is released; a release before N logs Level 1. -/
  | zeroizeWireRelease (wire : TickInput)
  /-- ZEROIZE_DISCREPANCY (R401): The zeroize count reaches N with only one wire asserted, raising Level 2 and setting DFAULT. -/
  | zeroizeDiscrepancy
  /-- TRNG_READ (R410): A read of THS_TRNG consumes 64 fresh bits, waiting for a refill if the register is empty. -/
  | trngRead (m : Master)
  /-- TRNG_HEALTH_FAILURE (R410): A health test fails, stops the TRNG and raises source 9 at Level 1. -/
  | trngHealthFailure
  /-- SCRUB_READ (R420): A scrubber reads an assigned unit, correcting or poisoning under R414 and R415. -/
  | scrubRead (target : Fin 256) (unit : BitVec 32)
  /-- ARM_ERROR_INJECTION (R421): A write of ERR_FLIPMASK.ARM arms corruption of the next write into a target array. -/
  | armErrorInjection (m : Master) (n : Fin 155) (v : Word)
  /-- MESH_QUADRANT_FAILURE (R432): A mesh quadrant fails, routing switches to column first, and MESHDEG is set. -/
  | meshQuadrantFailure (q : Fin 4)
  /-- MESH_REQUEST_REISSUE (R432): A request lost in a failed quadrant is reissued after 10 µs, or completes as poisoned. -/
  | meshRequestReissue (id : BitVec 16) (tid : Fin 1024) (lost : Bool)
  /-- SLICE_FAILURE (R433): A failed slice's logical slices move to the next cluster, and the TIDs of lost dirty data are recorded. -/
  | sliceFailure (sl : Fin 256)
  /-- CLUSTER_FAILURE (R434): A cluster fails: its threads stop, its slices fail, and directory entries naming it are resolved. -/
  | clusterFailure (cl : Fin 32)
  /-- CORE_FAILURE (R437): A core fails while running and leaves service at once. -/
  | coreFailure (c : Fin 256)
  /-- RESTART_THREAD (R434): A write of ERR_THRCTL.GO restarts a thread stopped under R97. -/
  | restartThread (m : Master) (v : Word)
  /-- RESTART_LINK_ENGINE (R435): A write of ERR_LERESTART.GO restarts a halted link engine from its verified shadow bank. -/
  | restartLinkEngine (m : Master) (v : Word)
  /-- PWRGOOD_CHANGE (R442): PWRGOOD qualifies high or low, releasing the device from reset or resetting it. -/
  | pwrgoodChange (high : Bool)
  /-- RESET_N_CHANGE (R442): RESET_N qualifies low or high, causing a device reset or a release from reset. -/
  | resetNChange (high : Bool)
  /-- KEEPER_ROM_BOOT (R443): On reset release Keeper ROM loads fuses, reads flash, verifies the images and starts the link engines. -/
  | keeperRomBoot (b : BootInput)
  /-- KEEPER_FIRMWARE_ENTRY (R444): Keeper firmware is entered at S with the start kind in g1 and the slot in g2. -/
  | keeperFirmwareEntry
  /-- KEEPER_LOCKSTEP_MISMATCH (R441): The Keeper pair disagrees and the KP domain makes a lockstep restart. -/
  | keeperLockstepMismatch
  /-- BOOT_LOCK (R447): A write of KPR_BOOTCTL.LOCK reaches the boot lock point and freezes every LK field. -/
  | bootLock (m : Master)
  /-- START_THREAD (R448): A write of CL_STARTPC.GO starts a compute thread at H in the bare context. -/
  | startThread (m : Master) (t : Fin 512) (v : Word)
  /-- LIVE_RESTART (R451): A write of KPR_RESTART.GO resets KP and restarts Keeper from the named slot. -/
  | liveRestart (m : Master) (v : Word)
  /-- STOP_CADENCE (R453): A write of KPR_CADCTL.STOP stops the Cadence pair. -/
  | stopCadence (m : Master)
  /-- START_CADENCE (R453): A write of KPR_CADCTL.START starts the Cadence pair at local 0x0010_0000. -/
  | startCadence (m : Master)
  /-- CADENCE_DOORBELL (R462): A Keeper write to CAD_DOORBELL sets CAD_IPEND bit 3. -/
  | cadenceDoorbell (m : Master) (v : Word)
  /-- MAILBOX_DOORBELL (R455): A write to KPR_MBOXDB submits a mailbox request. -/
  | mailboxDoorbell (m : Master) (v : Word)
  /-- MAILBOX_RESPONSE (R455): The response is written to KPR_MBOXRSP and DONE is set. -/
  | mailboxResponse (rsp : MgmtMsg) (status : Byte)
  /-- MAILBOX_DONE_READ (R455): The read of KPR_MBOXDB that returns DONE = 1 clears DONE. -/
  | mailboxDoneRead (m : Master)
  /-- MANAGEMENT_BUS_MESSAGE (R454): A message arrives from the board management controller over I3C or SMBus. -/
  | managementBusMessage (i3c : Bool) (msg : MgmtMsg)
  /-- GET_VERSION (R456): Return the API versions, KPR_DEVID, KPR_SERIAL and the OP bitmap. -/
  | getVersion (msg : MgmtMsg)
  /-- GET_BOOTSTAT (R456): Return the boot status. -/
  | getBootstat (msg : MgmtMsg)
  /-- GET_RECORDS (R456): Return records from the record ring. -/
  | getRecords (msg : MgmtMsg) (first : Fin 4096) (count : Fin 8)
  /-- BYPASS (R457): JTAG BYPASS instruction. -/
  | bypass
  /-- IDCODE (R457): JTAG IDCODE instruction, which reads 0x2520_0147. -/
  | idcode
  /-- SAMPLE_PRELOAD (R457): JTAG SAMPLE/PRELOAD instruction. -/
  | samplePreload
  /-- EXTEST (R457): JTAG EXTEST, which works only inside a session whose scope includes it. -/
  | extest
  /-- DBGPORT (R457): Vendor debug transport access inside an authenticated session. -/
  | dbgport
  /-- DEBUG_CHALLENGE (R458): The debugger reads a 64-byte authentication challenge. -/
  | debugChallenge
  /-- DEBUG_AUTH_RESPONSE (R458): A signed response is checked, opening a session or incrementing KPR_DBGFAIL. -/
  | debugAuthResponse (scope : BitVec 5) (keyIdx : Fin 4) (hashOk sigOk : Bool)
  /-- DEBUG_AUTH_TIMEOUT (R458): No response arrives within 10 s, and authentication fails. -/
  | debugAuthTimeout
  /-- TRST_N_ASSERT (R458): TRST_N is asserted and ends the debug session. -/
  | trstNAssert
  /-- DEBUG_READ (R459): A normal debug read of a control register, with read side effects. -/
  | debugRead (off : BitVec 40)
  /-- QUIET_DEBUG_READ (R459): A quiet debug read returns the value without clearing or consuming it. -/
  | quietDebugRead (off : BitVec 40)
  /-- HALT_THREAD (R460): A debug halt request stops a compute thread at its next commit point. -/
  | haltThread (t : Th)
  /-- RELEASE_THREAD (R460): A halted thread is released and resumes at its PC. -/
  | releaseThread (t : Th)
  /-- HALT_ENGINE (R461): A debug halt request stops a signal engine, or is deferred for a C0 job with DBGYIELD = 0. -/
  | haltEngine (e : Fin 128)
  /-- RELEASE_ENGINE (R461): A halted engine is released and resumes running. -/
  | releaseEngine (e : Fin 128)
  /-- SUPPLY_FAULT (R469): A rail deviates by more than 8% for over 5 ns, and the device acts according to the rail. -/
  | supplyFault (rail : Rail)
  /-- REFCLK_MISSING (R472): The selected reference clock shows no edge for 40 ns, causing failover or a hold. -/
  | refclkMissing (inp : RefIn)
  /-- REFCLK_RETURN (R472): A reference clock returns and is marked OK after 1 ms of clean edges. -/
  | refclkReturn (inp : RefIn)
  /-- REFCLK_HOLD_EXPIRY (R472): Both reference clocks stay missing for 1 ms, causing a supply fault with LASTFAULT 8. -/
  | refclkHoldExpiry
  /-- SDREF_MISSING (R473): A SerDes reference input is missing for 40 ns, and its ports go DOWN. -/
  | sdrefMissing (k : Fin 4)
  /-- SDREF_RESTORED (R473): A SerDes reference runs cleanly for 1 ms, and its ports renegotiate. -/
  | sdrefRestored (k : Fin 4)
  /-- THERMAL_TRIP (R481): A sensor above 115 °C in two samples asserts THERMTRIP_N. -/
  | thermalTrip
  /-- COLD_START (R441): VAO and VIN_CORE come up and every domain starts from reset. -/
  | coldStart
  /-- DRAM_WINDOW_BOUNDARY (R280): The START or END offset of a C0 or refresh window in the DRAM window table is reached, so MC_STAT.C0WIN and the refresh-window state of the channel change. -/
  | dramWindowBoundary (ch : Fin 16) (unit : Fin 1024)
  /-- CHANNEL_TRAINING_DONE (R272): Training of a memory channel passes or fails, so the channel can enter service with INSVC set once MDREADY is 1, or stays out of service. -/
  | channelTrainingDone (ch : Fin 16) (ok : Bool)
  /-- PCIE_LINK_STATE_CHANGE (R319): A PCI Express or CXL link enters or leaves L0 through training, hot-plug presence or partner loss, and requests to ranges that name a link not in L0 fail WITHDRAWN. -/
  | pcieLinkStateChange (k : Fin 8) (st : PcieState)
  /-- THERMTRIP_N_RELEASE (R481): Every junction sensor reads 105 °C or less, so THERMTRIP_N is released and TTRIP clears. -/
  | thermtripNRelease
  /-- MESH_QUADRANT_REJOIN (R432): A failed mesh quadrant rejoins, ERR_STAT.MESHDEG clears, and row-first routing is restored. -/
  | meshQuadrantRejoin (q : Fin 4)
  /-- DIRECTORY_REPORTS_COMPLETE (R433): Every L2 has reported its granules homed at a moved logical slice, within 100 µs of the slice failure, and directory misses there stop probing all clusters. -/
  | directoryReportsComplete (l : Fin 256)
  /-- TRNG_REFILL (R410): THS_TRNG refills with 64 fresh bits within 1 µs of a read, releasing any read that waits on the empty register. -/
  | trngRefill
deriving DecidableEq, Repr

end Sys2Proof
end

