-- ==== Sys2Proof/Config.lean ====
section
/-! DEFINITION. What a part or its standards fix and the manual does not give: constants without a body, so that no
proof can rest on a value of theirs. Where the manual leaves a result open the model applies one of them to the
operands, or to a plain counter of State (entries 3, 6, 9 of the assumption log). -/
namespace Sys2Proof.Config

/-- The serial number of the die less one (R17): KPR_SERIAL is not zero, otherwise open. -/
opaque serialLess1 : Fin 0xFFFF_FFFF_FFFF_FFFF

/-- The 64-bit draws of the TRNG, in order (R410). -/
opaque trng : Nat → Word

/-- The bit blocks of a value the manual leaves open, drawn afresh each time (entry 6). -/
opaque freeWord : Nat → Word

/-- What seals a 64-byte burst slot: the XTS key pair and the tweak (R284, R285). -/
structure Seal where
  key   : BitVec 512
  tweak : BitVec 128
deriving DecidableEq, Repr

/-- The plaintext that the XTS decryption of a superline sealed in one way gives in another (R284, R285): the stored data,
the seal it was encrypted under, and the one that decrypts it. -/
opaque wrongKey : Superline → Seal → Seal → Superline

/-- Where a 64-byte slot of a channel lies in its DRAM devices, which the manual does not give (R440): the channel's
population (MC_CFG) and the slot; rank, bank group and bank in bits [7:0], row in [25:8], column in [36:26]. -/
opaque dramPlace : Word → Nat → BitVec 37

/-- The bytes that a corrupted write stores (R290). -/
opaque corrupted : Word → Superline

/-- The same for a granule of CXL memory (R319): its data, the two key pairs, the granule. -/
opaque wrongGran : Granule → BitVec 512 → BitVec 512 → Nat → Granule

/-- The key derivation of R387: the key epoch gives KWK. -/
opaque kdfKwk : BitVec 32 → BitVec 256

/-- The key derivation of R387: KWK gives the key pair of TID 0. -/
opaque kdfTid0 : BitVec 256 → BitVec 512

/-- The key stream of AES-256-GCM under KWK and a nonce, for the 64 bytes of a wrapped key pair (R390). -/
opaque gcmStream : BitVec 256 → BitVec 96 → BitVec 512

/-- The tag of AES-256-GCM under KWK: header, nonce and ciphertext (R390). -/
opaque gcmTag : BitVec 256 → Word → BitVec 96 → BitVec 512 → BitVec 128

/-- Whether the neighbour-refresh sample of an activate succeeds: the channel's generator state, reseeded from the
TRNG, and the exponent K decide (R283). -/
opaque nbrSample : Nat → Nat → Bool

/-- The word a decoder gives for a codeword with three or more wrong bits, which the code may miscorrect (R414). -/
opaque miscorrect : Nat → Word → Word

/-- What the SEQ field of a microword asks for (R321): 0 next, 1 jump, 2 conditional branch, 3 call, 4 return,
5 dispatch on frame type, 6 wait for port event, 7 switch point, 8 release, 9 reserved. The manual gives no codes. -/
opaque ucSeq : BitVec 4 → Fin 10

/-- The direction that the predictor of R105 gives a branch, from the directions it has recorded for it, newest first. -/
opaque direction : List Bool → Bool

/-- The hash of a path history that indexes the 4,096 entries of the indirect-target table (R105). -/
opaque pathHash : List (BitVec 19) → Fin 4096

/-- The session keys that two link partners agree on (R392), by port and TRNG draw, in the order the derivation names
them: first the transmit key of the side with the lower node ID. -/
opaque linkKey : Nat → Nat → Bool → BitVec 256

/-- The frame that MACsec makes of a frame (IEEE 802.1AE, R312): key, association number, packet number, and the length and
the bytes of the frame give those of the protected one. -/
opaque macsec : BitVec 256 → Nat → Nat → Nat → Nat → Nat × Nat

/-- The range of management message-set versions that the Keeper firmware of a slot offers (R304). -/
opaque msgRange : Bool → BitVec 4 × BitVec 4

/-- What a root port holds from which its configuration registers follow, its bus numbers apart (R316): whether its link
is in L1 and a device is present, the generation and the lanes of the last training, the refused posted writes that its
Advanced Error Reporting has logged, oldest first, and the configuration writes it has taken, newest first. -/
structure RootPort where
  l1      : Bool
  present : Bool
  gen     : Nat
  lanes   : Nat
  aer     : List (Word × Nat)
  writes  : List (Nat × Nat × Word)
deriving DecidableEq, Repr

/-- A byte of a root port's configuration space, which PCI Express defines: whether the link is in L0, the port, the
offset (R316, R317). -/
opaque rootReg : Bool → RootPort → Nat → Byte

/-- Downstream Port Containment, as PCI Express defines it, holds the link out of L0 (R316). -/
opaque rootContains : RootPort → Bool

/-- The capacity, in GiB, that the Type 3 device of a CXL link reports at enumeration (R226). -/
opaque cxlCapGiB : Nat → Nat

/-- The units of R418 that an array has beyond those whose size the manual gives, by target and SUB (R413, R419). -/
opaque scrubUnits : Nat → Nat → Nat

/-- The square of the voltage of a performance level, in units of 10^-4 V^2, which scales energy (R357, R370). -/
def voltSq : Nat → Nat
  | 0 => 10000
  | 1 => 7744
  | 2 => 6084
  | 3 => 4900
  | 4 => 3844
  | _ => 3600

end Sys2Proof.Config
end

