-- ==== Sys2Proof/Machine/State.lean ====
section
/-! DEFINITION. The state of the ZV5200 as plain data, the reasons a command can stop, and the state at reset.
Every sparse array is an SMap: strictly rising indices. An array of words or memory cells lists no entry equal to what
an unlisted index reads as; a table of structures (threads, cores, engines, ...) lists the indices that a command has
touched, and an unlisted one reads as the structure's reset value. -/
namespace Sys2Proof.Machine

/-- Why a command stops the model. No meaning raises a fault today: every command the spec describes has a next
state. -/
inductive Fault where
  /-- Reserved for an access the spec says does not exist and settles nowhere; raised by no meaning. Safe. -/
  | noSuchState
deriving DecidableEq, Repr

/-- Why a command is refused. -/
inductive Refusal where
  /-- The command has no meaning yet: raised by Dispatch only. Safe. -/
  | notModelled (mnemonic : String)
deriving DecidableEq, Repr

/-! ### AKZ threads -/

/-- Privilege levels (R54). -/
inductive Priv where
  | u | s | h
deriving DecidableEq, Repr

/-- What a thread is doing (R54, R125, R460, R97): not started; running; waiting in WFI; halted by debug; stopped. -/
inductive RunState where
  | off | running | waiting | halted | stopped
deriving DecidableEq, Repr

/-- The vector an interrupt entry in progress has selected (R123, R124). -/
structure EntrySel where
  vec  : Nat
  prio : Nat
  toH  : Bool
deriving DecidableEq, Repr

/-- What a response over the fabric or from a PCI Express link completes (R74, R76, R149, R317): a load into a register, a
fetch-and-op, a table word for WSTEP, or an instruction line; `stored`: a store of a pair that a frozen channel holds
(R71, R289), with what its instruction writes to rd; `ack`: the acknowledgement that a Sorrel thread's committed fabric
store needs before the next instruction issues (R119). -/
inductive AwaitKind where
  | load (rd size : Nat) (signed fp y : Bool)
  | atomic (rd size : Nat) (y : Bool)
  | walk (rd : Nat) (base index : Word) (alloc y : Bool)
  | fetch (line : Nat)
  | stored (rd : Nat) (v : Word) (y : Bool)
  | ack
deriving DecidableEq, Repr

/-- The access that an instruction waits for: its word, the address a trap reports, the global address, what completes it, and whether it was
performed when the instruction reached commit (R72), so that no interrupt comes before it. -/
structure Await where
  inst : BitVec 32
  addr : Word
  ga   : Word
  what : AwaitKind
  atCommit : Bool
deriving DecidableEq, Repr

/-- A TLB entry (R140): the three CSRs it was written from and its TID. -/
structure TlbEnt where
  va   : Word
  pa   : Word
  attr : Word
  tid  : BitVec 10
deriving DecidableEq, Repr

/-- A use of an L2 TLB entry that the instruction in progress makes (R137): by its fetch or its data access; set, way,
entry. -/
structure TlbUse where
  fetch : Bool
  set   : Nat
  way   : Nat
  ent   : TlbEnt
deriving DecidableEq, Repr

/-- An entry of a return stack with its tags (R105): the stack is the thread's own, which is its third tag. -/
structure RasEnt where
  tid  : BitVec 10
  priv : Priv
  addr : Word
deriving DecidableEq, Repr

/-- A thread of an AKZ core. CSRs are kept by number. -/
structure Thread where
  /-- General registers g1 to g31 by number; unlisted reads 0 (R52; reset: entry 5). -/
  g : SMap Word
  /-- Floating-point registers (R83); unlisted reads 0. -/
  f : SMap Word
  /-- Yarrow tags of g and f (R112). -/
  gy : BitVec 32
  fy : BitVec 32
  /-- CSRs by number (R90, R126, R155, R449); unlisted reads its reset value. -/
  csr : SMap Word
  pc : Word
  priv : Priv
  run : RunState
  /-- The reservation: the granule's number, address / 64 (R78), and whether its hold runs. -/
  resv : Option Nat
  hold : Bool
  /-- The recorded fabric store failure: address and reason code (R74). -/
  storeFail : Option (Word × BitVec 3)
  /-- The access the thread's instruction waits for. -/
  await : Option Await
  /-- The lines of instruction words the thread has fetched, global address / 64 (R79, R80): the one it runs in, and for a
  Sorrel thread the one after it (R118). -/
  fetched : List Nat
  /-- What the instruction in progress does when it commits: TLB uses (R137), and whether it counts in SRLOUT (R119). -/
  touch : List TlbUse
  gone  : Bool
  /-- The granules that loads still in flight have looked up ahead of their commit, oldest first (R108, R111). -/
  ahead : List Nat
  /-- Path history: address bits [20:2] of the last 32 taken transfers, newest first (R105). -/
  hist : List (BitVec 19)
  /-- Return stack, top first, at most 32 (R105). -/
  ras : List RasEnt
deriving DecidableEq, Repr

/-! ### Caches and TLBs -/

/-- One set of a set-associative array: its valid ways, and one replacement bit for each node or way. -/
structure CSet (α : Type) where
  ways : SMap α
  bits : BitVec 16
deriving DecidableEq, Repr

/-- An L2 line (R103): granule number, data, and the record of its last store (R254, R285). -/
structure L2Line where
  gran   : Nat
  data   : Granule
  dirty  : Bool
  poison : Bool
  tid    : Nat
  codec  : BitVec 4
  y      : Bool
  locked : Bool
deriving DecidableEq, Repr

/-- A walk-cache entry (R149). -/
structure WalkEnt where
  base  : Word
  index : Word
  tid   : BitVec 10
  val   : Word
deriving DecidableEq, Repr

/-- The three tags of a predictor entry (R105). -/
structure PredTag where
  thread : Bool
  tid    : BitVec 10
  priv   : Priv
deriving DecidableEq, Repr

/-- An entry of the conditional-direction predictor: the branch and its committed directions, newest first. -/
structure DirPred where
  tag   : PredTag
  pc    : Word
  taken : List Bool
deriving DecidableEq, Repr

/-- An entry of the indirect-target table (R105). -/
structure IndPred where
  tag    : PredTag
  target : Word
deriving DecidableEq, Repr

/-- An entry of the speculative fill buffer (R108): the thread slot and the granule. -/
structure SpecFill where
  slot : Nat
  gran : Nat
deriving DecidableEq, Repr

/-- A compute core's arrays. An L1 entry names its granule; its data is the L2 line that includes it (R103). -/
structure Core where
  l1i   : SMap (CSet Nat)
  l1d   : SMap (CSet Nat)
  l2    : SMap (CSet L2Line)
  /-- L1 TLBs, each entry with its recently-used bit (R137). -/
  itlb  : List (TlbEnt × Bool)
  dtlb  : List (TlbEnt × Bool)
  /-- L2 TLB by 128 × band + set (R136). -/
  l2tlb : SMap (CSet TlbEnt)
  walk  : List (WalkEnt × Bool)
  /-- The conditional-direction predictor, and the indirect-target table by index (R105). -/
  dirPred : List DirPred
  indPred : SMap IndPred
  /-- The speculative fill buffer, at most 16 entries (R108). -/
  fillBuf : List SpecFill
  /-- What the L1D stride and the L2 stream prefetcher have trained on: granules of committed untagged accesses, newest
  first (R104). -/
  train : List Nat
  /-- A Sorrel region load in progress (R116). -/
  srlLoading : Bool
  /-- A wake event that arrived during entry into a sleep state (R378). -/
  wakePending : Bool
  /-- The sleep state being entered (R376). -/
  sleepTo : Nat
  failed : Bool
deriving DecidableEq, Repr

/-- A sector of an LLC line (R232), with the record that travels with dirty data (R254, R285). -/
structure Sector where
  data   : Granule
  dirty  : Bool
  poison : Bool
  tid    : Nat
  codec  : BitVec 4
  y      : Bool
deriving DecidableEq, Repr

/-- An LLC line: line number (address / 256), logical slice, valid sectors, age (R232, R233). -/
structure LlcLine where
  line   : Nat
  lslice : Nat
  sec    : SMap Sector
  age    : Nat
deriving DecidableEq, Repr

/-- The two states of a directory entry (R236). -/
inductive DirState where
  | e (core : Nat)
  | s (clusters : BitVec 32)
deriving DecidableEq, Repr

/-- A directory entry: granule number, state, pinned by a Sorrel region (R237). -/
structure DirEnt where
  gran   : Nat
  st     : DirState
  pinned : Bool
deriving DecidableEq, Repr

/-! ### Signal engines -/

/-- The wrong bits of a stored word: data bits and check bits inverted by an injection (R421). -/
structure ArrErr where
  data  : Word
  check : BitVec 9
  /-- For a microword, bits [127:64]. -/
  dataHi : Word
deriving DecidableEq, Repr

/-- A written 64-bit word of an on-die array; an unlisted word has its written bit clear and reads zero (R414). -/
structure MemW where
  data   : Word
  poison : Bool
deriving DecidableEq, Repr

/-- Where a signal-engine result lands. -/
inductive Dest where
  | d (r : Nat) | a (r : Nat) | p (r : Nat) | m (r : Nat) | loc (i : Nat)
deriving DecidableEq, Repr

/-- A result in flight (R194), in order of issue: bundles left until it is visible, where it lands, and its value; a load
that missed the DRAM cache names the global address of its word (R167). -/
structure Flight where
  left : Nat
  dest : Dest
  val  : BitVec 64
  wait : Option Nat
deriving DecidableEq, Repr

/-- A line of an engine's DRAM cache: way, line number (global address / 128), data, poisoned granules (R166). -/
structure ECLine where
  way    : Nat
  line   : Nat
  data   : BitVec 1024
  poison : BitVec 2
deriving DecidableEq, Repr

/-- The running job of an engine (R170, R173, R174). -/
structure Job where
  slot    : Nat
  sf      : Bool
  c0      : Bool
  yieldOk : Bool
  tid     : Nat
  endPos  : Nat
  outmask : BitVec 8
  hold    : Nat
  used    : Nat
  wins    : List Word
deriving DecidableEq, Repr

/-- A DMA transfer in progress (R168): the job's TID, class and windows, and the channel's registers as GO found them. -/
structure DmaRun where
  tid   : Nat
  c0    : Bool
  wins  : List Word
  src   : Word
  dst   : Word
  shape : Word
deriving DecidableEq, Repr

/-- A line that a load has missed (R167): its number (global address / 128), and the slot and the bundle that a program
error of its arrival names (R215). -/
structure Miss where
  line   : Nat
  slot   : Nat
  bundle : Nat
deriving DecidableEq, Repr

/-- A signal engine. -/
structure Engine where
  dmem   : SMap MemW
  progA  : SMap MemW
  progB  : SMap MemW
  d      : SMap (BitVec 32)
  a      : SMap (BitVec 56)
  p      : SMap (BitVec 32)
  m      : SMap (BitVec 32)
  /-- Local registers by index (R212); unlisted reads its reset value. -/
  loc    : SMap (BitVec 32)
  flight : List Flight
  /-- The syllables of the bundle that is about to issue, and whether its issue is held (R193, R207). -/
  bundle : List (Slot × BitVec 6 × Syl)
  held   : Bool
  pc     : Nat
  slots  : Nat
  redirect : Option Nat
  annul  : Bool
  /-- The DRAM cache: each set's lines, most recently used first. -/
  cache  : SMap (List ECLine)
  /-- Missed lines the engine waits for (R167). -/
  miss   : List Miss
  /-- The loop buffer (R165): first and last bundle of the body it holds, and the bundles captured so far. -/
  lbody  : Nat × Nat
  lbuf   : SMap (BitVec 256)
  job    : Option Job
  /-- The completed job whose last bundle's loads still wait for a line (R175, R193). -/
  owed   : Option Job
  /-- The last frame of the span of the superframe job that the engine began last (R172). -/
  span   : Option Word
  lastTid : Option Nat
  /-- The next slot of the frame's list to look at (R173). -/
  next   : Nat
  dma    : SMap DmaRun
  haltReq : Bool
deriving DecidableEq, Repr

/-- An entry of a capture FIFO (R184). -/
structure CapEnt where
  frame : BitVec 32
  cycle : BitVec 16
  rise  : Bool
deriving DecidableEq, Repr

/-- A signal group's timers and capture units. -/
structure Group where
  /-- Timers enabled and waiting for cycle 30 of the next frame (R182): the frame of the write, none before the first. -/
  start : SMap (Option Word)
  /-- The cycles left to the timers that count (R181). -/
  count : SMap Nat
  fifo  : SMap (List CapEnt)
deriving DecidableEq, Repr

/-! ### Memory channels -/

/-- A stored superline (R245, R249): its code, its image before encryption, its poisoned sectors, the TID it was
written under and what seals it (R284, R285), and how many devices of each burst slot an injection has inverted (R421). -/
structure SLine where
  code   : BitVec 4
  image  : Superline
  poison : BitVec 4
  tid    : Nat
  /-- The seal of each burst: a write of part of a superline of code 0x1 leaves the other bursts under theirs (R255, R285). -/
  keys   : Vector Config.Seal 4
  bad    : SMap Nat
deriving DecidableEq, Repr

/-- A metadata-cache line: line number (superline / 128) and dirty bit (R247). -/
structure MdLine where
  line  : Nat
  dirty : Bool
deriving DecidableEq, Repr

/-- The actions that end a freeze (R290). -/
inductive FrzAct where
  | replay | resume | retire
deriving DecidableEq, Repr

/-- A RAS record's fields (R425). -/
structure Record where
  kind   : BitVec 8
  target : BitVec 8
  sub    : BitVec 8
  sev    : BitVec 2
  tid    : BitVec 10
  seq    : BitVec 16
  addr   : Word
  time   : Word
  frame  : BitVec 32
  detail : BitVec 32
deriving DecidableEq, Repr

/-- A waiting request of a channel: the request, whether it writes, the sectors it carries as poisoned, its arrival
(always-on cycles) and place in the order of arrival at the queues, the TEASEL bits of the sixteen channels when it
arrived (R269), and whether a C0 window was then in force (R281). -/
structure QReq where
  req    : Req
  write  : Bool
  pois   : BitVec 4
  time   : Nat
  seq    : Nat
  teasel : BitVec 16
  inWin  : Bool
deriving DecidableEq, Repr

/-- A DRAM command of the history (R440): its code, the subchannel, the rank, bank group and bank, the row, the column,
and the always-on cycles at its issue. -/
structure DramCmd where
  cmd  : BitVec 4
  sub  : Bool
  bank : BitVec 8
  row  : BitVec 18
  col  : BitVec 11
  time : Nat
deriving DecidableEq, Repr

/-- The freeze snapshot (R295, R440): header fields, syndrome records, and the queues as they stood. -/
structure Snapshot where
  cause     : BitVec 3
  more      : BitVec 8
  moreCause : BitVec 4
  time      : Nat
  frame     : Word
  synd      : List Record
  /-- The last 256 DRAM commands, oldest first. -/
  history   : List DramCmd
  /-- Queue entries by position: C0 queue from 0, read queue from 16, write queue from 80. -/
  queues    : SMap QReq
  deferred  : List QReq
  resync    : List Nat
deriving DecidableEq, Repr

/-- A memory channel. -/
structure Chan where
  /-- The superlines DRAM holds; an unlisted one has code 0x0. -/
  sl      : SMap SLine
  /-- The metadata cache, and the metadata lines in DRAM with devices in error. -/
  md      : SMap (CSet MdLine)
  mdErr   : SMap Nat
  c0q     : List QReq
  rdq     : List QReq
  wrq     : List QReq
  /-- Requests that wait at the mesh stop for room in their queue, in order (R275), and how many have entered a queue. -/
  stop    : List QReq
  arrivals : Nat
  /-- The last 256 DRAM commands, oldest first (R289, R440); the request carried out last, and the one in flight at a
  command/address parity error (R290). -/
  history : List DramCmd
  last    : Option QReq
  inflight : Option QReq
  /-- Metadata lines that a flush has yet to write (R487). -/
  flush   : List Nat
  /-- Refresh intervals held pulled in, the rate of the next interval, and whether a refresh window is in force (R281)
  and its refreshes wait for the C0 reads of the window before. -/
  pulled  : Nat
  hotNext : Bool
  refWin  : Bool
  refDue  : Bool
  /-- When each bank, and all banks together, last underwent a refresh-class operation, and the operations that the spacing
  rule holds back: the bank (512: every bank) and the command (R281, R283, R440). -/
  lastRef : SMap Nat
  allRef  : Option Nat
  mgmt    : List (Nat × Nat)
  /-- Neighbour refresh (R283): the generator's seed, activates since, and pending samples by bank. -/
  nbrSeed : Word
  activates : Nat
  nbr     : SMap (List (BitVec 18))
  /-- The deferral list and the resync log of a freeze (R287, R289). -/
  defer   : List QReq
  resync  : List Nat
  snap    : Option Snapshot
  /-- Position in the order of freezes (R289). -/
  frzSeq  : Nat
  acting  : Option FrzAct
  /-- The action is DEFAULT's, applied at the deadline (R289, R486). -/
  byDefault : Bool
  /-- The superline whose metadata froze the channel (R290). -/
  mdFix   : Option Nat
  /-- When the last uncorrectable data error was (R288), and the records of the channel's errors (R295). -/
  lastUe  : Option Nat
  synd    : List Record
  trained : Bool
deriving DecidableEq, Repr

/-- A granule of CXL memory: data, poison, and the key pair that encrypts it (R319). -/
structure CxlGran where
  data   : Granule
  poison : Bool
  key    : BitVec 512
deriving DecidableEq, Repr

/-! ### Ports and links -/

/-- The AES-256-GCM keys of a link, one per direction (R392). -/
structure LinkKeys where
  tx : BitVec 256
  rx : BitVec 256
deriving DecidableEq, Repr

/-- What seals a packet on an encrypted link (R392): the key, and the nonce, which is made of the transmitter's node and
port and of the packet counter. -/
structure LinkSeal where
  key     : BitVec 256
  node    : BitVec 12
  port    : Nat
  counter : Word
deriving DecidableEq, Repr

/-- A packet that waits at a link (R348): the input it came by, 255 for this node; whether it is C1 traffic beyond its
reservation (R333, R347); and for a C0 message of this node its admission: a frame and a link-engine cycle of it
(R337). -/
structure Waiting where
  pkt    : Packet
  inp    : Nat
  beyond : Bool
  admitted  : Option (Word × Nat)
  /-- The TID its work is charged to (R358). -/
  tid    : Nat
  /-- The word of the crossbar buffer where it begins (R413, R415). -/
  word   : Nat
deriving DecidableEq, Repr

/-- A transmission in progress, with the bytes that are left of it (R332, R333). -/
structure Sending where
  item : Waiting
  left : Nat
deriving DecidableEq, Repr

/-- The descriptor that an Ethernet queue has in work: the queue, the descriptor's address and the TID (R313). -/
structure EthWork where
  queue : Nat
  desc  : Nat
  tid   : Nat
deriving DecidableEq, Repr

/-- A port's link state beyond LE_PORTSTAT (R307 to R311, R393), its traffic (R331 to R348) and its MACsec keys. -/
structure Port where
  backoff : Bool
  adv     : Option Adv
  advCnt  : Nat
  v       : Nat
  width   : Nat
  probes  : Nat
  best    : Option Int
  keys    : Option LinkKeys
  oldKeys : Option LinkKeys
  /-- The packet counters of the two directions under the keys in force (R392, R393). -/
  txCount : Word
  rxCount : Word
  rekeyAt : Option Word
  keyFrame : Word
  sak     : SMap (BitVec 256)
  egress  : List Waiting
  sending : List Sending
  /-- The last slot boundary of this link frame, 64 for the cycles after slot 63; the first slots of the C0 groups of this
  link frame that are free, having had nothing ready, and of those that carry a message (R333, R341). -/
  pos     : Nat
  freed   : List Nat
  took    : List Nat
  /-- The input that each class served last (R348). -/
  served  : SMap Nat
  /-- Bytes sent for which the partner has not returned credit, by class (R348). -/
  unpaid  : SMap Nat
  /-- Packets and management messages received while a microcode switch holds the port's traffic, oldest first (R324). -/
  inq     : List Packet
  inMsg   : List (List Byte)
  /-- The time for which PFC still pauses a priority, in ps (R312, R313). -/
  paused  : SMap Nat
  /-- Ethernet: received frames with their queues; the descriptor in work for the first of them, and the one being sent;
  the memory words either has read so far, by address / 8 (none: the access failed); and the frames that MACsec has
  protected under the keys held (R312, R313, R328). -/
  rxq     : List (Nat × EthFrame)
  rxAt    : Option EthWork
  rxGot   : SMap (Option Word)
  txq     : Option EthWork
  txGot   : SMap (Option Word)
  macSent : Nat
  renegDue : Bool
  downDue : Bool
deriving DecidableEq, Repr

/-- A microword with the number of wrong bits it holds (R322). -/
structure MicroW where
  w   : BitVec 128
  bad : Nat
deriving DecidableEq, Repr

/-- A microcode thread (R321, R324). -/
structure MThread where
  addr     : Nat
  stack    : List Nat
  holding  : Bool
  released : Bool
  waiting  : Bool
  turns    : Nat
deriving DecidableEq, Repr

/-- A link engine. -/
structure LinkEng where
  bank0   : SMap MicroW
  bank1   : SMap MicroW
  staged  : Option (Nat × Word)
  thr     : SMap MThread
  /-- A switch is holding traffic (R324), and whether its banks have swapped. -/
  holding : Bool
  swapped : Bool
  /-- The most recent verification into the shadow aperture returned RESULT 1 (R435). -/
  verified : Bool
  /-- The frame and the outcome of the last switch, for a bond over two engines (R325). -/
  lastEnd : Option (Word × Bool)
deriving DecidableEq, Repr

/-- A PCI Express or CXL link: in L0, outbound reads outstanding by thread, and the bus numbers of its root port, at
configuration offset 0x18 (R317, R319). -/
structure PcieLink where
  l0   : Bool
  outs : List Nat
  bus  : BitVec 32
  /-- The rest of the root port (R316). -/
  root : Config.RootPort
deriving DecidableEq, Repr

/-! ### Fabric -/

/-- Where an outstanding request stands (R239, R344, R345): sent; deferred until the 20 ns point of a frame; waiting at its
link for credit until the seal deadline; or behind an earlier request to its 256-byte line that has not left its gateway. -/
inductive OutstAt where
  | sent
  | until_ (f : Word)
  | credit (port : Nat)
  | behind
deriving DecidableEq, Repr

/-- An outstanding request of this node (R345) and the gateway it leaves by (R239). -/
structure Outst where
  tag     : BitVec 16
  req     : FabReq
  cls     : Fin 4
  flow    : BitVec 12
  defers  : Nat
  reason  : BitVec 3
  stand   : OutstAt
  issued  : Word
  gw      : Nat
deriving DecidableEq, Repr

/-- A lease's progress beyond MAP_LEASEA (R350, R351). -/
structure LeaseX where
  grantDue  : Bool
  recallDue : Bool
  drainedIn : Bool
  recalled  : Bool
  frame     : Word
deriving DecidableEq, Repr

/-- The join or leave in progress (R353). -/
structure SvcOp where
  join  : Bool
  kind  : Nat
  index : Nat
  frame : Word
  /-- The drained or ready condition has been met (R354). -/
  ready : Bool
deriving DecidableEq, Repr

/-- A request of another node or a PCI Express link that waits for a frozen channel (R344): its master, the packet it is
or is treated as, the TID it is served under, whether its
next piece waits as a write, the pieces left (address, offset in the payload, length), and what it has read so far. -/
structure HeldReq where
  src   : ReqSrc
  pkt   : Packet
  ltid  : Nat
  /-- The gateway it entered by, and whether it waits there behind an earlier request to its 256-byte line (R239, R240). -/
  gw    : Nat
  behind : Bool
  wrote : Bool
  rest  : List (Nat × Nat × Nat)
  acc   : BitVec 32768
  bad   : Bool
deriving DecidableEq, Repr

/-- The fabric gateway and transit state. -/
structure Fabric where
  outs    : List Outst
  nextTag : BitVec 16
  /-- Bytes sent this frame by 4 × TID + class (R344). -/
  used    : SMap Nat
  flowQ   : SMap (List FabReq)
  /-- Bytes of C1 sent this frame by 256 × flow + input port (R347). -/
  c1used  : SMap Nat
  /-- The word of the crossbar buffer that the next packet begins at (R413). -/
  xword   : Nat
  flowClr : List Nat
  lease   : SMap LeaseX
  /-- Borrow entries with a recall notice recorded against them (R351). -/
  noticed : List Nat
  held    : List HeldReq
  svc     : Option SvcOp
  /-- Ports, clusters and groups marked leaving: kind and index. -/
  leaving : List (Nat × Nat)
deriving DecidableEq, Repr

/-! ### Energy -/

/-- A frame that a tick has ended and whose record is still open (R359): its T_f, none where the tick was the first and
ended no frame; the energy posted in it, by TID and in all; and its activity since its last posting. -/
structure FrameEnd where
  tf     : Option Nat
  used   : SMap Nat
  energy : Nat
  act    : SMap Nat
  c0act  : SMap Nat
deriving DecidableEq, Repr

/-- The energy ledger beyond its registers. Activity is kept in units of 2^-22 × 10^-4 nJ. -/
structure Ledger where
  act    : SMap Nat
  c0act  : SMap Nat
  /-- The frame that the last tick ended, until its record closes (R359). -/
  ended  : Option FrameEnd
  rem    : SMap Nat
  c0rem  : SMap Nat
  used   : SMap Nat
  frame  : Nat
  window : Nat
  /-- The device energy posted since the tick, which the frame cap watches (R368). -/
  posted : Nat
  /-- The record of the last closed frame: its number and the energy of each TID (ENL_USED). -/
  closed : Option Word
  usedLast : SMap Nat
  /-- A window of 1,024 frames has closed with this metered energy, and FACTOR is to be recalibrated (R360). -/
  metered : Nat
  recalDue : Bool
  /-- Balances to set at the next posting (R361). -/
  sets   : List (Nat × BitVec 40)
  capNow : Bool
  /-- Clusters whose voltage ramp is under way. -/
  ramp   : SMap Nat
deriving DecidableEq, Repr

/-- Where the device is in Dormant (R379). -/
inductive DormState where
  | awake | entering | dormant
deriving DecidableEq, Repr

/-! ### Security -/

/-- A key command that is running (R389). -/
structure KeyRun where
  op   : Nat
  tid  : Nat
  port : Nat
  an   : Nat
deriving DecidableEq, Repr

/-- Thistle and the key engine beyond their registers. -/
structure Sec where
  kwk     : Option (BitVec 256)
  rack    : Option (BitVec 256)
  /-- Tenant key pairs, by 1024 × slot + TID: slots 0 to 15 are the channels, 16 to 19 the host controllers. -/
  slots   : SMap (BitVec 512)
  running : Option KeyRun
  trngCnt : Nat
  trngFull : Bool
  /-- Reads that wait for the TRNG, and whether each is of an AKZ32 low word. -/
  trngWait : List (Master × Bool)
  verifying : Bool
  erasing : Bool
  haltedOff : Bool
  wireA   : Bool
  wireB   : Bool
  zrun    : Option (Nat × Nat)
  zraised : Bool
  lastLog : SMap Nat
  challenge : Option (BitVec 256)
deriving DecidableEq, Repr

/-! ### Cadence -/

/-- A marker received for the running frame (R31, R32): port, contents, and corrected tick in units of 0.5 ns after the
node's own local tick. -/
structure Marker where
  port  : Nat
  frame : Word
  sfpos : Nat
  tick  : Int
deriving DecidableEq, Repr

/-- How the monitor classifies the inputs (R25). -/
inductive TickClass where
  | agreement | disagreement | loss
deriving DecidableEq, Repr

/-- A vote (R32). -/
inductive Vote where
  | a | b | none
deriving DecidableEq, Repr

/-- The sources of CAD_STAT.ACTIVE (R46). -/
inductive TickSrc where
  | a | b | osc | sw
deriving DecidableEq, Repr

/-- The tick monitor and table hardware beyond the CAD registers. -/
structure Tick where
  /-- The first local tick has come. -/
  started   : Bool
  /-- Cycles of the always-on clock since the tick. -/
  frameOff  : Nat
  /-- The running frame's plan swapped in at its tick (R41, R42). -/
  fresh     : Bool
  /-- The 20 ns point of the frame is to come; the seal deadline has passed (R23). -/
  effectDue : Bool
  sealClosed : Bool
  /-- CAD_FRAMESET; the frame and position that acquisition has chosen (R33). -/
  frameSet  : Word
  acq       : Option (Word × Nat)
  /-- Time stamps of the edges present for the frame, in ns after the local tick (R24). -/
  edgeA     : Option Int
  edgeB     : Option Int
  markers   : List Marker
  /-- The markers of the last evaluation before ticking started (R33). -/
  evalMarks : List Marker
  /-- The discrepancy count that runs (R26), T_f at the evaluation before, whether a count has reached N since the last
  agreement, and whether the fault is active. -/
  disc      : Option Nat
  evalTf    : Nat
  spent     : Bool
  fault     : Bool
  /-- Agreements in a row, and a hold that began under Loss (R30). -/
  agree     : Nat
  lossHold  : Bool
  /-- Each port's vote under Loss (R32). -/
  voteMem   : List (Nat × Vote)
  /-- The source chosen for following ticks, the Speedwell-implied phase in units of 0.5 ns, and the frames held. -/
  source    : TickSrc
  srcPhase  : Int
  hold      : Nat
  /-- Evaluations in a row with a majority for another frame number (R34). -/
  missRun   : Nat
  lateDue   : Bool
  faultDue  : Bool
  freeDue   : Bool
  /-- The frame at whose tick the fault, the hold and the free run clear (R30). -/
  clearAt   : Option Word
  missDue   : Bool
deriving DecidableEq, Repr

/-! ### Half-word access, Keep array, outputs -/

/-- A holding register (R4, R6). -/
inductive Holding where
  | empty
  | staged (off : Nat) (v : BitVec 32)
  | kept (off : Nat) (v : BitVec 32)
deriving DecidableEq, Repr

/-- How a request to memory ends. -/
inductive MemStatus where
  | ok | poisoned | withdrawn | noMemory
deriving DecidableEq, Repr

/-- What the block sends or returns (entry 11). -/
inductive Out where
  | read (m : Master) (off : Nat) (v : Word)
  | half (k : Akz32) (v : BitVec 32)
  | mem (src : ReqSrc) (status : MemStatus) (ue : BitVec 4) (data : Superline)
  | marker (port : Nat) (frame : Word) (sfpos : Nat) (stamp : Nat)
  | advert (port : Nat) (adv : Adv)
  | probe (port : Nat)
  | echo (port t2 t3 : Nat)
  | packet (port : Nat) (raw : RawPacket) (gcm : Option LinkSeal)
  | credit (port : Nat) (cls : Fin 4) (bytes : Nat)
  | eth (port len : Nat) (bytes : List Word) (fcs : BitVec 32)
  | pfc (port : Nat) (pause : Bool)
  | pulse (pin : Nat)
  | pcie (link : Nat) (status : CplStatus) (poison : Bool) (data : List Word)
  | pcieReq (link : Nat) (config write : Bool) (addr : Word) (size : Nat) (data : Word)
  | mgmt (status : Byte) (msg : MgmtMsg)
  | linkMsg (port : Nat) (msg : List Byte)
  | inBand
  | jtag (bits : Nat) (v : BitVec 512)
deriving DecidableEq, Repr

/-- The instructions of the JTAG port (R457). -/
inductive JtagIr where
  | bypass | idcode | sample | extest | dbgport
deriving DecidableEq, Repr

/-- Keeper's boot and the board's inputs. -/
structure Board where
  pwrgood  : Bool
  resetN   : Bool
  inReset  : Bool
  kind     : Nat
  romReady : Bool
  /-- Keeper ROM has verified the firmware and enters it next (R443 step 5). -/
  entry    : Bool
  /-- The slot that a live restart names; the slot of the running image; the image cache. -/
  slot     : Bool
  /-- The lockstep checker has stopped the Cadence pair (R44). -/
  cadFail  : Bool
  cache    : Bool
  cacheSlot : Bool
  /-- Boot lock point reached: for the LK fields outside AO, and for those in AO, which only a cold start resets
  (R441, R447). -/
  locked   : Bool
  lockedAo : Bool
  i3cOnly  : Bool
  refHold  : Bool
  /-- A supply fault has put the device into reset, and PWRGOOD has not risen since (R469). -/
  railDown : Bool
  /-- Writes to Keep words that wait at the mesh stop (R404). -/
  keepWait : List (Master × Nat × BitVec 32)
  /-- SerDes reference inputs that are missing (R473). -/
  sdMissing : BitVec 4
  jtag     : JtagIr
  session  : Option (BitVec 5)
  tioOut   : BitVec 16
  dorm     : DormState
  wakePend : Bool
  /-- The domains that Dormant entry switched off and a wake restores (R379). -/
  savedOn  : List Nat
  /-- The channels whose training values AO saves during Dormant (R379). -/
  savedTrained : List Nat
  meshOut  : BitVec 4
  /-- Slices that failed and logical slices whose directory reports are outstanding (R433). -/
  sliceBad : List Nat
  dirScan  : List Nat
deriving DecidableEq, Repr

/-- The block. -/
structure State where
  /-- Control registers by offset from the base of control space; unlisted reads its reset value. -/
  regs    : SMap Word
  /-- Keep words and their endurance counts (R402, R408). -/
  keep    : SMap (BitVec 32)
  kwcnt   : SMap (BitVec 20)
  /-- Accepted writes to Keep words that have not reached the array, oldest first, each with what the word held before it
(R404). -/
  keepQ   : List (Nat × BitVec 32)
  /-- The record ring by index (R424). -/
  ring    : SMap Record
  /-- Always-on cycles since VAO came up (R425). -/
  aoTime  : Nat
  /-- The part of an RTC period that has passed, in units of 10^-8 period (R381). -/
  rtcAcc  : Nat
  holdK   : Holding
  holdC   : Holding
  threads : SMap Thread
  /-- The interrupt entries within their selection window, by thread (R123, R124). -/
  entering : SMap EntrySel
  cores   : SMap Core
  /-- LLC sets by 384 × slice + set, directory sets by 4096 × slice + set, TIDs with dirty data by slice. -/
  llc     : SMap (CSet LlcLine)
  dir     : SMap (CSet DirEnt)
  dirty   : SMap (BitVec 1024)
  /-- The plan tables by word of the Cadence window, offset / 8 (R36): current bank, next bank, words written. -/
  cur     : SMap Word
  nxt     : SMap Word
  wflag   : SMap Unit
  curBad  : SMap Unit
  /-- The bank of the frame before and its poisoned words, which govern until the 20 ns point (R23). -/
  was     : SMap Word
  wasBad  : SMap Unit
  /-- Scrub units done since the plan took effect, by target (R420). -/
  scrubbed : SMap (List Nat)
  tick    : Tick
  engines : SMap Engine
  groups  : SMap Group
  chans   : SMap Chan
  /-- CXL memory by 2^46 × link + offset / 64. -/
  cxl     : SMap CxlGran
  ports   : SMap Port
  les     : SMap LinkEng
  pcie    : SMap PcieLink
  fabric  : Fabric
  ledger  : Ledger
  sec     : Sec
  board   : Board
  /-- Words of on-die arrays that hold wrong bits, by 2^40 × target + 2^32 × SUB + word index (R413, R421). -/
  errs    : SMap ArrErr
  /-- Keeper and Cadence RAM by 32-bit word index (R449). -/
  kram    : SMap (BitVec 32)
  cram    : SMap (BitVec 32)
  out     : List Out
  free    : Nat
  pending : List Instr
deriving DecidableEq, Repr

/-! ### Reset values -/

/-- A thread that has not started (R100, R449; entry 5): a compute thread at H, a Keeper or Cadence thread at S. -/
def Thread.initial (t : Nat) : Thread where
  g := []
  f := []
  gy := 0
  fy := 0
  csr := []
  pc := 0
  priv := if t < 512 then .h else .s
  run := .off
  resv := none
  hold := false
  storeFail := none
  await := none
  fetched := []
  touch := []
  gone := false
  ahead := []
  hist := []
  ras := []

/-- A core whose domain has just been switched on: its memories read zero (R375). -/
def Core.initial : Core where
  l1i := []
  l1d := []
  l2 := []
  itlb := []
  dtlb := []
  l2tlb := []
  walk := []
  dirPred := []
  indPred := []
  fillBuf := []
  train := []
  srlLoading := false
  wakePending := false
  sleepTo := 0
  failed := false

/-- A signal engine whose domain has just been switched on (R160, R375; entry 13). -/
def Engine.initial : Engine where
  dmem := []
  progA := []
  progB := []
  d := []
  a := []
  p := []
  m := []
  loc := []
  flight := []
  bundle := []
  held := false
  pc := 0
  slots := 0
  redirect := none
  annul := false
  cache := []
  miss := []
  lbody := (0, 0)
  lbuf := []
  job := none
  owed := none
  span := none
  lastTid := none
  next := 0
  dma := []
  haltReq := false

/-- A signal group after power-on. -/
def Group.initial : Group where
  start := []
  count := []
  fifo := []

/-- A memory channel after power-on: untrained, nothing queued, every superline of code 0x0 (R248). -/
def Chan.initial : Chan where
  sl := []
  md := []
  mdErr := []
  c0q := []
  rdq := []
  wrq := []
  stop := []
  arrivals := 0
  history := []
  last := none
  inflight := none
  flush := []
  pulled := 0
  hotNext := false
  refWin := false
  refDue := false
  lastRef := []
  allRef := none
  mgmt := []
  nbrSeed := 0
  activates := 0
  nbr := []
  defer := []
  resync := []
  snap := none
  frzSeq := 0
  acting := none
  byDefault := false
  mdFix := none
  lastUe := none
  synd := []
  trained := false

/-- A port after power-on: DOWN, nothing negotiated (R307). -/
def Port.initial : Port where
  backoff := false
  adv := none
  advCnt := 0
  v := 0
  width := 0
  probes := 0
  best := none
  keys := none
  oldKeys := none
  txCount := 0
  rxCount := 0
  rekeyAt := none
  keyFrame := 0
  sak := []
  egress := []
  sending := []
  pos := 0
  freed := []
  took := []
  served := []
  unpaid := []
  inq := []
  inMsg := []
  paused := []
  rxq := []
  rxAt := none
  rxGot := []
  txq := none
  txGot := []
  macSent := 0
  renegDue := false
  downDue := false

/-- A link engine after power-on: both banks read zero, no thread started. -/
def LinkEng.initial : LinkEng where
  bank0 := []
  bank1 := []
  staged := none
  thr := []
  holding := false
  swapped := false
  verified := false
  lastEnd := none

/-- A PCI Express or CXL link that is not in L0. -/
def PcieLink.initial : PcieLink where
  l0 := false
  outs := []
  bus := 0
  root := { l1 := false, present := false, gen := 0, lanes := 0, aer := [], writes := [] }

/-- The fabric gateway at reset. -/
def Fabric.initial : Fabric where
  outs := []
  nextTag := 0
  used := []
  flowQ := []
  c1used := []
  xword := 0
  flowClr := []
  lease := []
  noticed := []
  held := []
  svc := none
  leaving := []

/-- The ledger at reset. -/
def Ledger.initial : Ledger where
  act := []
  c0act := []
  ended := none
  rem := []
  c0rem := []
  used := []
  frame := 0
  window := 0
  metered := 0
  posted := 0
  closed := none
  usedLast := []
  recalDue := false
  sets := []
  capNow := false
  ramp := []

/-- Thistle and the key engine after a cold start: KWK is derived from the device secret and the key epoch, and the
TID 0 keys are in the slots of the four host controllers, whose domains are on (R386, R387). -/
def Sec.initial (epoch : BitVec 32) : Sec where
  kwk := some (Config.kdfKwk epoch)
  rack := none
  slots := [(16 * 1024, Config.kdfTid0 (Config.kdfKwk epoch)), (17 * 1024, Config.kdfTid0 (Config.kdfKwk epoch)),
            (18 * 1024, Config.kdfTid0 (Config.kdfKwk epoch)), (19 * 1024, Config.kdfTid0 (Config.kdfKwk epoch))]
  running := none
  trngCnt := 0
  trngFull := true
  trngWait := []
  verifying := false
  erasing := false
  haltedOff := false
  wireA := false
  wireB := false
  zrun := none
  zraised := false
  lastLog := []
  challenge := none

/-- The tick monitor at reset: not ticking, TICK_A the source (R46). -/
def Tick.initial : Tick where
  started := false
  frameOff := 0
  fresh := false
  effectDue := false
  sealClosed := false
  frameSet := 0
  acq := none
  edgeA := none
  edgeB := none
  markers := []
  evalMarks := []
  disc := none
  evalTf := 0
  spent := false
  fault := false
  agree := 0
  lossHold := false
  voteMem := []
  source := .a
  srcPhase := 0
  hold := 0
  missRun := 0
  lateDue := false
  faultDue := false
  freeDue := false
  clearAt := none
  missDue := false

/-- The board and Keeper ROM after the release of a cold start (entry 15). -/
def Board.initial : Board where
  pwrgood := true
  resetN := true
  inReset := false
  kind := 0
  romReady := true
  entry := false
  slot := false
  cadFail := false
  cache := false
  cacheSlot := false
  locked := false
  lockedAo := false
  i3cOnly := false
  refHold := false
  railDown := false
  keepWait := []
  sdMissing := 0
  jtag := .idcode
  session := none
  tioOut := 0
  dorm := .awake
  wakePend := false
  savedOn := []
  savedTrained := []
  meshOut := 0
  sliceBad := []
  dirScan := []

/-- The block right after the reset of a cold start is released (R441, R442): every register at its reset value, AO,
KP, CD and the mesh quadrants on, nothing in memory, Keeper ROM about to boot. -/
def State.reset : State where
  regs := []
  keep := []
  kwcnt := []
  keepQ := []
  ring := []
  aoTime := 0
  rtcAcc := 0
  holdK := .empty
  holdC := .empty
  threads := []
  entering := []
  cores := []
  llc := []
  dir := []
  dirty := []
  cur := []
  nxt := []
  wflag := []
  curBad := []
  was := []
  wasBad := []
  scrubbed := []
  tick := .initial
  engines := []
  groups := []
  chans := []
  cxl := []
  ports := []
  les := []
  pcie := []
  fabric := .initial
  ledger := .initial
  sec := .initial 0
  board := .initial
  errs := []
  kram := []
  cram := []
  out := []
  free := 0
  pending := []

end Sys2Proof.Machine
end

