-- ==== Sys2Proof/Machine/Regs.lean ====
section
/-! DEFINITION. The control registers (R2, R10): their names, places, access masks, reset values and fields, as the
register maps and field tables of the chapters give them. -/
namespace Sys2Proof.Machine

/-- The windows of control space that hold registers (R220); `se` is the block of a signal engine in its group's
window (R188). -/
inductive Win where
  | kpr | cad | enl | ths | err | map | cl | sg | se | mc | le
deriving DecidableEq, Repr

/-- The offset of block b's window from the base of control space (R220, R188). -/
def Win.base (w : Win) (b : Nat) : Nat :=
  match w with
  | .kpr => 0
  | .cad => 0x0100_0000
  | .enl => 0x0200_0000
  | .ths => 0x0300_0000
  | .err => 0x0400_0000
  | .map => 0x0500_0000
  | .cl => 0x1000_0000 + b * 0x0100_0000
  | .sg => 0x3000_0000 + b * 0x0100_0000
  | .se => 0x3001_0000 + b / 8 * 0x0100_0000 + b % 8 * 0x1000
  | .mc => 0x4000_0000 + b * 0x0100_0000
  | .le => 0x5000_0000 + b * 0x0100_0000

/-- A register row: window, offset of index 0, step between indices, lowest index and count, and which bits are RW,
RW1C, LK, WO and RC (R10). Bits in no mask are RO or reserved. -/
structure RegRow where
  win   : Win
  base  : Nat
  step  : Nat
  first : Nat
  count : Nat
  rw    : Word
  w1c   : Word
  lk    : Word
  wo    : Word
  rc    : Word
deriving DecidableEq, Repr

/-- The control registers by name; an indexed register is one name. -/
inductive Reg where
  /-- R12. Vendor, part, family and stepping. -/
  | KPR_DEVID
  /-- R12. Fabricated block counts. -/
  | KPR_CAPS
  /-- R12. Protocol and interface versions implemented in hardware. -/
  | KPR_IFVER
  /-- R12. Unique die serial number. -/
  | KPR_SERIAL
  /-- R462. Boot stage and cause. -/
  | KPR_BOOTSTAT
  /-- R462. Boot lock point. -/
  | KPR_BOOTCTL
  /-- R462. Live restart. -/
  | KPR_RESTART
  /-- R462. Bit v: Keeper vector v pending. -/
  | KPR_IPEND
  /-- R462. Cadence pair stop and start. -/
  | KPR_CADCTL
  /-- R462. Host mailbox doorbell. -/
  | KPR_MBOXDB
  /-- R484. Reference clocks, supply faults and temperature. -/
  | KPR_SUPSTAT
  /-- R462. Request frame, bytes 8 × i to 8 × i + 7. -/
  | KPR_MBOXREQ
  /-- R462. Response frame, bytes 8 × i to 8 × i + 7. -/
  | KPR_MBOXRSP
  /-- R45. Frame, plan and tick status. -/
  | CAD_STAT
  /-- R45. Start and acquisition control. -/
  | CAD_CTRL
  /-- R45. Frame counter. -/
  | CAD_FRAMECNT
  /-- R45. Position of the current frame in its superframe, 0 to length − 1. -/
  | CAD_SFPOS
  /-- R45. T_f and superframe length in force. -/
  | CAD_TIMING
  /-- R45. T_f and superframe length to apply. -/
  | CAD_TIMING_NEXT
  /-- R45. Frame at which CAD_TIMING_NEXT applies; a write arms. -/
  | CAD_TIMING_AT
  /-- R45. Number of the frame that the first local tick starts, at CAD_SFPOS 0, when no markers are received (R33). -/
  | CAD_FRAMESET
  /-- R45. Seal the next-frame plan for the frame number written. -/
  | CAD_SEAL
  /-- R45. Result of the last seal write. -/
  | CAD_SEALSTAT
  /-- R45. Late frames since last read. -/
  | CAD_LATECNT
  /-- R45. Current run of consecutive late frames. -/
  | CAD_LATERUN
  /-- R45. Tick monitor measurements. -/
  | CAD_TMON
  /-- R45. Filtered disagreements since last read. -/
  | CAD_TDISCCNT
  /-- R45. Tick-discrepancy faults since last read. -/
  | CAD_TFAULTCNT
  /-- R45. Frame-counter mismatches since last read. -/
  | CAD_FCMISCNT
  /-- R462. As its rule says. -/
  | CAD_IPEND
  /-- R462. As its rule says. -/
  | CAD_DOORBELL
  /-- R382. Ledger and device status. -/
  | ENL_STAT
  /-- R382. Device limits. -/
  | ENL_DEVCFG
  /-- R382. Device account D. -/
  | ENL_DEVACCT
  /-- R382. Device energy of the last closed frame. -/
  | ENL_FRAMEEN
  /-- R382. Calibration factor. -/
  | ENL_CALFACT
  /-- R382. Device gate entries since last read. -/
  | ENL_GATECNT
  /-- R382. Jobs exceeding declared energy since last read. -/
  | ENL_OVERDECLCNT
  /-- R382. Set a TID balance. -/
  | ENL_ACCTSET
  /-- R382. RTC counter. -/
  | ENL_RTC
  /-- R382. RTC alarm. -/
  | ENL_RTCALM
  /-- R382. Dormant entry. -/
  | ENL_DORMCTL
  /-- R382. Cause of the last wake. -/
  | ENL_WAKESTAT
  /-- R382. Power of domain d. -/
  | ENL_PWRCTL
  /-- R382. Performance level of CLnn. -/
  | ENL_PLVL
  /-- R382. Account of TID t. -/
  | ENL_ACCT
  /-- R382. C0 reserve remaining. -/
  | ENL_C0RES
  /-- R382. Energy charged in the last closed frame. -/
  | ENL_USED
  /-- R411. Thistle state. -/
  | THS_STAT
  /-- R411. Firmware alarm. -/
  | THS_RAISE
  /-- R411. Release held TIDs. -/
  | THS_HOLDCLR
  /-- R411. Zeroize wire state. -/
  | THS_ZSTAT
  /-- R411. Bit b: TID 64 × k + b held. -/
  | THS_HOLDMAP
  /-- R411. Key command. -/
  | THS_KEYCMD
  /-- R411. Key command status. -/
  | THS_KEYSTAT
  /-- R411. Blob or key buffer. -/
  | THS_KEYBUF
  /-- R411. Global address of the image. -/
  | THS_IMGSRC
  /-- R411. Destination of the plaintext. -/
  | THS_IMGDST
  /-- R411. Start verification. -/
  | THS_IMGCMD
  /-- R411. Verification result. -/
  | THS_IMGSTAT
  /-- R411. Random bits (R410). -/
  | THS_TRNG
  /-- R411. Events of source s not logged (R405). -/
  | THS_SRCCNT
  /-- R438. RAS status. -/
  | ERR_STAT
  /-- R438. Next record position and sequence. -/
  | ERR_LOGHEAD
  /-- R438. Records overwritten since last read. -/
  | ERR_LOGOVFCNT
  /-- R438. Compute-thread notification. -/
  | ERR_NOTIFY
  /-- R438. Control-access errors since last read. -/
  | ERR_CTLACCCNT
  /-- R438. Frames with scrub units dropped since last read. -/
  | ERR_SCRUBMISSCNT
  /-- R438. Restart a stopped thread. -/
  | ERR_THRCTL
  /-- R438. Restart a halted link engine. -/
  | ERR_LERESTART
  /-- R438. Position of the next control-access error entry (R428). -/
  | ERR_CTLACCHEAD
  /-- R438. Control-access error entries. -/
  | ERR_CTLACC_LOG
  /-- R438. Bit b: TID 64 × k + b lost dirty data. -/
  | ERR_LOSTTID
  /-- R438. Core map of CLk. -/
  | ERR_CORESTAT
  /-- R438. Injection control of target n. -/
  | ERR_FLIPMASK
  /-- R438. Data bits to invert. -/
  | ERR_FLIPDATA
  /-- R243. Node ID of this device. -/
  | MAP_NODE
  /-- R243. Directory back-invalidations since last read. -/
  | MAP_DIRBICNT
  /-- R243. Accesses to no memory since last read. -/
  | MAP_NOMEMCNT
  /-- R355. Deferral and hop limits. -/
  | MAP_FABCTL
  /-- R355. Join or leave request. -/
  | MAP_SVCCTL
  /-- R355. Join or leave state. -/
  | MAP_SVCSTAT
  /-- R355. Packets discarded in transit or at the destination since last read. -/
  | MAP_XBARDROPCNT
  /-- R355. Clusters and signal groups in service. -/
  | MAP_INSVCA
  /-- R355. Bit b: port 64 × k + b in service. -/
  | MAP_INSVCP
  /-- R243. First GiB of range r. -/
  | MAP_RBASE
  /-- R243. Last GiB of range r. -/
  | MAP_RLIM
  /-- R243. Target, interleave and mirroring of range r. -/
  | MAP_RCFG
  /-- R243. Physical slice of logical slice l. -/
  | MAP_SLICE
  /-- R355. Lease or window i: state and parties. -/
  | MAP_LEASEA
  /-- R355. Lease or window i: base. -/
  | MAP_LEASEB
  /-- R355. Borrowed range j: state and lender. -/
  | MAP_BORROWA
  /-- R355. Borrowed range j: base at the lender. -/
  | MAP_BORROWB
  /-- R355. Flow descriptor; MAP_FLOW[0] is reserved and reads zero (R336). -/
  | MAP_FLOW
  /-- R355. Route to node d. -/
  | MAP_ROUTE
  /-- R355. Fabric outcomes of a TID (R346). -/
  | MAP_TFABCNT
  /-- R355. Fabric quota of TID t. -/
  | MAP_TQUOTA
  /-- R130. Sorrel region of core c. -/
  | CL_SRLCTL
  /-- R384. Sleep depth and state of core c. -/
  | CL_SLPCTL
  /-- R462. As its rule says. -/
  | CL_STARTPC
  /-- R130. Raise a vector on a thread. -/
  | CL_IRAISE
  /-- R130. Bit b: vector 64 × k + b pending on thread h. -/
  | CL_IPEND
  /-- R130. Priority and target of vector v on thread h. -/
  | CL_IVCFG
  /-- R188. Power and in-service state. -/
  | SG_STAT
  /-- R188. Frame cycle counter (R161). -/
  | SG_FCYC
  /-- R188. Overruns since last read. -/
  | SG_OVRCNT
  /-- R188. Jobs skipped or refused since last read. -/
  | SG_SKIPCNT
  /-- R188. TIO pins driven by this group, bits [15:0]. -/
  | SG_TIODRV
  /-- R188. Timer t control. -/
  | SG_TMRCTL
  /-- R188. Timer t count and current reload. -/
  | SG_TMRCNT
  /-- R188. Capture unit k control. -/
  | SG_CAPCTL
  /-- R188. Head of capture FIFO k. -/
  | SG_CAPDATA
  /-- R188. Engine state. -/
  | SE_STAT
  /-- R188. Frame of the program switch; a write arms. -/
  | SE_SWFRAME
  /-- R188. Switch status. -/
  | SE_SWSTAT
  /-- R188. Pending events. -/
  | SE_EVPEND
  /-- R188. Jobs completed since last read. -/
  | SE_JOBCNT
  /-- R188. Result of the last job. -/
  | SE_LASTJOB
  /-- R214. Cause of the last program-error abort. -/
  | SE_FAULT
  /-- R188. Output buffer k status. -/
  | SE_OBUFST
  /-- R188. Channel c source address. -/
  | SE_DMASRC
  /-- R188. Channel c destination address. -/
  | SE_DMADST
  /-- R188. Channel c row length, rows and strides. -/
  | SE_DMASHAPE
  /-- R188. Channel c control and status. -/
  | SE_DMACTL
  /-- R293. Channel state. -/
  | MC_STAT
  /-- R293. Module population. -/
  | MC_CFG
  /-- R293. Drain start occupancy. -/
  | MC_WQ_HI
  /-- R293. Drain end occupancy. -/
  | MC_WQ_LO
  /-- R293. Queue occupancies. -/
  | MC_QSTAT
  /-- R293. Refresh control. -/
  | MC_REFCTL
  /-- R293. Neighbour refresh and refresh management. -/
  | MC_RHCTL
  /-- R293. C0 reads finding 4 or more ahead since last read. -/
  | MC_C0DEEPCNT
  /-- R293. All-bank refreshes inside C0 windows since last read. -/
  | MC_REFSPLITCNT
  /-- R293. Neighbour refreshes since last read. -/
  | MC_NBRREFCNT
  /-- R293. Corrected bursts since last read. -/
  | MC_CECNT
  /-- R293. Uncorrectable bursts since last read. -/
  | MC_UECNT
  /-- R293. Freeze state. -/
  | MC_FRZSTAT
  /-- R293. Freeze action. -/
  | MC_FRZCTL
  /-- R293. Mirror state. -/
  | MC_MIRSTAT
  /-- R293. Mirror control. -/
  | MC_MIRCTL
  /-- R293. Requests without a loaded key since last read. -/
  | MC_NOKEYCNT
  /-- R293. Requests failed because the deferral list was full, since last read. -/
  | MC_DEFOVFCNT
  /-- R293. Bit b: key slot of TID 64 × k + b loaded. -/
  | MC_KEYVALID
  /-- R268. Compression control. -/
  | MC_CMPCTL
  /-- R268. Metadata state. -/
  | MC_CMPSTAT
  /-- R268. Metadata cache misses since last read. -/
  | MC_MDMISSCNT
  /-- R268. Data bursts read since last read. -/
  | MC_BURSTRD
  /-- R268. Bursts not moved, against storing every superline as 0x1, since last read, counted under R488. -/
  | MC_BURSTSV
  /-- R268. Cowslip blocks stored exact since last read. -/
  | MC_CWEXACT
  /-- R268. Writes that read before writing (R255) since last read. -/
  | MC_RMWCNT
  /-- R327. Engine state. -/
  | LE_STAT
  /-- R327. Engine control. -/
  | LE_CTL
  /-- R327. Frame of the microcode switch; a write arms. -/
  | LE_UCSW
  /-- R327. Switch status. -/
  | LE_UCSWSTAT
  /-- R327. Corrected control-store words since last read. -/
  | LE_CSCECNT
  /-- R327. Uncorrectable control-store words since last read. -/
  | LE_CSUECNT
  /-- R327. Port configuration. -/
  | LE_PORTCFG
  /-- R327. Link state. -/
  | LE_PORTSTAT
  /-- R327. Partner's advertisement. -/
  | LE_PORTADV
  /-- R327. Measured one-way delay. -/
  | LE_PORTDLY
  /-- R327. Entries to DOWN since last read. -/
  | LE_PORTDOWNCNT
  /-- R327. Ethernet frames dropped since last read. -/
  | LE_PORTDROPCNT
  /-- R327. PCI Express or CXL link mode. -/
  | LE_PCIECFG
  /-- R327. Outbound aperture base. -/
  | LE_PCIEOB
  /-- R327. Inbound window w match. -/
  | LE_PCIEWIN
  /-- R327. Inbound window w target and TID. -/
  | LE_PCIEWTGT
  /-- R327. Ring base of queue q on thread t. -/
  | LE_ETHQBASE
  /-- R327. Queue enable, size and TID. -/
  | LE_ETHQCTL
  /-- R327. Ring head and tail. -/
  | LE_ETHQPTR
deriving DecidableEq, Repr

/-- The row of a register. -/
def Reg.row (r : Reg) : RegRow :=
  match r with
  | .KPR_DEVID => ⟨.kpr, 0x0, 0x8, 0, 1, 0x0, 0x0, 0x0, 0x0, 0x0⟩
  | .KPR_CAPS => ⟨.kpr, 0x8, 0x8, 0, 1, 0x0, 0x0, 0x0, 0x0, 0x0⟩
  | .KPR_IFVER => ⟨.kpr, 0x10, 0x8, 0, 1, 0x0, 0x0, 0x0, 0x0, 0x0⟩
  | .KPR_SERIAL => ⟨.kpr, 0x18, 0x8, 0, 1, 0x0, 0x0, 0x0, 0x0, 0x0⟩
  | .KPR_BOOTSTAT => ⟨.kpr, 0x20, 0x8, 0, 1, 0x0, 0x0, 0x0, 0x0, 0x0⟩
  | .KPR_BOOTCTL => ⟨.kpr, 0x28, 0x8, 0, 1, 0x0, 0x0, 0x0, 0x1, 0x0⟩
  | .KPR_RESTART => ⟨.kpr, 0x30, 0x8, 0, 1, 0x0, 0x0, 0x0, 0x3, 0x0⟩
  | .KPR_IPEND => ⟨.kpr, 0x38, 0x8, 0, 1, 0x0, 0xffffffffffffffff, 0x0, 0x0, 0x0⟩
  | .KPR_CADCTL => ⟨.kpr, 0x40, 0x8, 0, 1, 0x0, 0x0, 0x0, 0x3, 0x0⟩
  | .KPR_MBOXDB => ⟨.kpr, 0x48, 0x8, 0, 1, 0x0, 0x0, 0x0, 0x1ff, 0x20000⟩
  | .KPR_SUPSTAT => ⟨.kpr, 0x50, 0x8, 0, 1, 0x0, 0x8, 0x0, 0x0, 0xf00⟩
  | .KPR_MBOXREQ => ⟨.kpr, 0x100, 0x8, 0, 32, 0xffffffffffffffff, 0x0, 0x0, 0x0, 0x0⟩
  | .KPR_MBOXRSP => ⟨.kpr, 0x200, 0x8, 0, 32, 0x0, 0x0, 0x0, 0x0, 0x0⟩
  | .CAD_STAT => ⟨.cad, 0x0, 0x8, 0, 1, 0x0, 0x38c, 0x0, 0x0, 0x0⟩
  | .CAD_CTRL => ⟨.cad, 0x8, 0x8, 0, 1, 0x3, 0x0, 0x0, 0x0, 0x0⟩
  | .CAD_FRAMECNT => ⟨.cad, 0x10, 0x8, 0, 1, 0x0, 0x0, 0x0, 0x0, 0x0⟩
  | .CAD_SFPOS => ⟨.cad, 0x18, 0x8, 0, 1, 0x0, 0x0, 0x0, 0x0, 0x0⟩
  | .CAD_TIMING => ⟨.cad, 0x20, 0x8, 0, 1, 0x0, 0x0, 0x0, 0x0, 0x0⟩
  | .CAD_TIMING_NEXT => ⟨.cad, 0x28, 0x8, 0, 1, 0x1fff000003ff, 0x0, 0x0, 0x0, 0x0⟩
  | .CAD_TIMING_AT => ⟨.cad, 0x30, 0x8, 0, 1, 0xffffffffffffffff, 0x0, 0x0, 0x0, 0x0⟩
  | .CAD_FRAMESET => ⟨.cad, 0x38, 0x8, 0, 1, 0x0, 0x0, 0x0, 0xffffffffffffffff, 0x0⟩
  | .CAD_SEAL => ⟨.cad, 0x40, 0x8, 0, 1, 0x0, 0x0, 0x0, 0xffffffffffffffff, 0x0⟩
  | .CAD_SEALSTAT => ⟨.cad, 0x48, 0x8, 0, 1, 0x0, 0x0, 0x0, 0x0, 0x0⟩
  | .CAD_LATECNT => ⟨.cad, 0x50, 0x8, 0, 1, 0x0, 0x0, 0x0, 0x0, 0xffffffffffffffff⟩
  | .CAD_LATERUN => ⟨.cad, 0x58, 0x8, 0, 1, 0x0, 0x0, 0x0, 0x0, 0x0⟩
  | .CAD_TMON => ⟨.cad, 0x60, 0x8, 0, 1, 0x0, 0x0, 0x0, 0x0, 0x0⟩
  | .CAD_TDISCCNT => ⟨.cad, 0x68, 0x8, 0, 1, 0x0, 0x0, 0x0, 0x0, 0xffffffffffffffff⟩
  | .CAD_TFAULTCNT => ⟨.cad, 0x70, 0x8, 0, 1, 0x0, 0x0, 0x0, 0x0, 0xffffffffffffffff⟩
  | .CAD_FCMISCNT => ⟨.cad, 0x78, 0x8, 0, 1, 0x0, 0x0, 0x0, 0x0, 0xffffffffffffffff⟩
  | .CAD_IPEND => ⟨.cad, 0x80, 0x8, 0, 1, 0x0, 0xffffffffffffffff, 0x0, 0x0, 0x0⟩
  | .CAD_DOORBELL => ⟨.cad, 0x88, 0x8, 0, 1, 0x0, 0x0, 0x0, 0xffffffffffffffff, 0x0⟩
  | .ENL_STAT => ⟨.enl, 0x0, 0x8, 0, 1, 0x0, 0x1c, 0x0, 0x0, 0x0⟩
  | .ENL_DEVCFG => ⟨.enl, 0x8, 0x8, 0, 1, 0x0, 0x0, 0xf0fff0fff, 0x0, 0x0⟩
  | .ENL_DEVACCT => ⟨.enl, 0x10, 0x8, 0, 1, 0x0, 0x0, 0x0, 0x0, 0x0⟩
  | .ENL_FRAMEEN => ⟨.enl, 0x18, 0x8, 0, 1, 0x0, 0x0, 0x0, 0x0, 0x0⟩
  | .ENL_CALFACT => ⟨.enl, 0x20, 0x8, 0, 1, 0x0, 0x0, 0x0, 0x0, 0x0⟩
  | .ENL_GATECNT => ⟨.enl, 0x28, 0x8, 0, 1, 0x0, 0x0, 0x0, 0x0, 0xffffffffffffffff⟩
  | .ENL_OVERDECLCNT => ⟨.enl, 0x30, 0x8, 0, 1, 0x0, 0x0, 0x0, 0x0, 0xffffffffffffffff⟩
  | .ENL_ACCTSET => ⟨.enl, 0x38, 0x8, 0, 1, 0x0, 0x0, 0x0, 0xffffffffff0003ff, 0x0⟩
  | .ENL_RTC => ⟨.enl, 0x40, 0x8, 0, 1, 0xffffffffffff, 0x0, 0x0, 0x0, 0x0⟩
  | .ENL_RTCALM => ⟨.enl, 0x48, 0x8, 0, 1, 0x8000ffffffffffff, 0x0, 0x0, 0x0, 0x0⟩
  | .ENL_DORMCTL => ⟨.enl, 0x50, 0x8, 0, 1, 0x0, 0x0, 0x0, 0x1, 0x0⟩
  | .ENL_WAKESTAT => ⟨.enl, 0x58, 0x8, 0, 1, 0x0, 0x0, 0x0, 0x0, 0x0⟩
  | .ENL_PWRCTL => ⟨.enl, 0x100, 0x8, 0, 83, 0x1, 0x0, 0x0, 0x0, 0x0⟩
  | .ENL_PLVL => ⟨.enl, 0x400, 0x8, 0, 32, 0x7, 0x0, 0x0, 0x0, 0x0⟩
  | .ENL_ACCT => ⟨.enl, 0x10000, 0x8, 0, 1024, 0x0, 0x8000000000000000, 0x0, 0x0, 0x0⟩
  | .ENL_C0RES => ⟨.enl, 0x12000, 0x8, 0, 1024, 0x0, 0x0, 0x0, 0x0, 0x0⟩
  | .ENL_USED => ⟨.enl, 0x14000, 0x8, 0, 1024, 0x0, 0x0, 0x0, 0x0, 0x0⟩
  | .THS_STAT => ⟨.ths, 0x0, 0x8, 0, 1, 0x0, 0x24, 0x0, 0x0, 0x0⟩
  | .THS_RAISE => ⟨.ths, 0x8, 0x8, 0, 1, 0x0, 0x0, 0x0, 0xff03ff0007, 0x0⟩
  | .THS_HOLDCLR => ⟨.ths, 0x10, 0x8, 0, 1, 0x0, 0x0, 0x0, 0x3ff0001, 0x0⟩
  | .THS_ZSTAT => ⟨.ths, 0x18, 0x8, 0, 1, 0x0, 0x4, 0x0, 0x0, 0x0⟩
  | .THS_HOLDMAP => ⟨.ths, 0x80, 0x8, 0, 16, 0x0, 0x0, 0x0, 0x0, 0x0⟩
  | .THS_KEYCMD => ⟨.ths, 0x100, 0x8, 0, 1, 0x0, 0x0, 0x0, 0x3ff03ff000f, 0x0⟩
  | .THS_KEYSTAT => ⟨.ths, 0x108, 0x8, 0, 1, 0x0, 0x0, 0x0, 0x0, 0x0⟩
  | .THS_KEYBUF => ⟨.ths, 0x140, 0x8, 0, 13, 0xffffffffffffffff, 0x0, 0x0, 0x0, 0x0⟩
  | .THS_IMGSRC => ⟨.ths, 0x200, 0x8, 0, 1, 0xffffffffffffffff, 0x0, 0x0, 0x0, 0x0⟩
  | .THS_IMGDST => ⟨.ths, 0x208, 0x8, 0, 1, 0xffffffffffffffff, 0x0, 0x0, 0x0, 0x0⟩
  | .THS_IMGCMD => ⟨.ths, 0x210, 0x8, 0, 1, 0x0, 0x0, 0x0, 0x1, 0x0⟩
  | .THS_IMGSTAT => ⟨.ths, 0x218, 0x8, 0, 1, 0x0, 0x0, 0x0, 0x0, 0x0⟩
  | .THS_TRNG => ⟨.ths, 0x300, 0x8, 0, 1, 0x0, 0x0, 0x0, 0x0, 0xffffffffffffffff⟩
  | .THS_SRCCNT => ⟨.ths, 0x400, 0x8, 1, 10, 0x0, 0x0, 0x0, 0x0, 0xffffffffffffffff⟩
  | .ERR_STAT => ⟨.err, 0x0, 0x8, 0, 1, 0x0, 0x1, 0x0, 0x0, 0x0⟩
  | .ERR_LOGHEAD => ⟨.err, 0x8, 0x8, 0, 1, 0x0, 0x0, 0x0, 0x0, 0x0⟩
  | .ERR_LOGOVFCNT => ⟨.err, 0x10, 0x8, 0, 1, 0x0, 0x0, 0x0, 0x0, 0xffffffffffffffff⟩
  | .ERR_NOTIFY => ⟨.err, 0x18, 0x8, 0, 1, 0xfffff, 0x0, 0x0, 0x0, 0x0⟩
  | .ERR_CTLACCCNT => ⟨.err, 0x20, 0x8, 0, 1, 0x0, 0x0, 0x0, 0x0, 0xffffffffffffffff⟩
  | .ERR_SCRUBMISSCNT => ⟨.err, 0x28, 0x8, 0, 1, 0x0, 0x0, 0x0, 0x0, 0xffffffffffffffff⟩
  | .ERR_THRCTL => ⟨.err, 0x30, 0x8, 0, 1, 0x0, 0x0, 0x0, 0x3ff, 0x0⟩
  | .ERR_LERESTART => ⟨.err, 0x38, 0x8, 0, 1, 0x0, 0x0, 0x0, 0x7f, 0x0⟩
  | .ERR_CTLACCHEAD => ⟨.err, 0x40, 0x8, 0, 1, 0x0, 0x0, 0x0, 0x0, 0x0⟩
  | .ERR_CTLACC_LOG => ⟨.err, 0x80, 0x8, 0, 16, 0x0, 0x0, 0x0, 0x0, 0x0⟩
  | .ERR_LOSTTID => ⟨.err, 0x100, 0x8, 0, 16, 0x0, 0xffffffffffffffff, 0x0, 0x0, 0x0⟩
  | .ERR_CORESTAT => ⟨.err, 0x200, 0x8, 0, 32, 0x0, 0x0, 0x0, 0x0, 0x0⟩
  | .ERR_FLIPMASK => ⟨.err, 0x1000, 0x8, 0, 155, 0xff1ffff03, 0x0, 0x0, 0x0, 0x0⟩
  | .ERR_FLIPDATA => ⟨.err, 0x1800, 0x8, 0, 155, 0xffffffffffffffff, 0x0, 0x0, 0x0, 0x0⟩
  | .MAP_NODE => ⟨.map, 0x0, 0x8, 0, 1, 0x0, 0x0, 0x1fff, 0x0, 0x0⟩
  | .MAP_DIRBICNT => ⟨.map, 0x8, 0x8, 0, 1, 0x0, 0x0, 0x0, 0x0, 0xffffffffffffffff⟩
  | .MAP_NOMEMCNT => ⟨.map, 0x10, 0x8, 0, 1, 0x0, 0x0, 0x0, 0x0, 0xffffffffffffffff⟩
  | .MAP_FABCTL => ⟨.map, 0x20, 0x8, 0, 1, 0xfff, 0x0, 0x0, 0x0, 0x0⟩
  | .MAP_SVCCTL => ⟨.map, 0x28, 0x8, 0, 1, 0x0, 0x0, 0x0, 0xff0f, 0x0⟩
  | .MAP_SVCSTAT => ⟨.map, 0x30, 0x8, 0, 1, 0x0, 0x30000, 0x0, 0x0, 0x0⟩
  | .MAP_XBARDROPCNT => ⟨.map, 0x38, 0x8, 0, 1, 0x0, 0x0, 0x0, 0x0, 0xffffffffffffffff⟩
  | .MAP_INSVCA => ⟨.map, 0x40, 0x8, 0, 1, 0x0, 0x0, 0x0, 0x0, 0x0⟩
  | .MAP_INSVCP => ⟨.map, 0x48, 0x8, 0, 3, 0x0, 0x0, 0x0, 0x0, 0x0⟩
  | .MAP_RBASE => ⟨.map, 0x100, 0x8, 0, 16, 0x0, 0x0, 0xfffffc0000000, 0x0, 0x0⟩
  | .MAP_RLIM => ⟨.map, 0x180, 0x8, 0, 16, 0x0, 0x0, 0xfffffc0000000, 0x0, 0x0⟩
  | .MAP_RCFG => ⟨.map, 0x200, 0x8, 0, 16, 0x0, 0x0, 0xffffffff00ff, 0x0, 0x0⟩
  | .MAP_SLICE => ⟨.map, 0x1000, 0x8, 0, 256, 0xff, 0x0, 0x0, 0x0, 0x0⟩
  | .MAP_LEASEA => ⟨.map, 0x2000, 0x10, 0, 64, 0xffffffff3f87, 0x4000, 0x0, 0x60, 0x0⟩
  | .MAP_LEASEB => ⟨.map, 0x2008, 0x10, 0, 64, 0xffffffffff000, 0x0, 0x0, 0x0, 0x0⟩
  | .MAP_BORROWA => ⟨.map, 0x2400, 0x10, 0, 64, 0xfff3f3f01, 0x0, 0x0, 0x0, 0x0⟩
  | .MAP_BORROWB => ⟨.map, 0x2408, 0x10, 0, 64, 0xffffffffff000, 0x0, 0x0, 0x0, 0x0⟩
  | .MAP_FLOW => ⟨.map, 0x10000, 0x8, 0, 4096, 0xf1fff0fff3ff7, 0x0, 0x0, 0x0, 0x0⟩
  | .MAP_ROUTE => ⟨.map, 0x20000, 0x8, 0, 4096, 0x1ffff, 0x0, 0x0, 0x0, 0x0⟩
  | .MAP_TFABCNT => ⟨.map, 0x30000, 0x8, 0, 8192, 0x0, 0x0, 0x0, 0x0, 0xffffffffffffffff⟩
  | .MAP_TQUOTA => ⟨.map, 0x40000, 0x8, 0, 1024, 0x1ffffffffffff, 0x0, 0x0, 0x0, 0x0⟩
  | .CL_SRLCTL => ⟨.cl, 0x100, 0x8, 0, 8, 0xffffffffe000f, 0x0, 0x0, 0x0, 0x0⟩
  | .CL_SLPCTL => ⟨.cl, 0x180, 0x8, 0, 8, 0x3, 0x0, 0x0, 0x0, 0x0⟩
  | .CL_STARTPC => ⟨.cl, 0x200, 0x8, 0, 16, 0xfffffffffffffffc, 0x0, 0x0, 0x1, 0x0⟩
  | .CL_IRAISE => ⟨.cl, 0x1000, 0x8, 0, 1, 0x0, 0x0, 0x0, 0xfff, 0x0⟩
  | .CL_IPEND => ⟨.cl, 0x2000, 0x8, 0, 64, 0x0, 0xffffffffffffffff, 0x0, 0x0, 0x0⟩
  | .CL_IVCFG => ⟨.cl, 0x10000, 0x8, 0, 4096, 0x1f, 0x0, 0x0, 0x0, 0x0⟩
  | .SG_STAT => ⟨.sg, 0x0, 0x8, 0, 1, 0x0, 0x0, 0x0, 0x0, 0x0⟩
  | .SG_FCYC => ⟨.sg, 0x8, 0x8, 0, 1, 0x0, 0x0, 0x0, 0x0, 0x0⟩
  | .SG_OVRCNT => ⟨.sg, 0x10, 0x8, 0, 1, 0x0, 0x0, 0x0, 0x0, 0xffffffffffffffff⟩
  | .SG_SKIPCNT => ⟨.sg, 0x18, 0x8, 0, 1, 0x0, 0x0, 0x0, 0x0, 0xffffffffffffffff⟩
  | .SG_TIODRV => ⟨.sg, 0x20, 0x8, 0, 1, 0xffff, 0x0, 0x0, 0x0, 0x0⟩
  | .SG_TMRCTL => ⟨.sg, 0x100, 0x8, 0, 8, 0x7ff, 0x0, 0x0, 0x0, 0x0⟩
  | .SG_TMRCNT => ⟨.sg, 0x140, 0x8, 0, 8, 0x0, 0x0, 0x0, 0x0, 0x0⟩
  | .SG_CAPCTL => ⟨.sg, 0x180, 0x8, 0, 8, 0x7f7, 0x0, 0x0, 0x0, 0x0⟩
  | .SG_CAPDATA => ⟨.sg, 0x1c0, 0x8, 0, 8, 0x0, 0x8000000000000000, 0x0, 0x0, 0x0⟩
  | .SE_STAT => ⟨.se, 0x0, 0x8, 0, 1, 0x0, 0x0, 0x0, 0x0, 0x0⟩
  | .SE_SWFRAME => ⟨.se, 0x8, 0x8, 0, 1, 0xffffffffffffffff, 0x0, 0x0, 0x0, 0x0⟩
  | .SE_SWSTAT => ⟨.se, 0x10, 0x8, 0, 1, 0x0, 0x4, 0x0, 0x2, 0x0⟩
  | .SE_EVPEND => ⟨.se, 0x18, 0x8, 0, 1, 0x0, 0x0, 0x0, 0x0, 0x0⟩
  | .SE_JOBCNT => ⟨.se, 0x20, 0x8, 0, 1, 0x0, 0x0, 0x0, 0x0, 0xffffffffffffffff⟩
  | .SE_LASTJOB => ⟨.se, 0x28, 0x8, 0, 1, 0x0, 0x0, 0x0, 0x0, 0x0⟩
  | .SE_FAULT => ⟨.se, 0x30, 0x8, 0, 1, 0x0, 0x0, 0x0, 0x0, 0x0⟩
  | .SE_OBUFST => ⟨.se, 0x140, 0x8, 0, 8, 0x0, 0x0, 0x0, 0x0, 0x0⟩
  | .SE_DMASRC => ⟨.se, 0x200, 0x40, 0, 4, 0xffffffffffffffff, 0x0, 0x0, 0x0, 0x0⟩
  | .SE_DMADST => ⟨.se, 0x208, 0x40, 0, 4, 0xffffffffffffffff, 0x0, 0x0, 0x0, 0x0⟩
  | .SE_DMASHAPE => ⟨.se, 0x210, 0x40, 0, 4, 0xffffffffffffffff, 0x0, 0x0, 0x0, 0x0⟩
  | .SE_DMACTL => ⟨.se, 0x218, 0x40, 0, 4, 0x0, 0x4, 0x0, 0x9, 0x0⟩
  | .MC_STAT => ⟨.mc, 0x0, 0x8, 0, 1, 0x0, 0x0, 0x0, 0x0, 0x0⟩
  | .MC_CFG => ⟨.mc, 0x8, 0x8, 0, 1, 0x0, 0x0, 0x3ff00ff, 0x0, 0x0⟩
  | .MC_WQ_HI => ⟨.mc, 0x10, 0x8, 0, 1, 0xff, 0x0, 0x0, 0x0, 0x0⟩
  | .MC_WQ_LO => ⟨.mc, 0x18, 0x8, 0, 1, 0xff, 0x0, 0x0, 0x0, 0x0⟩
  | .MC_QSTAT => ⟨.mc, 0x20, 0x8, 0, 1, 0x0, 0x0, 0x0, 0x0, 0x0⟩
  | .MC_REFCTL => ⟨.mc, 0x28, 0x8, 0, 1, 0x3, 0x0, 0x0, 0x0, 0x0⟩
  | .MC_RHCTL => ⟨.mc, 0x30, 0x8, 0, 1, 0x3f, 0x0, 0x0, 0x0, 0x0⟩
  | .MC_C0DEEPCNT => ⟨.mc, 0x38, 0x8, 0, 1, 0x0, 0x0, 0x0, 0x0, 0xffffffffffffffff⟩
  | .MC_REFSPLITCNT => ⟨.mc, 0x40, 0x8, 0, 1, 0x0, 0x0, 0x0, 0x0, 0xffffffffffffffff⟩
  | .MC_NBRREFCNT => ⟨.mc, 0x48, 0x8, 0, 1, 0x0, 0x0, 0x0, 0x0, 0xffffffffffffffff⟩
  | .MC_CECNT => ⟨.mc, 0x50, 0x8, 0, 1, 0x0, 0x0, 0x0, 0x0, 0xffffffffffffffff⟩
  | .MC_UECNT => ⟨.mc, 0x58, 0x8, 0, 1, 0x0, 0x0, 0x0, 0x0, 0xffffffffffffffff⟩
  | .MC_FRZSTAT => ⟨.mc, 0x60, 0x8, 0, 1, 0x0, 0x180, 0x0, 0x0, 0x0⟩
  | .MC_FRZCTL => ⟨.mc, 0x68, 0x8, 0, 1, 0xc, 0x0, 0x0, 0x3, 0x0⟩
  | .MC_MIRSTAT => ⟨.mc, 0x70, 0x8, 0, 1, 0x0, 0x0, 0x0, 0x0, 0x0⟩
  | .MC_MIRCTL => ⟨.mc, 0x78, 0x8, 0, 1, 0x0, 0x0, 0x0, 0x1, 0x0⟩
  | .MC_NOKEYCNT => ⟨.mc, 0x80, 0x8, 0, 1, 0x0, 0x0, 0x0, 0x0, 0xffffffffffffffff⟩
  | .MC_DEFOVFCNT => ⟨.mc, 0x88, 0x8, 0, 1, 0x0, 0x0, 0x0, 0x0, 0xffffffffffffffff⟩
  | .MC_KEYVALID => ⟨.mc, 0x100, 0x8, 0, 16, 0x0, 0x0, 0x0, 0x0, 0x0⟩
  | .MC_CMPCTL => ⟨.mc, 0x800, 0x8, 0, 1, 0x1, 0x0, 0x0, 0x2, 0x0⟩
  | .MC_CMPSTAT => ⟨.mc, 0x808, 0x8, 0, 1, 0x0, 0x0, 0x0, 0x0, 0x0⟩
  | .MC_MDMISSCNT => ⟨.mc, 0x810, 0x8, 0, 1, 0x0, 0x0, 0x0, 0x0, 0xffffffffffffffff⟩
  | .MC_BURSTRD => ⟨.mc, 0x818, 0x8, 0, 1, 0x0, 0x0, 0x0, 0x0, 0xffffffffffffffff⟩
  | .MC_BURSTSV => ⟨.mc, 0x820, 0x8, 0, 1, 0x0, 0x0, 0x0, 0x0, 0xffffffffffffffff⟩
  | .MC_CWEXACT => ⟨.mc, 0x828, 0x8, 0, 1, 0x0, 0x0, 0x0, 0x0, 0xffffffffffffffff⟩
  | .MC_RMWCNT => ⟨.mc, 0x830, 0x8, 0, 1, 0x0, 0x0, 0x0, 0x0, 0xffffffffffffffff⟩
  | .LE_STAT => ⟨.le, 0x0, 0x8, 0, 1, 0x0, 0x0, 0x0, 0x0, 0x0⟩
  | .LE_CTL => ⟨.le, 0x8, 0x8, 0, 1, 0x0, 0x0, 0x0, 0x1, 0x0⟩
  | .LE_UCSW => ⟨.le, 0x10, 0x8, 0, 1, 0xffffffffffffffff, 0x0, 0x0, 0x0, 0x0⟩
  | .LE_UCSWSTAT => ⟨.le, 0x18, 0x8, 0, 1, 0x0, 0xc, 0x0, 0x2, 0x0⟩
  | .LE_CSCECNT => ⟨.le, 0x20, 0x8, 0, 1, 0x0, 0x0, 0x0, 0x0, 0xffffffffffffffff⟩
  | .LE_CSUECNT => ⟨.le, 0x28, 0x8, 0, 1, 0x0, 0x0, 0x0, 0x0, 0xffffffffffffffff⟩
  | .LE_PORTCFG => ⟨.le, 0x100, 0x40, 0, 4, 0xffffff7f, 0x0, 0x0, 0x80, 0x0⟩
  | .LE_PORTSTAT => ⟨.le, 0x108, 0x40, 0, 4, 0x0, 0x0, 0x0, 0x0, 0x0⟩
  | .LE_PORTADV => ⟨.le, 0x110, 0x40, 0, 4, 0x0, 0x0, 0x0, 0x0, 0x0⟩
  | .LE_PORTDLY => ⟨.le, 0x118, 0x40, 0, 4, 0x0, 0x0, 0x0, 0x0, 0x0⟩
  | .LE_PORTDOWNCNT => ⟨.le, 0x120, 0x40, 0, 4, 0x0, 0x0, 0x0, 0x0, 0xffffffffffffffff⟩
  | .LE_PORTDROPCNT => ⟨.le, 0x128, 0x40, 0, 4, 0x0, 0x0, 0x0, 0x0, 0xffffffffffffffff⟩
  | .LE_PCIECFG => ⟨.le, 0x400, 0x8, 0, 1, 0x0, 0x0, 0x3f, 0x0, 0x0⟩
  | .LE_PCIEOB => ⟨.le, 0x408, 0x8, 0, 1, 0xfffffff000000000, 0x0, 0x0, 0x0, 0x0⟩
  | .LE_PCIEWIN => ⟨.le, 0x480, 0x10, 0, 8, 0xfffffffffffff0ff, 0x0, 0x0, 0x0, 0x0⟩
  | .LE_PCIEWTGT => ⟨.le, 0x488, 0x10, 0, 8, 0xfffffffffffff3ff, 0x0, 0x0, 0x0, 0x0⟩
  | .LE_ETHQBASE => ⟨.le, 0x1000, 0x20, 0, 64, 0xfffffffffffff000, 0x0, 0x0, 0x0, 0x0⟩
  | .LE_ETHQCTL => ⟨.le, 0x1008, 0x20, 0, 64, 0x3ff001f, 0x0, 0x0, 0x0, 0x0⟩
  | .LE_ETHQPTR => ⟨.le, 0x1010, 0x20, 0, 64, 0xffff00000000, 0x0, 0x0, 0x0, 0x0⟩

/-- The registers of the KPR window. -/
def regsKPR : List Reg :=
  [.KPR_DEVID, .KPR_CAPS, .KPR_IFVER, .KPR_SERIAL, .KPR_BOOTSTAT, .KPR_BOOTCTL, .KPR_RESTART, .KPR_IPEND, .KPR_CADCTL, .KPR_MBOXDB, .KPR_SUPSTAT, .KPR_MBOXREQ, .KPR_MBOXRSP]

/-- The registers of the CAD window. -/
def regsCAD : List Reg :=
  [.CAD_STAT, .CAD_CTRL, .CAD_FRAMECNT, .CAD_SFPOS, .CAD_TIMING, .CAD_TIMING_NEXT, .CAD_TIMING_AT, .CAD_FRAMESET, .CAD_SEAL, .CAD_SEALSTAT, .CAD_LATECNT, .CAD_LATERUN, .CAD_TMON, .CAD_TDISCCNT, .CAD_TFAULTCNT, .CAD_FCMISCNT, .CAD_IPEND, .CAD_DOORBELL]

/-- The registers of the ENL window. -/
def regsENL : List Reg :=
  [.ENL_STAT, .ENL_DEVCFG, .ENL_DEVACCT, .ENL_FRAMEEN, .ENL_CALFACT, .ENL_GATECNT, .ENL_OVERDECLCNT, .ENL_ACCTSET, .ENL_RTC, .ENL_RTCALM, .ENL_DORMCTL, .ENL_WAKESTAT, .ENL_PWRCTL, .ENL_PLVL, .ENL_ACCT, .ENL_C0RES, .ENL_USED]

/-- The registers of the THS window. -/
def regsTHS : List Reg :=
  [.THS_STAT, .THS_RAISE, .THS_HOLDCLR, .THS_ZSTAT, .THS_HOLDMAP, .THS_KEYCMD, .THS_KEYSTAT, .THS_KEYBUF, .THS_IMGSRC, .THS_IMGDST, .THS_IMGCMD, .THS_IMGSTAT, .THS_TRNG, .THS_SRCCNT]

/-- The registers of the ERR window. -/
def regsERR : List Reg :=
  [.ERR_STAT, .ERR_LOGHEAD, .ERR_LOGOVFCNT, .ERR_NOTIFY, .ERR_CTLACCCNT, .ERR_SCRUBMISSCNT, .ERR_THRCTL, .ERR_LERESTART, .ERR_CTLACCHEAD, .ERR_CTLACC_LOG, .ERR_LOSTTID, .ERR_CORESTAT, .ERR_FLIPMASK, .ERR_FLIPDATA]

/-- The registers of the MAP window. -/
def regsMAP : List Reg :=
  [.MAP_NODE, .MAP_DIRBICNT, .MAP_NOMEMCNT, .MAP_FABCTL, .MAP_SVCCTL, .MAP_SVCSTAT, .MAP_XBARDROPCNT, .MAP_INSVCA, .MAP_INSVCP, .MAP_RBASE, .MAP_RLIM, .MAP_RCFG, .MAP_SLICE, .MAP_LEASEA, .MAP_LEASEB, .MAP_BORROWA, .MAP_BORROWB, .MAP_FLOW, .MAP_ROUTE, .MAP_TFABCNT, .MAP_TQUOTA]

/-- The registers of the CL window. -/
def regsCL : List Reg :=
  [.CL_SRLCTL, .CL_SLPCTL, .CL_STARTPC, .CL_IRAISE, .CL_IPEND, .CL_IVCFG]

/-- The registers of the SG window. -/
def regsSG : List Reg :=
  [.SG_STAT, .SG_FCYC, .SG_OVRCNT, .SG_SKIPCNT, .SG_TIODRV, .SG_TMRCTL, .SG_TMRCNT, .SG_CAPCTL, .SG_CAPDATA]

/-- The registers of the SE window. -/
def regsSE : List Reg :=
  [.SE_STAT, .SE_SWFRAME, .SE_SWSTAT, .SE_EVPEND, .SE_JOBCNT, .SE_LASTJOB, .SE_FAULT, .SE_OBUFST, .SE_DMASRC, .SE_DMADST, .SE_DMASHAPE, .SE_DMACTL]

/-- The registers of the MC window. -/
def regsMC : List Reg :=
  [.MC_STAT, .MC_CFG, .MC_WQ_HI, .MC_WQ_LO, .MC_QSTAT, .MC_REFCTL, .MC_RHCTL, .MC_C0DEEPCNT, .MC_REFSPLITCNT, .MC_NBRREFCNT, .MC_CECNT, .MC_UECNT, .MC_FRZSTAT, .MC_FRZCTL, .MC_MIRSTAT, .MC_MIRCTL, .MC_NOKEYCNT, .MC_DEFOVFCNT, .MC_KEYVALID, .MC_CMPCTL, .MC_CMPSTAT, .MC_MDMISSCNT, .MC_BURSTRD, .MC_BURSTSV, .MC_CWEXACT, .MC_RMWCNT]

/-- The registers of the LE window. -/
def regsLE : List Reg :=
  [.LE_STAT, .LE_CTL, .LE_UCSW, .LE_UCSWSTAT, .LE_CSCECNT, .LE_CSUECNT, .LE_PORTCFG, .LE_PORTSTAT, .LE_PORTADV, .LE_PORTDLY, .LE_PORTDOWNCNT, .LE_PORTDROPCNT, .LE_PCIECFG, .LE_PCIEOB, .LE_PCIEWIN, .LE_PCIEWTGT, .LE_ETHQBASE, .LE_ETHQCTL, .LE_ETHQPTR]

/-- The offset of a register from the base of control space: block b, index i. -/
def Reg.off (r : Reg) (b i : Nat) : Nat :=
  r.row.win.base b + r.row.base + i * r.row.step

/-- The first register of a list that lies at offset o of its block, with its index. -/
def findReg (o : Nat) : List Reg → Option (Reg × Nat)
  | [] => none
  | r :: rs =>
    let w := r.row
    if w.base ≤ o ∧ (o - w.base) % w.step = 0 ∧ (o - w.base) / w.step < w.count
        ∧ w.first ≤ (o - w.base) / w.step
    then some (r, (o - w.base) / w.step)
    else findReg o rs

/-- The register at an offset from the base of control space, with block and index (R220, R221). The Ethernet and PCI
Express registers at 0x400 to 0x4FF of a link engine exist only in the even windows up to LE14 (R327). -/
def regAt (off : Nat) : Option (Reg × Nat × Nat) :=
  let b := off / 0x0100_0000
  let o := off % 0x0100_0000
  let at_ (k : Nat) (rs : List Reg) : Option (Reg × Nat × Nat) := (findReg o rs).map (fun p => (p.1, k, p.2))
  if off % 8 ≠ 0 then none
  else if b = 0 then at_ 0 regsKPR
  else if b = 1 then at_ 0 regsCAD
  else if b = 2 then at_ 0 regsENL
  else if b = 3 then at_ 0 regsTHS
  else if b = 4 then at_ 0 regsERR
  else if b = 5 then at_ 0 regsMAP
  else if 0x10 ≤ b ∧ b < 0x30 then at_ (b - 0x10) regsCL
  else if 0x30 ≤ b ∧ b < 0x40 then
    if 0x1_0000 ≤ o ∧ o < 0x1_8000 then
      (findReg (o % 0x1000) regsSE).map (fun p => (p.1, (b - 0x30) * 8 + (o - 0x1_0000) / 0x1000, p.2))
    else at_ (b - 0x30) regsSG
  else if 0x40 ≤ b ∧ b < 0x50 then at_ (b - 0x40) regsMC
  else if 0x50 ≤ b ∧ b < 0x74 then
    if 0x400 ≤ o ∧ o < 0x500 ∧ ¬((b - 0x50) % 2 = 0 ∧ b - 0x50 ≤ 14) then none
    else at_ (b - 0x50) regsLE
  else none

/-- The reset value of a register (the register maps; where the map and a field table differ, the field table:
entry 7). ERR_CORESTAT is the map of a part with no spare or failed core; entry 3 names the rest. -/
def Reg.reset (r : Reg) (i : Nat) : Word :=
  match r with
  | .KPR_DEVID => 0x0A3C_5200_0102_0100
  | .KPR_CAPS => 0x0090_2410_0080_0100
  | .KPR_IFVER => 0x0101_0402
  | .KPR_SERIAL => BitVec.ofNat 64 (Config.serialLess1.val + 1)
  | .CAD_TIMING => 0x0000_0001_0000_0190
  | .CAD_TIMING_NEXT => 0x0000_0001_0000_0190
  | .SG_CAPCTL => 0x2
  | .SE_OBUFST => 0x1
  | .MAP_SLICE => BitVec.ofNat 64 (i + i * 65536)
  | .MAP_FABCTL => 0xF10
  | .MC_CMPCTL => 0x1
  | .MC_WQ_HI => 0x60
  | .MC_WQ_LO => 0x20
  | .MC_REFCTL => 0x3
  | .MC_RHCTL => 0x3A
  | .MC_FRZCTL => 0xC
  | .LE_PORTCFG => 0x3F00
  | .ENL_DEVCFG => 0x0000_000A_047E_0384
  | .ENL_DEVACCT => 0x0000_0000_9502_F900
  | .ENL_CALFACT => 0x1000
  | .ENL_PWRCTL => if i < 7 then 0x5 else 0
  | .ENL_PLVL => 0x222
  | .ERR_NOTIFY => 0x8_0000
  | .ERR_CORESTAT => 0xFAC6_88FF
  | .ERR_FLIPMASK => 0xF_F000_0000
  | _ => 0

/-- A field of a register: bits [hi:lo]. -/
structure Fld where
  reg : Reg
  hi  : Nat
  lo  : Nat
deriving DecidableEq, Repr

namespace F

/-- R13 [63:48]. -/
def KPR_DEVID_VENDOR : Fld := ⟨.KPR_DEVID, 63, 48⟩
/-- R13 [47:32]. -/
def KPR_DEVID_PART : Fld := ⟨.KPR_DEVID, 47, 32⟩
/-- R13 [31:24]. -/
def KPR_DEVID_FAMILY : Fld := ⟨.KPR_DEVID, 31, 24⟩
/-- R13 [23:16]. -/
def KPR_DEVID_STEPLET : Fld := ⟨.KPR_DEVID, 23, 16⟩
/-- R13 [15:8]. -/
def KPR_DEVID_STEPNUM : Fld := ⟨.KPR_DEVID, 15, 8⟩
/-- R15 [15:0]. -/
def KPR_CAPS_CORES : Fld := ⟨.KPR_CAPS, 15, 0⟩
/-- R15 [31:16]. -/
def KPR_CAPS_SIGENG : Fld := ⟨.KPR_CAPS, 31, 16⟩
/-- R15 [39:32]. -/
def KPR_CAPS_MEMCH : Fld := ⟨.KPR_CAPS, 39, 32⟩
/-- R15 [47:40]. -/
def KPR_CAPS_LINKENG : Fld := ⟨.KPR_CAPS, 47, 40⟩
/-- R15 [63:48]. -/
def KPR_CAPS_PORTS : Fld := ⟨.KPR_CAPS, 63, 48⟩
/-- R16 [7:0]. -/
def KPR_IFVER_GOHAL_MIN : Fld := ⟨.KPR_IFVER, 7, 0⟩
/-- R16 [15:8]. -/
def KPR_IFVER_GOHAL_MAX : Fld := ⟨.KPR_IFVER, 15, 8⟩
/-- R16 [23:16]. -/
def KPR_IFVER_UCIF_MIN : Fld := ⟨.KPR_IFVER, 23, 16⟩
/-- R16 [31:24]. -/
def KPR_IFVER_UCIF_MAX : Fld := ⟨.KPR_IFVER, 31, 24⟩
/-- R46 [0:0]. -/
def CAD_STAT_RUN : Fld := ⟨.CAD_STAT, 0, 0⟩
/-- R46 [1:1]. -/
def CAD_STAT_SEALED : Fld := ⟨.CAD_STAT, 1, 1⟩
/-- R46 [2:2]. -/
def CAD_STAT_PLAN_LATE : Fld := ⟨.CAD_STAT, 2, 2⟩
/-- R46 [3:3]. -/
def CAD_STAT_TDISC_FAULT : Fld := ⟨.CAD_STAT, 3, 3⟩
/-- R46 [4:4]. -/
def CAD_STAT_TICK_HOLD : Fld := ⟨.CAD_STAT, 4, 4⟩
/-- R46 [5:5]. -/
def CAD_STAT_TICK_FREERUN : Fld := ⟨.CAD_STAT, 5, 5⟩
/-- R46 [6:6]. -/
def CAD_STAT_TIMING_ARMED : Fld := ⟨.CAD_STAT, 6, 6⟩
/-- R46 [7:7]. -/
def CAD_STAT_FCNT_MISMATCH : Fld := ⟨.CAD_STAT, 7, 7⟩
/-- R46 [8:8]. -/
def CAD_STAT_SF_MISMATCH : Fld := ⟨.CAD_STAT, 8, 8⟩
/-- R46 [9:9]. -/
def CAD_STAT_LOCKSTEP : Fld := ⟨.CAD_STAT, 9, 9⟩
/-- R46 [11:10]. -/
def CAD_STAT_ACTIVE : Fld := ⟨.CAD_STAT, 11, 10⟩
/-- R47 [0:0]. -/
def CAD_CTRL_RUN : Fld := ⟨.CAD_CTRL, 0, 0⟩
/-- R47 [1:1]. -/
def CAD_CTRL_ACQUIRE : Fld := ⟨.CAD_CTRL, 1, 1⟩
/-- R48 [9:0]. -/
def CAD_TIMING_TF : Fld := ⟨.CAD_TIMING, 9, 0⟩
/-- R48 [9:0]. -/
def CAD_TIMING_NEXT_TF : Fld := ⟨.CAD_TIMING_NEXT, 9, 0⟩
/-- R48 [44:32]. -/
def CAD_TIMING_SFLEN : Fld := ⟨.CAD_TIMING, 44, 32⟩
/-- R48 [44:32]. -/
def CAD_TIMING_NEXT_SFLEN : Fld := ⟨.CAD_TIMING_NEXT, 44, 32⟩
/-- R49 [2:0]. -/
def CAD_SEALSTAT_RESULT : Fld := ⟨.CAD_SEALSTAT, 2, 0⟩
/-- R49 [5:3]. -/
def CAD_SEALSTAT_TABLE : Fld := ⟨.CAD_SEALSTAT, 5, 3⟩
/-- R49 [63:16]. -/
def CAD_SEALSTAT_DETAIL : Fld := ⟨.CAD_SEALSTAT, 63, 16⟩
/-- R50 [15:0]. -/
def CAD_TMON_PHASE_AB : Fld := ⟨.CAD_TMON, 15, 0⟩
/-- R50 [31:16]. -/
def CAD_TMON_DISCCOUNT : Fld := ⟨.CAD_TMON, 31, 16⟩
/-- R50 [39:32]. -/
def CAD_TMON_HOLDFRAMES : Fld := ⟨.CAD_TMON, 39, 32⟩
/-- R50 [47:40]. -/
def CAD_TMON_VOTE_A : Fld := ⟨.CAD_TMON, 47, 40⟩
/-- R50 [55:48]. -/
def CAD_TMON_VOTE_B : Fld := ⟨.CAD_TMON, 55, 48⟩
/-- R50 [63:56]. -/
def CAD_TMON_MARKERS : Fld := ⟨.CAD_TMON, 63, 56⟩
/-- R131 [3:0]. -/
def CL_SRLCTL_WAYS : Fld := ⟨.CL_SRLCTL, 3, 0⟩
/-- R131 [4:4]. -/
def CL_SRLCTL_READY : Fld := ⟨.CL_SRLCTL, 4, 4⟩
/-- R131 [51:17]. -/
def CL_SRLCTL_BASE : Fld := ⟨.CL_SRLCTL, 51, 17⟩
/-- R132 [7:0]. -/
def CL_IRAISE_VECTOR : Fld := ⟨.CL_IRAISE, 7, 0⟩
/-- R132 [11:8]. -/
def CL_IRAISE_THREAD : Fld := ⟨.CL_IRAISE, 11, 8⟩
/-- R133 [3:0]. -/
def CL_IVCFG_PRIO : Fld := ⟨.CL_IVCFG, 3, 0⟩
/-- R133 [4:4]. -/
def CL_IVCFG_TARGET : Fld := ⟨.CL_IVCFG, 4, 4⟩
/-- R189 [7:0]. -/
def SG_STAT_INSVC : Fld := ⟨.SG_STAT, 7, 0⟩
/-- R189 [8:8]. -/
def SG_STAT_PWR : Fld := ⟨.SG_STAT, 8, 8⟩
/-- R189 [15:0]. -/
def SG_FCYC_CYCLE : Fld := ⟨.SG_FCYC, 15, 0⟩
/-- R189 [0:0]. -/
def SG_TMRCTL_EN : Fld := ⟨.SG_TMRCTL, 0, 0⟩
/-- R189 [1:1]. -/
def SG_TMRCTL_MODE : Fld := ⟨.SG_TMRCTL, 1, 1⟩
/-- R189 [2:2]. -/
def SG_TMRCTL_OUTEN : Fld := ⟨.SG_TMRCTL, 2, 2⟩
/-- R189 [3:3]. -/
def SG_TMRCTL_OUTACT : Fld := ⟨.SG_TMRCTL, 3, 3⟩
/-- R189 [7:4]. -/
def SG_TMRCTL_PIN : Fld := ⟨.SG_TMRCTL, 7, 4⟩
/-- R189 [10:8]. -/
def SG_TMRCTL_ENGINE : Fld := ⟨.SG_TMRCTL, 10, 8⟩
/-- R189 [31:0]. -/
def SG_TMRCNT_COUNT : Fld := ⟨.SG_TMRCNT, 31, 0⟩
/-- R189 [63:32]. -/
def SG_TMRCNT_RELOAD : Fld := ⟨.SG_TMRCNT, 63, 32⟩
/-- R189 [0:0]. -/
def SG_CAPCTL_EN : Fld := ⟨.SG_CAPCTL, 0, 0⟩
/-- R189 [2:1]. -/
def SG_CAPCTL_EDGE : Fld := ⟨.SG_CAPCTL, 2, 1⟩
/-- R189 [7:4]. -/
def SG_CAPCTL_PIN : Fld := ⟨.SG_CAPCTL, 7, 4⟩
/-- R189 [10:8]. -/
def SG_CAPCTL_ENGINE : Fld := ⟨.SG_CAPCTL, 10, 8⟩
/-- R189 [15:0]. -/
def SG_CAPDATA_CYCLE : Fld := ⟨.SG_CAPDATA, 15, 0⟩
/-- R189 [47:16]. -/
def SG_CAPDATA_FRAME : Fld := ⟨.SG_CAPDATA, 47, 16⟩
/-- R189 [48:48]. -/
def SG_CAPDATA_RISE : Fld := ⟨.SG_CAPDATA, 48, 48⟩
/-- R189 [51:49]. -/
def SG_CAPDATA_DEPTH : Fld := ⟨.SG_CAPDATA, 51, 49⟩
/-- R189 [63:63]. -/
def SG_CAPDATA_OVF : Fld := ⟨.SG_CAPDATA, 63, 63⟩
/-- R189 [1:0]. -/
def SE_STAT_STATE : Fld := ⟨.SE_STAT, 1, 0⟩
/-- R189 [2:2]. -/
def SE_STAT_ACTIVE : Fld := ⟨.SE_STAT, 2, 2⟩
/-- R189 [3:3]. -/
def SE_STAT_SFJOB : Fld := ⟨.SE_STAT, 3, 3⟩
/-- R189 [5:4]. -/
def SE_STAT_SLOT : Fld := ⟨.SE_STAT, 5, 4⟩
/-- R189 [25:16]. -/
def SE_STAT_TID : Fld := ⟨.SE_STAT, 25, 16⟩
/-- R189 [0:0]. -/
def SE_SWSTAT_ARMED : Fld := ⟨.SE_SWSTAT, 0, 0⟩
/-- R189 [1:1]. -/
def SE_SWSTAT_CANCEL : Fld := ⟨.SE_SWSTAT, 1, 1⟩
/-- R189 [2:2]. -/
def SE_SWSTAT_DONE : Fld := ⟨.SE_SWSTAT, 2, 2⟩
/-- R189 [63:16]. -/
def SE_SWSTAT_LASTSW : Fld := ⟨.SE_SWSTAT, 63, 16⟩
/-- R189 [7:0]. -/
def SE_EVPEND_TMR : Fld := ⟨.SE_EVPEND, 7, 0⟩
/-- R189 [15:8]. -/
def SE_EVPEND_CAP : Fld := ⟨.SE_EVPEND, 15, 8⟩
/-- R189 [19:16]. -/
def SE_EVPEND_DMA : Fld := ⟨.SE_EVPEND, 19, 16⟩
/-- R189 [2:0]. -/
def SE_LASTJOB_RESULT : Fld := ⟨.SE_LASTJOB, 2, 0⟩
/-- R189 [4:3]. -/
def SE_LASTJOB_SLOT : Fld := ⟨.SE_LASTJOB, 4, 3⟩
/-- R189 [63:16]. -/
def SE_LASTJOB_FRAME : Fld := ⟨.SE_LASTJOB, 63, 16⟩
/-- R189 [0:0]. -/
def SE_OBUFST_STALE : Fld := ⟨.SE_OBUFST, 0, 0⟩
/-- R189 [63:16]. -/
def SE_OBUFST_FRAME : Fld := ⟨.SE_OBUFST, 63, 16⟩
/-- R189 [19:0]. -/
def SE_DMASHAPE_LEN : Fld := ⟨.SE_DMASHAPE, 19, 0⟩
/-- R189 [31:20]. -/
def SE_DMASHAPE_ROWS : Fld := ⟨.SE_DMASHAPE, 31, 20⟩
/-- R189 [47:32]. -/
def SE_DMASHAPE_SSTRIDE : Fld := ⟨.SE_DMASHAPE, 47, 32⟩
/-- R189 [63:48]. -/
def SE_DMASHAPE_DSTRIDE : Fld := ⟨.SE_DMASHAPE, 63, 48⟩
/-- R189 [0:0]. -/
def SE_DMACTL_GO : Fld := ⟨.SE_DMACTL, 0, 0⟩
/-- R189 [1:1]. -/
def SE_DMACTL_BUSY : Fld := ⟨.SE_DMACTL, 1, 1⟩
/-- R189 [2:2]. -/
def SE_DMACTL_ERR : Fld := ⟨.SE_DMACTL, 2, 2⟩
/-- R189 [3:3]. -/
def SE_DMACTL_STOP : Fld := ⟨.SE_DMACTL, 3, 3⟩
/-- R189 [7:4]. -/
def SE_DMACTL_ERRCODE : Fld := ⟨.SE_DMACTL, 7, 4⟩
/-- R189 [25:16]. -/
def SE_DMACTL_TID : Fld := ⟨.SE_DMACTL, 25, 16⟩
/-- R215 [3:0]. -/
def SE_FAULT_CAUSE : Fld := ⟨.SE_FAULT, 3, 0⟩
/-- R215 [6:4]. -/
def SE_FAULT_SLOT : Fld := ⟨.SE_FAULT, 6, 4⟩
/-- R215 [26:16]. -/
def SE_FAULT_BUNDLE : Fld := ⟨.SE_FAULT, 26, 16⟩
/-- R215 [63:32]. -/
def SE_FAULT_FRAME : Fld := ⟨.SE_FAULT, 63, 32⟩
/-- R244 [11:0]. -/
def MAP_NODE_NODEID : Fld := ⟨.MAP_NODE, 11, 0⟩
/-- R244 [12:12]. -/
def MAP_NODE_SET : Fld := ⟨.MAP_NODE, 12, 12⟩
/-- R244 [51:30]. -/
def MAP_RBASE_BASE : Fld := ⟨.MAP_RBASE, 51, 30⟩
/-- R244 [51:30]. -/
def MAP_RLIM_LAST : Fld := ⟨.MAP_RLIM, 51, 30⟩
/-- R244 [0:0]. -/
def MAP_RCFG_V : Fld := ⟨.MAP_RCFG, 0, 0⟩
/-- R244 [1:1]. -/
def MAP_RCFG_TGT : Fld := ⟨.MAP_RCFG, 1, 1⟩
/-- R244 [2:2]. -/
def MAP_RCFG_MIRROR : Fld := ⟨.MAP_RCFG, 2, 2⟩
/-- R244 [7:3]. -/
def MAP_RCFG_GRAIN : Fld := ⟨.MAP_RCFG, 7, 3⟩
/-- R244 [31:16]. -/
def MAP_RCFG_MASK : Fld := ⟨.MAP_RCFG, 31, 16⟩
/-- R244 [47:32]. -/
def MAP_RCFG_CHBASE : Fld := ⟨.MAP_RCFG, 47, 32⟩
/-- R244 [7:0]. -/
def MAP_SLICE_TARGET : Fld := ⟨.MAP_SLICE, 7, 0⟩
/-- R244 [8:8]. -/
def MAP_SLICE_BUSY : Fld := ⟨.MAP_SLICE, 8, 8⟩
/-- R244 [23:16]. -/
def MAP_SLICE_CUR : Fld := ⟨.MAP_SLICE, 23, 16⟩
/-- R269 [0:0]. -/
def MC_CMPCTL_TEASEL : Fld := ⟨.MC_CMPCTL, 0, 0⟩
/-- R269 [1:1]. -/
def MC_CMPCTL_MDFLUSH : Fld := ⟨.MC_CMPCTL, 1, 1⟩
/-- R269 [0:0]. -/
def MC_CMPSTAT_MDREADY : Fld := ⟨.MC_CMPSTAT, 0, 0⟩
/-- R269 [1:1]. -/
def MC_CMPSTAT_MDBUSY : Fld := ⟨.MC_CMPSTAT, 1, 1⟩
/-- R269 [31:16]. -/
def MC_CMPSTAT_MDDIRTY : Fld := ⟨.MC_CMPSTAT, 31, 16⟩
/-- R294 [0:0]. -/
def MC_STAT_INSVC : Fld := ⟨.MC_STAT, 0, 0⟩
/-- R294 [1:1]. -/
def MC_STAT_FROZEN : Fld := ⟨.MC_STAT, 1, 1⟩
/-- R294 [2:2]. -/
def MC_STAT_RETIRED : Fld := ⟨.MC_STAT, 2, 2⟩
/-- R294 [3:3]. -/
def MC_STAT_UNSUP : Fld := ⟨.MC_STAT, 3, 3⟩
/-- R294 [4:4]. -/
def MC_STAT_TEMPHI : Fld := ⟨.MC_STAT, 4, 4⟩
/-- R294 [5:5]. -/
def MC_STAT_C0WIN : Fld := ⟨.MC_STAT, 5, 5⟩
/-- R294 [10:8]. -/
def MC_STAT_OWED : Fld := ⟨.MC_STAT, 10, 8⟩
/-- R294 [3:0]. -/
def MC_CFG_RATE : Fld := ⟨.MC_CFG, 3, 0⟩
/-- R294 [4:4]. -/
def MC_CFG_DPC : Fld := ⟨.MC_CFG, 4, 4⟩
/-- R294 [5:5]. -/
def MC_CFG_MTYPE : Fld := ⟨.MC_CFG, 5, 5⟩
/-- R294 [7:6]. -/
def MC_CFG_STACK : Fld := ⟨.MC_CFG, 7, 6⟩
/-- R294 [25:16]. -/
def MC_CFG_CAPG : Fld := ⟨.MC_CFG, 25, 16⟩
/-- R294 [7:0]. -/
def MC_WQ_HI_LEVEL : Fld := ⟨.MC_WQ_HI, 7, 0⟩
/-- R294 [7:0]. -/
def MC_WQ_LO_LEVEL : Fld := ⟨.MC_WQ_LO, 7, 0⟩
/-- R294 [4:0]. -/
def MC_QSTAT_C0Q : Fld := ⟨.MC_QSTAT, 4, 0⟩
/-- R294 [14:8]. -/
def MC_QSTAT_RDQ : Fld := ⟨.MC_QSTAT, 14, 8⟩
/-- R294 [23:16]. -/
def MC_QSTAT_WRQ : Fld := ⟨.MC_QSTAT, 23, 16⟩
/-- R294 [24:24]. -/
def MC_QSTAT_DRAIN : Fld := ⟨.MC_QSTAT, 24, 24⟩
/-- R294 [0:0]. -/
def MC_REFCTL_SBREF : Fld := ⟨.MC_REFCTL, 0, 0⟩
/-- R294 [1:1]. -/
def MC_REFCTL_PULLIN : Fld := ⟨.MC_REFCTL, 1, 1⟩
/-- R294 [3:0]. -/
def MC_RHCTL_K : Fld := ⟨.MC_RHCTL, 3, 0⟩
/-- R294 [4:4]. -/
def MC_RHCTL_RFM : Fld := ⟨.MC_RHCTL, 4, 4⟩
/-- R294 [5:5]. -/
def MC_RHCTL_EN : Fld := ⟨.MC_RHCTL, 5, 5⟩
/-- R294 [47:0]. -/
def MC_NBRREFCNT_COUNT : Fld := ⟨.MC_NBRREFCNT, 47, 0⟩
/-- R294 [63:48]. -/
def MC_NBRREFCNT_OVF : Fld := ⟨.MC_NBRREFCNT, 63, 48⟩
/-- R294 [0:0]. -/
def MC_FRZSTAT_FROZEN : Fld := ⟨.MC_FRZSTAT, 0, 0⟩
/-- R294 [3:1]. -/
def MC_FRZSTAT_CAUSE : Fld := ⟨.MC_FRZSTAT, 3, 1⟩
/-- R294 [6:4]. -/
def MC_FRZSTAT_ACTION : Fld := ⟨.MC_FRZSTAT, 6, 4⟩
/-- R294 [7:7]. -/
def MC_FRZSTAT_DEFAULTED : Fld := ⟨.MC_FRZSTAT, 7, 7⟩
/-- R294 [8:8]. -/
def MC_FRZSTAT_RESYNCOVF : Fld := ⟨.MC_FRZSTAT, 8, 8⟩
/-- R294 [24:16]. -/
def MC_FRZSTAT_DEFERRED : Fld := ⟨.MC_FRZSTAT, 24, 16⟩
/-- R294 [63:0]. -/
def MC_DEFOVFCNT_COUNT : Fld := ⟨.MC_DEFOVFCNT, 63, 0⟩
/-- R294 [63:32]. -/
def MC_FRZSTAT_FRAME : Fld := ⟨.MC_FRZSTAT, 63, 32⟩
/-- R294 [1:0]. -/
def MC_FRZCTL_ACT : Fld := ⟨.MC_FRZCTL, 1, 0⟩
/-- R294 [3:2]. -/
def MC_FRZCTL_DEFAULT : Fld := ⟨.MC_FRZCTL, 3, 2⟩
/-- R294 [0:0]. -/
def MC_MIRSTAT_PARTNER : Fld := ⟨.MC_MIRSTAT, 0, 0⟩
/-- R294 [1:1]. -/
def MC_MIRSTAT_DEGRADED : Fld := ⟨.MC_MIRSTAT, 1, 1⟩
/-- R294 [2:2]. -/
def MC_MIRSTAT_REBUILDING : Fld := ⟨.MC_MIRSTAT, 2, 2⟩
/-- R294 [47:16]. -/
def MC_MIRSTAT_PROGRESS : Fld := ⟨.MC_MIRSTAT, 47, 16⟩
/-- R294 [0:0]. -/
def MC_MIRCTL_REBUILD : Fld := ⟨.MC_MIRCTL, 0, 0⟩
/-- R328 [0:0]. -/
def LE_STAT_BANK : Fld := ⟨.LE_STAT, 0, 0⟩
/-- R328 [1:1]. -/
def LE_STAT_MIRRORED : Fld := ⟨.LE_STAT, 1, 1⟩
/-- R328 [2:2]. -/
def LE_STAT_HALTED : Fld := ⟨.LE_STAT, 2, 2⟩
/-- R328 [3:3]. -/
def LE_STAT_COPYBUSY : Fld := ⟨.LE_STAT, 3, 3⟩
/-- R328 [0:0]. -/
def LE_CTL_COPY : Fld := ⟨.LE_CTL, 0, 0⟩
/-- R328 [63:0]. -/
def LE_UCSW_FRAME : Fld := ⟨.LE_UCSW, 63, 0⟩
/-- R328 [0:0]. -/
def LE_UCSWSTAT_ARMED : Fld := ⟨.LE_UCSWSTAT, 0, 0⟩
/-- R328 [1:1]. -/
def LE_UCSWSTAT_CANCEL : Fld := ⟨.LE_UCSWSTAT, 1, 1⟩
/-- R328 [2:2]. -/
def LE_UCSWSTAT_DONE : Fld := ⟨.LE_UCSWSTAT, 2, 2⟩
/-- R328 [3:3]. -/
def LE_UCSWSTAT_ABORTED : Fld := ⟨.LE_UCSWSTAT, 3, 3⟩
/-- R328 [63:16]. -/
def LE_UCSWSTAT_LASTSW : Fld := ⟨.LE_UCSWSTAT, 63, 16⟩
/-- R328 [1:0]. -/
def LE_PORTCFG_PERS : Fld := ⟨.LE_PORTCFG, 1, 0⟩
/-- R328 [2:2]. -/
def LE_PORTCFG_EN : Fld := ⟨.LE_PORTCFG, 2, 2⟩
/-- R328 [4:3]. -/
def LE_PORTCFG_RATE : Fld := ⟨.LE_PORTCFG, 4, 3⟩
/-- R328 [6:5]. -/
def LE_PORTCFG_BOND : Fld := ⟨.LE_PORTCFG, 6, 5⟩
/-- R328 [7:7]. -/
def LE_PORTCFG_RENEG : Fld := ⟨.LE_PORTCFG, 7, 7⟩
/-- R328 [23:8]. -/
def LE_PORTCFG_FEAT : Fld := ⟨.LE_PORTCFG, 23, 8⟩
/-- R328 [27:24]. -/
def LE_PORTCFG_VCAP : Fld := ⟨.LE_PORTCFG, 27, 24⟩
/-- R328 [30:28]. -/
def LE_PORTCFG_DEFQ : Fld := ⟨.LE_PORTCFG, 30, 28⟩
/-- R328 [31:31]. -/
def LE_PORTCFG_MACSEC : Fld := ⟨.LE_PORTCFG, 31, 31⟩
/-- R328 [2:0]. -/
def LE_PORTSTAT_STATE : Fld := ⟨.LE_PORTSTAT, 2, 0⟩
/-- R328 [5:3]. -/
def LE_PORTSTAT_VER : Fld := ⟨.LE_PORTSTAT, 5, 3⟩
/-- R328 [21:6]. -/
def LE_PORTSTAT_FEATACT : Fld := ⟨.LE_PORTSTAT, 21, 6⟩
/-- R328 [23:22]. -/
def LE_PORTSTAT_LRATE : Fld := ⟨.LE_PORTSTAT, 23, 22⟩
/-- R328 [25:24]. -/
def LE_PORTSTAT_LBOND : Fld := ⟨.LE_PORTSTAT, 25, 24⟩
/-- R328 [26:26]. -/
def LE_PORTSTAT_MEMBER : Fld := ⟨.LE_PORTSTAT, 26, 26⟩
/-- R328 [27:27]. -/
def LE_PORTSTAT_UNUSED : Fld := ⟨.LE_PORTSTAT, 27, 27⟩
/-- R328 [31:28]. -/
def LE_PORTSTAT_REASON : Fld := ⟨.LE_PORTSTAT, 31, 28⟩
/-- R328 [3:0]. -/
def LE_PORTADV_MINV : Fld := ⟨.LE_PORTADV, 3, 0⟩
/-- R328 [7:4]. -/
def LE_PORTADV_MAXV : Fld := ⟨.LE_PORTADV, 7, 4⟩
/-- R328 [23:8]. -/
def LE_PORTADV_FEAT : Fld := ⟨.LE_PORTADV, 23, 8⟩
/-- R328 [25:24]. -/
def LE_PORTADV_MAXRATE : Fld := ⟨.LE_PORTADV, 25, 24⟩
/-- R328 [27:26]. -/
def LE_PORTADV_BOND : Fld := ⟨.LE_PORTADV, 27, 26⟩
/-- R328 [28:28]. -/
def LE_PORTADV_ENCREQ : Fld := ⟨.LE_PORTADV, 28, 28⟩
/-- R328 [43:32]. -/
def LE_PORTADV_NODE : Fld := ⟨.LE_PORTADV, 43, 32⟩
/-- R328 [51:48]. -/
def LE_PORTADV_MSGMIN : Fld := ⟨.LE_PORTADV, 51, 48⟩
/-- R328 [55:52]. -/
def LE_PORTADV_MSGMAX : Fld := ⟨.LE_PORTADV, 55, 52⟩
/-- R328 [23:0]. -/
def LE_PORTDLY_DLY : Fld := ⟨.LE_PORTDLY, 23, 0⟩
/-- R328 [63:32]. -/
def LE_PORTDLY_FRAME : Fld := ⟨.LE_PORTDLY, 63, 32⟩
/-- R328 [1:0]. -/
def LE_PCIECFG_MODE : Fld := ⟨.LE_PCIECFG, 1, 0⟩
/-- R328 [2:2]. -/
def LE_PCIECFG_X16 : Fld := ⟨.LE_PCIECFG, 2, 2⟩
/-- R328 [5:3]. -/
def LE_PCIECFG_MAXGEN : Fld := ⟨.LE_PCIECFG, 5, 3⟩
/-- R328 [63:36]. -/
def LE_PCIEOB_BASE : Fld := ⟨.LE_PCIEOB, 63, 36⟩
/-- R328 [0:0]. -/
def LE_PCIEWIN_V : Fld := ⟨.LE_PCIEWIN, 0, 0⟩
/-- R328 [1:1]. -/
def LE_PCIEWIN_W : Fld := ⟨.LE_PCIEWIN, 1, 1⟩
/-- R328 [7:2]. -/
def LE_PCIEWIN_SIZE : Fld := ⟨.LE_PCIEWIN, 7, 2⟩
/-- R328 [63:12]. -/
def LE_PCIEWIN_PBASE : Fld := ⟨.LE_PCIEWIN, 63, 12⟩
/-- R328 [9:0]. -/
def LE_PCIEWTGT_TID : Fld := ⟨.LE_PCIEWTGT, 9, 0⟩
/-- R328 [63:12]. -/
def LE_PCIEWTGT_GBASE : Fld := ⟨.LE_PCIEWTGT, 63, 12⟩
/-- R328 [63:12]. -/
def LE_ETHQBASE_BASE : Fld := ⟨.LE_ETHQBASE, 63, 12⟩
/-- R328 [0:0]. -/
def LE_ETHQCTL_EN : Fld := ⟨.LE_ETHQCTL, 0, 0⟩
/-- R328 [4:1]. -/
def LE_ETHQCTL_LOGN : Fld := ⟨.LE_ETHQCTL, 4, 1⟩
/-- R328 [25:16]. -/
def LE_ETHQCTL_TID : Fld := ⟨.LE_ETHQCTL, 25, 16⟩
/-- R328 [15:0]. -/
def LE_ETHQPTR_HEAD : Fld := ⟨.LE_ETHQPTR, 15, 0⟩
/-- R328 [47:32]. -/
def LE_ETHQPTR_TAIL : Fld := ⟨.LE_ETHQPTR, 47, 32⟩
/-- R356 [7:0]. -/
def MAP_FABCTL_DEFMAX : Fld := ⟨.MAP_FABCTL, 7, 0⟩
/-- R356 [11:8]. -/
def MAP_FABCTL_HOPMAX : Fld := ⟨.MAP_FABCTL, 11, 8⟩
/-- R356 [1:0]. -/
def MAP_SVCCTL_OP : Fld := ⟨.MAP_SVCCTL, 1, 0⟩
/-- R356 [3:2]. -/
def MAP_SVCCTL_KIND : Fld := ⟨.MAP_SVCCTL, 3, 2⟩
/-- R356 [15:8]. -/
def MAP_SVCCTL_INDEX : Fld := ⟨.MAP_SVCCTL, 15, 8⟩
/-- R356 [1:0]. -/
def MAP_SVCSTAT_STATE : Fld := ⟨.MAP_SVCSTAT, 1, 0⟩
/-- R356 [3:2]. -/
def MAP_SVCSTAT_KIND : Fld := ⟨.MAP_SVCSTAT, 3, 2⟩
/-- R356 [15:8]. -/
def MAP_SVCSTAT_INDEX : Fld := ⟨.MAP_SVCSTAT, 15, 8⟩
/-- R356 [16:16]. -/
def MAP_SVCSTAT_DONE : Fld := ⟨.MAP_SVCSTAT, 16, 16⟩
/-- R356 [17:17]. -/
def MAP_SVCSTAT_FAILED : Fld := ⟨.MAP_SVCSTAT, 17, 17⟩
/-- R356 [63:32]. -/
def MAP_SVCSTAT_FRAME : Fld := ⟨.MAP_SVCSTAT, 63, 32⟩
/-- R356 [31:0]. -/
def MAP_INSVCA_CL : Fld := ⟨.MAP_INSVCA, 31, 0⟩
/-- R356 [47:32]. -/
def MAP_INSVCA_SG : Fld := ⟨.MAP_INSVCA, 47, 32⟩
/-- R356 [0:0]. -/
def MAP_LEASEA_V : Fld := ⟨.MAP_LEASEA, 0, 0⟩
/-- R356 [2:1]. -/
def MAP_LEASEA_MODE : Fld := ⟨.MAP_LEASEA, 2, 1⟩
/-- R356 [4:3]. -/
def MAP_LEASEA_STATE : Fld := ⟨.MAP_LEASEA, 4, 3⟩
/-- R356 [5:5]. -/
def MAP_LEASEA_GRANT : Fld := ⟨.MAP_LEASEA, 5, 5⟩
/-- R356 [6:6]. -/
def MAP_LEASEA_RECALL : Fld := ⟨.MAP_LEASEA, 6, 6⟩
/-- R356 [7:7]. -/
def MAP_LEASEA_W : Fld := ⟨.MAP_LEASEA, 7, 7⟩
/-- R356 [13:8]. -/
def MAP_LEASEA_SIZE : Fld := ⟨.MAP_LEASEA, 13, 8⟩
/-- R356 [14:14]. -/
def MAP_LEASEA_FORCED : Fld := ⟨.MAP_LEASEA, 14, 14⟩
/-- R356 [25:16]. -/
def MAP_LEASEA_LTID : Fld := ⟨.MAP_LEASEA, 25, 16⟩
/-- R356 [35:26]. -/
def MAP_LEASEA_BTID : Fld := ⟨.MAP_LEASEA, 35, 26⟩
/-- R356 [47:36]. -/
def MAP_LEASEA_BNODE : Fld := ⟨.MAP_LEASEA, 47, 36⟩
/-- R356 [51:12]. -/
def MAP_LEASEB_BASE : Fld := ⟨.MAP_LEASEB, 51, 12⟩
/-- R356 [0:0]. -/
def MAP_BORROWA_V : Fld := ⟨.MAP_BORROWA, 0, 0⟩
/-- R356 [2:1]. -/
def MAP_BORROWA_STATE : Fld := ⟨.MAP_BORROWA, 2, 1⟩
/-- R356 [13:8]. -/
def MAP_BORROWA_SIZE : Fld := ⟨.MAP_BORROWA, 13, 8⟩
/-- R356 [21:16]. -/
def MAP_BORROWA_LEASE : Fld := ⟨.MAP_BORROWA, 21, 16⟩
/-- R356 [35:24]. -/
def MAP_BORROWA_LNODE : Fld := ⟨.MAP_BORROWA, 35, 24⟩
/-- R356 [51:12]. -/
def MAP_BORROWB_BASE : Fld := ⟨.MAP_BORROWB, 51, 12⟩
/-- R356 [0:0]. -/
def MAP_FLOW_V : Fld := ⟨.MAP_FLOW, 0, 0⟩
/-- R356 [2:1]. -/
def MAP_FLOW_CLASS : Fld := ⟨.MAP_FLOW, 2, 1⟩
/-- R356 [13:4]. -/
def MAP_FLOW_TID : Fld := ⟨.MAP_FLOW, 13, 4⟩
/-- R356 [27:16]. -/
def MAP_FLOW_DST : Fld := ⟨.MAP_FLOW, 27, 16⟩
/-- R356 [44:32]. -/
def MAP_FLOW_MSGMAX : Fld := ⟨.MAP_FLOW, 44, 32⟩
/-- R356 [51:48]. -/
def MAP_FLOW_CODEC : Fld := ⟨.MAP_FLOW, 51, 48⟩
/-- R356 [7:0]. -/
def MAP_ROUTE_PORT : Fld := ⟨.MAP_ROUTE, 7, 0⟩
/-- R356 [15:8]. -/
def MAP_ROUTE_ALT : Fld := ⟨.MAP_ROUTE, 15, 8⟩
/-- R356 [16:16]. -/
def MAP_ROUTE_V : Fld := ⟨.MAP_ROUTE, 16, 16⟩
/-- R356 [31:0]. -/
def MAP_TFABCNT_DEFERS : Fld := ⟨.MAP_TFABCNT, 31, 0⟩
/-- R356 [63:32]. -/
def MAP_TFABCNT_REFUSALS : Fld := ⟨.MAP_TFABCNT, 63, 32⟩
/-- R356 [15:0]. -/
def MAP_TQUOTA_Q2 : Fld := ⟨.MAP_TQUOTA, 15, 0⟩
/-- R356 [31:16]. -/
def MAP_TQUOTA_Q3 : Fld := ⟨.MAP_TQUOTA, 31, 16⟩
/-- R356 [47:32]. -/
def MAP_TQUOTA_Q1 : Fld := ⟨.MAP_TQUOTA, 47, 32⟩
/-- R356 [48:48]. -/
def MAP_TQUOTA_SCAV : Fld := ⟨.MAP_TQUOTA, 48, 48⟩
/-- R383 [0:0]. -/
def ENL_STAT_GATE : Fld := ⟨.ENL_STAT, 0, 0⟩
/-- R383 [1:1]. -/
def ENL_STAT_NOP0 : Fld := ⟨.ENL_STAT, 1, 1⟩
/-- R383 [2:2]. -/
def ENL_STAT_CALOOR : Fld := ⟨.ENL_STAT, 2, 2⟩
/-- R383 [3:3]. -/
def ENL_STAT_FRAMECAP : Fld := ⟨.ENL_STAT, 3, 3⟩
/-- R383 [4:4]. -/
def ENL_STAT_RTCFIRED : Fld := ⟨.ENL_STAT, 4, 4⟩
/-- R383 [11:0]. -/
def ENL_DEVCFG_PSUST : Fld := ⟨.ENL_DEVCFG, 11, 0⟩
/-- R383 [27:16]. -/
def ENL_DEVCFG_PEXC : Fld := ⟨.ENL_DEVCFG, 27, 16⟩
/-- R383 [35:32]. -/
def ENL_DEVCFG_XMS : Fld := ⟨.ENL_DEVCFG, 35, 32⟩
/-- R383 [39:0]. -/
def ENL_DEVACCT_D : Fld := ⟨.ENL_DEVACCT, 39, 0⟩
/-- R383 [39:0]. -/
def ENL_FRAMEEN_EF : Fld := ⟨.ENL_FRAMEEN, 39, 0⟩
/-- R383 [15:0]. -/
def ENL_CALFACT_FACTOR : Fld := ⟨.ENL_CALFACT, 15, 0⟩
/-- R383 [9:0]. -/
def ENL_ACCTSET_TID : Fld := ⟨.ENL_ACCTSET, 9, 0⟩
/-- R383 [63:24]. -/
def ENL_ACCTSET_VALUE : Fld := ⟨.ENL_ACCTSET, 63, 24⟩
/-- R383 [47:0]. -/
def ENL_RTC_COUNT : Fld := ⟨.ENL_RTC, 47, 0⟩
/-- R383 [47:0]. -/
def ENL_RTCALM_ALARM : Fld := ⟨.ENL_RTCALM, 47, 0⟩
/-- R383 [63:63]. -/
def ENL_RTCALM_ALMEN : Fld := ⟨.ENL_RTCALM, 63, 63⟩
/-- R383 [0:0]. -/
def ENL_DORMCTL_ENTER : Fld := ⟨.ENL_DORMCTL, 0, 0⟩
/-- R383 [2:0]. -/
def ENL_WAKESTAT_CAUSE : Fld := ⟨.ENL_WAKESTAT, 2, 0⟩
/-- R383 [0:0]. -/
def ENL_PWRCTL_ON : Fld := ⟨.ENL_PWRCTL, 0, 0⟩
/-- R383 [2:1]. -/
def ENL_PWRCTL_STATE : Fld := ⟨.ENL_PWRCTL, 2, 1⟩
/-- R383 [2:0]. -/
def ENL_PLVL_REQ : Fld := ⟨.ENL_PLVL, 2, 0⟩
/-- R383 [6:4]. -/
def ENL_PLVL_CAP : Fld := ⟨.ENL_PLVL, 6, 4⟩
/-- R383 [10:8]. -/
def ENL_PLVL_CUR : Fld := ⟨.ENL_PLVL, 10, 8⟩
/-- R383 [12:12]. -/
def ENL_PLVL_BUSY : Fld := ⟨.ENL_PLVL, 12, 12⟩
/-- R383 [39:0]. -/
def ENL_ACCT_BALANCE : Fld := ⟨.ENL_ACCT, 39, 0⟩
/-- R383 [63:63]. -/
def ENL_ACCT_SAT : Fld := ⟨.ENL_ACCT, 63, 63⟩
/-- R383 [31:0]. -/
def ENL_C0RES_RES : Fld := ⟨.ENL_C0RES, 31, 0⟩
/-- R383 [39:0]. -/
def ENL_USED_USED : Fld := ⟨.ENL_USED, 39, 0⟩
/-- R383 [63:48]. -/
def ENL_USED_FRAME : Fld := ⟨.ENL_USED, 63, 48⟩
/-- R384 [1:0]. -/
def CL_SLPCTL_DEPTH : Fld := ⟨.CL_SLPCTL, 1, 0⟩
/-- R384 [5:4]. -/
def CL_SLPCTL_STATE : Fld := ⟨.CL_SLPCTL, 5, 4⟩
/-- R384 [6:6]. -/
def CL_SLPCTL_ENTERING : Fld := ⟨.CL_SLPCTL, 6, 6⟩
/-- R384 [7:7]. -/
def CL_SLPCTL_WAKING : Fld := ⟨.CL_SLPCTL, 7, 7⟩
/-- R412 [0:0]. -/
def THS_STAT_HOLD : Fld := ⟨.THS_STAT, 0, 0⟩
/-- R412 [1:1]. -/
def THS_STAT_DBGLOCK : Fld := ⟨.THS_STAT, 1, 1⟩
/-- R412 [2:2]. -/
def THS_STAT_ERASED : Fld := ⟨.THS_STAT, 2, 2⟩
/-- R412 [3:3]. -/
def THS_STAT_TRNGFAIL : Fld := ⟨.THS_STAT, 3, 3⟩
/-- R412 [4:4]. -/
def THS_STAT_EPOCHWORN : Fld := ⟨.THS_STAT, 4, 4⟩
/-- R412 [5:5]. -/
def THS_STAT_ALARM : Fld := ⟨.THS_STAT, 5, 5⟩
/-- R412 [1:0]. -/
def THS_RAISE_LEVEL : Fld := ⟨.THS_RAISE, 1, 0⟩
/-- R412 [2:2]. -/
def THS_RAISE_ALL : Fld := ⟨.THS_RAISE, 2, 2⟩
/-- R412 [25:16]. -/
def THS_RAISE_TID : Fld := ⟨.THS_RAISE, 25, 16⟩
/-- R412 [39:32]. -/
def THS_RAISE_DETAIL : Fld := ⟨.THS_RAISE, 39, 32⟩
/-- R412 [0:0]. -/
def THS_HOLDCLR_ALL : Fld := ⟨.THS_HOLDCLR, 0, 0⟩
/-- R412 [25:16]. -/
def THS_HOLDCLR_TID : Fld := ⟨.THS_HOLDCLR, 25, 16⟩
/-- R412 [0:0]. -/
def THS_ZSTAT_WIREA : Fld := ⟨.THS_ZSTAT, 0, 0⟩
/-- R412 [1:1]. -/
def THS_ZSTAT_WIREB : Fld := ⟨.THS_ZSTAT, 1, 1⟩
/-- R412 [2:2]. -/
def THS_ZSTAT_DFAULT : Fld := ⟨.THS_ZSTAT, 2, 2⟩
/-- R412 [48:32]. -/
def THS_ZSTAT_COUNT : Fld := ⟨.THS_ZSTAT, 48, 32⟩
/-- R412 [31:0]. -/
def THS_SRCCNT_COUNT : Fld := ⟨.THS_SRCCNT, 31, 0⟩
/-- R412 [3:0]. -/
def THS_KEYCMD_OP : Fld := ⟨.THS_KEYCMD, 3, 0⟩
/-- R412 [25:16]. -/
def THS_KEYCMD_TID : Fld := ⟨.THS_KEYCMD, 25, 16⟩
/-- R412 [39:32]. -/
def THS_KEYCMD_PORT : Fld := ⟨.THS_KEYCMD, 39, 32⟩
/-- R412 [41:40]. -/
def THS_KEYCMD_AN : Fld := ⟨.THS_KEYCMD, 41, 40⟩
/-- R412 [0:0]. -/
def THS_KEYSTAT_BUSY : Fld := ⟨.THS_KEYSTAT, 0, 0⟩
/-- R412 [7:4]. -/
def THS_KEYSTAT_RESULT : Fld := ⟨.THS_KEYSTAT, 7, 4⟩
/-- R412 [0:0]. -/
def THS_IMGCMD_GO : Fld := ⟨.THS_IMGCMD, 0, 0⟩
/-- R412 [0:0]. -/
def THS_IMGSTAT_BUSY : Fld := ⟨.THS_IMGSTAT, 0, 0⟩
/-- R412 [7:4]. -/
def THS_IMGSTAT_RESULT : Fld := ⟨.THS_IMGSTAT, 7, 4⟩
/-- R412 [11:8]. -/
def THS_IMGSTAT_TYPE : Fld := ⟨.THS_IMGSTAT, 11, 8⟩
/-- R412 [63:32]. -/
def THS_IMGSTAT_SVN : Fld := ⟨.THS_IMGSTAT, 63, 32⟩
/-- R439 [0:0]. -/
def ERR_STAT_LOSTDATA : Fld := ⟨.ERR_STAT, 0, 0⟩
/-- R439 [1:1]. -/
def ERR_STAT_MESHDEG : Fld := ⟨.ERR_STAT, 1, 1⟩
/-- R439 [11:0]. -/
def ERR_LOGHEAD_NEXT : Fld := ⟨.ERR_LOGHEAD, 11, 0⟩
/-- R439 [47:32]. -/
def ERR_LOGHEAD_SEQ : Fld := ⟨.ERR_LOGHEAD, 47, 32⟩
/-- R439 [7:0]. -/
def ERR_NOTIFY_VECTOR : Fld := ⟨.ERR_NOTIFY, 7, 0⟩
/-- R439 [16:8]. -/
def ERR_NOTIFY_THREAD : Fld := ⟨.ERR_NOTIFY, 16, 8⟩
/-- R439 [17:17]. -/
def ERR_NOTIFY_EN : Fld := ⟨.ERR_NOTIFY, 17, 17⟩
/-- R439 [19:18]. -/
def ERR_NOTIFY_MINSEV : Fld := ⟨.ERR_NOTIFY, 19, 18⟩
/-- R439 [8:0]. -/
def ERR_THRCTL_THREAD : Fld := ⟨.ERR_THRCTL, 8, 0⟩
/-- R439 [9:9]. -/
def ERR_THRCTL_GO : Fld := ⟨.ERR_THRCTL, 9, 9⟩
/-- R439 [5:0]. -/
def ERR_LERESTART_ENGINE : Fld := ⟨.ERR_LERESTART, 5, 0⟩
/-- R439 [6:6]. -/
def ERR_LERESTART_GO : Fld := ⟨.ERR_LERESTART, 6, 6⟩
/-- R439 [3:0]. -/
def ERR_CTLACCHEAD_NEXT : Fld := ⟨.ERR_CTLACCHEAD, 3, 0⟩
/-- R439 [6:0]. -/
def ERR_CTLACC_LOG_STOP : Fld := ⟨.ERR_CTLACC_LOG, 6, 0⟩
/-- R439 [7:7]. -/
def ERR_CTLACC_LOG_WRITE : Fld := ⟨.ERR_CTLACC_LOG, 7, 7⟩
/-- R439 [11:8]. -/
def ERR_CTLACC_LOG_CAUSE : Fld := ⟨.ERR_CTLACC_LOG, 11, 8⟩
/-- R439 [51:12]. -/
def ERR_CTLACC_LOG_OFFSET : Fld := ⟨.ERR_CTLACC_LOG, 51, 12⟩
/-- R439 [63:52]. -/
def ERR_CTLACC_LOG_FRAME : Fld := ⟨.ERR_CTLACC_LOG, 63, 52⟩
/-- R439 [7:0]. -/
def ERR_CORESTAT_INSVC : Fld := ⟨.ERR_CORESTAT, 7, 0⟩
/-- R439 [31:8]. -/
def ERR_CORESTAT_MAP : Fld := ⟨.ERR_CORESTAT, 31, 8⟩
/-- R439 [0:0]. -/
def ERR_FLIPMASK_ARM : Fld := ⟨.ERR_FLIPMASK, 0, 0⟩
/-- R439 [1:1]. -/
def ERR_FLIPMASK_HALF : Fld := ⟨.ERR_FLIPMASK, 1, 1⟩
/-- R439 [15:8]. -/
def ERR_FLIPMASK_SUB : Fld := ⟨.ERR_FLIPMASK, 15, 8⟩
/-- R439 [24:16]. -/
def ERR_FLIPMASK_CHECK : Fld := ⟨.ERR_FLIPMASK, 24, 16⟩
/-- R439 [31:28]. -/
def ERR_FLIPMASK_DEV0 : Fld := ⟨.ERR_FLIPMASK, 31, 28⟩
/-- R439 [35:32]. -/
def ERR_FLIPMASK_DEV1 : Fld := ⟨.ERR_FLIPMASK, 35, 32⟩
/-- R439 [63:0]. -/
def ERR_FLIPDATA_DATA : Fld := ⟨.ERR_FLIPDATA, 63, 0⟩
/-- R463 [3:0]. -/
def KPR_BOOTSTAT_STAGE : Fld := ⟨.KPR_BOOTSTAT, 3, 0⟩
/-- R463 [11:8]. -/
def KPR_BOOTSTAT_CAUSE : Fld := ⟨.KPR_BOOTSTAT, 11, 8⟩
/-- R463 [15:12]. -/
def KPR_BOOTSTAT_RESULT : Fld := ⟨.KPR_BOOTSTAT, 15, 12⟩
/-- R463 [16:16]. -/
def KPR_BOOTSTAT_SLOT : Fld := ⟨.KPR_BOOTSTAT, 16, 16⟩
/-- R463 [23:20]. -/
def KPR_BOOTSTAT_KIND : Fld := ⟨.KPR_BOOTSTAT, 23, 20⟩
/-- R463 [0:0]. -/
def KPR_BOOTCTL_LOCK : Fld := ⟨.KPR_BOOTCTL, 0, 0⟩
/-- R463 [0:0]. -/
def KPR_RESTART_GO : Fld := ⟨.KPR_RESTART, 0, 0⟩
/-- R463 [1:1]. -/
def KPR_RESTART_SLOT : Fld := ⟨.KPR_RESTART, 1, 1⟩
/-- R463 [0:0]. -/
def KPR_CADCTL_STOP : Fld := ⟨.KPR_CADCTL, 0, 0⟩
/-- R463 [1:1]. -/
def KPR_CADCTL_START : Fld := ⟨.KPR_CADCTL, 1, 1⟩
/-- R463 [2:2]. -/
def KPR_CADCTL_STOPPED : Fld := ⟨.KPR_CADCTL, 2, 2⟩
/-- R463 [8:0]. -/
def KPR_MBOXDB_LEN : Fld := ⟨.KPR_MBOXDB, 8, 0⟩
/-- R463 [16:16]. -/
def KPR_MBOXDB_BUSY : Fld := ⟨.KPR_MBOXDB, 16, 16⟩
/-- R463 [17:17]. -/
def KPR_MBOXDB_DONE : Fld := ⟨.KPR_MBOXDB, 17, 17⟩
/-- R463 [0:0]. -/
def CL_STARTPC_GO : Fld := ⟨.CL_STARTPC, 0, 0⟩
/-- R463 [63:2]. -/
def CL_STARTPC_PC : Fld := ⟨.CL_STARTPC, 63, 2⟩
/-- R485 [0:0]. -/
def KPR_SUPSTAT_REFSEL : Fld := ⟨.KPR_SUPSTAT, 0, 0⟩
/-- R485 [1:1]. -/
def KPR_SUPSTAT_REFA_OK : Fld := ⟨.KPR_SUPSTAT, 1, 1⟩
/-- R485 [2:2]. -/
def KPR_SUPSTAT_REFB_OK : Fld := ⟨.KPR_SUPSTAT, 2, 2⟩
/-- R485 [3:3]. -/
def KPR_SUPSTAT_FAILOVER : Fld := ⟨.KPR_SUPSTAT, 3, 3⟩
/-- R485 [7:4]. -/
def KPR_SUPSTAT_SDREF_OK : Fld := ⟨.KPR_SUPSTAT, 7, 4⟩
/-- R485 [11:8]. -/
def KPR_SUPSTAT_LASTFAULT : Fld := ⟨.KPR_SUPSTAT, 11, 8⟩
/-- R485 [12:12]. -/
def KPR_SUPSTAT_THOT : Fld := ⟨.KPR_SUPSTAT, 12, 12⟩
/-- R485 [13:13]. -/
def KPR_SUPSTAT_TTRIP : Fld := ⟨.KPR_SUPSTAT, 13, 13⟩
/-- R485 [23:16]. -/
def KPR_SUPSTAT_TMAX : Fld := ⟨.KPR_SUPSTAT, 23, 16⟩
/-- R485 [31:24]. -/
def KPR_SUPSTAT_TMIN : Fld := ⟨.KPR_SUPSTAT, 31, 24⟩

end F

end Sys2Proof.Machine
end

