-- ==== Sys2Proof/Machine/Ops.lean ====
section
/-! DEFINITION. The named operations over the state: sparse arrays, bits of words, registers and their fields,
control-access errors, records, interrupts, Keep words, threads and blocks. -/
namespace Sys2Proof.Machine

/-! ### Sparse arrays -/

/-- The entry at an index. -/
def mget {α : Type} (m : SMap α) (k : Nat) : Option α :=
  match m with
  | [] => none
  | (i, v) :: t => if i = k then some v else mget t k

/-- The entry at an index, or what an unlisted index reads as. -/
def mgetD {α : Type} (m : SMap α) (k : Nat) (d : α) : α :=
  match mget m k with
  | some v => v
  | none => d

/-- Put an entry at its place. -/
def mput {α : Type} (m : SMap α) (k : Nat) (v : α) : SMap α :=
  match m with
  | [] => [(k, v)]
  | (i, w) :: t =>
    if k < i then (k, v) :: (i, w) :: t
    else if i = k then (k, v) :: t
    else (i, w) :: mput t k v

/-- Remove the entry at an index. -/
def merase {α : Type} (m : SMap α) (k : Nat) : SMap α :=
  match m with
  | [] => []
  | (i, w) :: t => if i = k then merase t k else (i, w) :: merase t k

/-- Write a value, removing the entry where the value is what an unlisted index reads as. -/
def mset {α : Type} [DecidableEq α] (m : SMap α) (k : Nat) (v d : α) : SMap α :=
  if v = d then merase m k else mput m k v

/-- The entries whose indices meet p. -/
def mkeep {α : Type} (m : SMap α) (p : Nat → Bool) : SMap α :=
  m.filter (fun e => p e.1)

/-- The canonical form: strictly rising indices. -/
def mwf {α : Type} (m : SMap α) : Bool :=
  match m with
  | [] => true
  | [_] => true
  | (i, _) :: (j, w) :: t => decide (i < j) && mwf ((j, w) :: t)

/-- Write n consecutive entries from index k. -/
def mputs {α : Type} (m : SMap α) (k : Nat) (vs : List α) : SMap α :=
  match vs with
  | [] => m
  | v :: vs => mputs (mput m k v) (k + 1) vs

/-! ### Bits of words -/

/-- Bits [hi:lo] of a word as a number. -/
def getBits (w : Word) (hi lo : Nat) : Nat :=
  w.toNat / 2 ^ lo % 2 ^ (hi + 1 - lo)

/-- A word with bits [hi:lo] set to a number, taken modulo the field's width. -/
def setBits (w : Word) (hi lo v : Nat) : Word :=
  let m : Nat := (2 ^ (hi + 1 - lo) - 1) * 2 ^ lo
  (w &&& ~~~(BitVec.ofNat 64 m)) ||| BitVec.ofNat 64 (v % 2 ^ (hi + 1 - lo) * 2 ^ lo)

/-- Bit i of a word. -/
def bitOf (w : Word) (i : Nat) : Bool := w.getLsbD i

/-- A word with bit i set to b. -/
def setBit (w : Word) (i : Nat) (b : Bool) : Word :=
  if b then w ||| (1#64 <<< i) else w &&& ~~~(1#64 <<< i)

/-- How many of the low n bits of a number are set. -/
def popcount (n w : Nat) : Nat :=
  match n with
  | 0 => 0
  | n + 1 => (if w.testBit n then 1 else 0) + popcount n w

/-- The two's complement reading of the low n bits of a number. -/
def sexNat (n w : Nat) : Int :=
  if w % 2 ^ n < 2 ^ (n - 1) then (w % 2 ^ n : Nat) else ((w % 2 ^ n : Nat) : Int) - 2 ^ n

/-- An integer as an n-bit two's complement number. -/
def encInt (n : Nat) (x : Int) : Nat := (x % (2 ^ n : Nat)).toNat

/-- Byte i of a word, little-endian. -/
def byteOf (w : Word) (i : Nat) : Byte := (w >>> (8 * i)).setWidth 8

/-- A Bool as a number. -/
def b2n (b : Bool) : Nat := if b then 1 else 0

/-- The least index below n that meets p. -/
def firstIdx (n : Nat) (p : Nat → Bool) : Option Nat :=
  (List.range n).find? p

/-! ### Control registers -/

/-- The value of a register (R10); an unlisted register holds its reset value. -/
def State.rd (s : State) (r : Reg) (b : Nat := 0) (i : Nat := 0) : Word :=
  mgetD s.regs (r.off b i) (r.reset i)

/-- Set a register. -/
def State.wr (s : State) (r : Reg) (v : Word) (b : Nat := 0) (i : Nat := 0) : State :=
  { s with regs := mset s.regs (r.off b i) v (r.reset i) }

/-- A field of a register as a number. -/
def State.fld (s : State) (f : Fld) (b : Nat := 0) (i : Nat := 0) : Nat :=
  getBits (s.rd f.reg b i) f.hi f.lo

/-- A one-bit field of a register. -/
def State.flag (s : State) (f : Fld) (b : Nat := 0) (i : Nat := 0) : Bool :=
  bitOf (s.rd f.reg b i) f.lo

/-- Set a field of a register. -/
def State.setFld (s : State) (f : Fld) (v : Nat) (b : Nat := 0) (i : Nat := 0) : State :=
  s.wr f.reg (setBits (s.rd f.reg b i) f.hi f.lo v) b i

/-- Add one to a counter register, modulo 2^64 (R10, R11). -/
def State.bump (s : State) (r : Reg) (b : Nat := 0) (i : Nat := 0) : State :=
  s.wr r (s.rd r b i + 1) b i

/-- Add n to a counter register. -/
def State.bumpBy (s : State) (r : Reg) (n : Nat) (b : Nat := 0) (i : Nat := 0) : State :=
  s.wr r (s.rd r b i + BitVec.ofNat 64 n) b i

/-- The bits [hi:lo] that a field takes from a word that is being written. -/
def Fld.of (f : Fld) (v : Word) : Nat := getBits v f.hi f.lo

/-- Return every register whose offset meets p to its reset value. -/
def State.resetRegs (s : State) (p : Nat → Bool) : State :=
  { s with regs := mkeep s.regs (fun o => !p o) }

/-- The number of the running frame (R20). -/
def State.frame (s : State) : Word := s.rd .CAD_FRAMECNT

/-- T_f in units of 10 ns (R18). -/
def State.tf (s : State) : Nat := s.fld F.CAD_TIMING_TF

/-! ### What the block sends, and values the manual leaves open -/

/-- Something leaves the block or is returned to a master (entry 11). -/
def State.emit (s : State) (o : Out) : State := { s with out := s.out ++ [o] }

/-- A value the manual leaves open, and the state that has drawn it (entry 6). -/
def State.draw (s : State) : Word × State :=
  (Config.freeWord s.free, { s with free := s.free + 1 })

/-- 64 fresh bits of the TRNG (R410). -/
def State.trng64 (s : State) : Word × State :=
  (Config.trng s.sec.trngCnt, { s with sec := { s.sec with trngCnt := s.sec.trngCnt + 1 } })

/-! ### Blocks and threads by number -/

def State.thread (s : State) (t : Nat) : Thread := mgetD s.threads t (.initial t)
def State.setThread (s : State) (t : Nat) (x : Thread) : State := { s with threads := mput s.threads t x }
def State.core (s : State) (c : Nat) : Core := mgetD s.cores c .initial
def State.setCore (s : State) (c : Nat) (x : Core) : State := { s with cores := mput s.cores c x }
def State.engine (s : State) (e : Nat) : Engine := mgetD s.engines e .initial
def State.setEngine (s : State) (e : Nat) (x : Engine) : State := { s with engines := mput s.engines e x }
def State.group (s : State) (g : Nat) : Group := mgetD s.groups g .initial
def State.setGroup (s : State) (g : Nat) (x : Group) : State := { s with groups := mput s.groups g x }
def State.chan (s : State) (c : Nat) : Chan := mgetD s.chans c .initial
def State.setChan (s : State) (c : Nat) (x : Chan) : State := { s with chans := mput s.chans c x }
def State.port (s : State) (p : Nat) : Port := mgetD s.ports p .initial
def State.setPort (s : State) (p : Nat) (x : Port) : State := { s with ports := mput s.ports p x }
def State.le (s : State) (n : Nat) : LinkEng := mgetD s.les n .initial
def State.setLe (s : State) (n : Nat) (x : LinkEng) : State := { s with les := mput s.les n x }
def State.link (s : State) (k : Nat) : PcieLink := mgetD s.pcie k .initial
def State.setLink (s : State) (k : Nat) (x : PcieLink) : State := { s with pcie := mput s.pcie k x }
def State.setTick (s : State) (x : Tick) : State := { s with tick := x }
def State.setBoard (s : State) (x : Board) : State := { s with board := x }
def State.setSec (s : State) (x : Sec) : State := { s with sec := x }
def State.setFabric (s : State) (x : Fabric) : State := { s with fabric := x }
def State.setLedger (s : State) (x : Ledger) : State := { s with ledger := x }

/-- A power domain is on (R383: STATE 0b10). -/
def State.domOn (s : State) (d : Nat) : Bool := s.fld F.ENL_PWRCTL_STATE 0 d == 2

/-- The domains of the blocks (R374). -/
def clDom (n : Nat) : Nat := 7 + n
def sgDom (n : Nat) : Nat := 39 + n
def mcDom (n : Nat) : Nat := 55 + n
def leDom (n : Nat) : Nat := 71 + n / 3

/-- The block answers: it is neither in reset nor dormant nor erased for good, and no Level 3 erase runs. -/
def State.live (s : State) : Bool :=
  !s.board.inReset && !s.sec.erasing && !s.sec.haltedOff && decide (s.board.dorm ≠ .dormant)

/-! ### Masters -/

/-- The device thread's stop on the mesh (R227, R101): core c of cluster n. -/
def coreStop (t : Nat) : Nat :=
  let n := t / 16
  12 * (1 + n / 4) + 2 + 2 * (n % 4) + (if t % 16 < 8 then 0 else 1)

/-- The mesh stop ID of a master; 127 for a debug session (R227). -/
def stopOf (m : Master) : Nat :=
  match m with
  | .thread t => coreStop t.val
  | .keeper => 0
  | .cadence => 11
  | .debug => 127
  | .stop i => i.val

/-- The stop of a signal group (R227). -/
def sgStop (g : Nat) : Nat := if g < 8 then 12 * (g + 1) + 1 else 12 * (g - 7) + 10

/-- The stop of a memory channel (R227). -/
def mcStop (c : Nat) : Nat := if c < 8 then 12 * (c + 1) else 12 * (c - 7) + 11

/-! ### Control-access errors -/

/-- The causes of ERR_CTLACC_LOG (R439). -/
inductive CtlCause where
  | noRegister | reserved | locked | master | stateRule | akz32 | worn
deriving DecidableEq, Repr

def CtlCause.code (c : CtlCause) : Nat :=
  match c with
  | .noRegister => 1 | .reserved => 2 | .locked => 3 | .master => 4 | .stateRule => 5 | .akz32 => 6 | .worn => 7

/-- A control-access error at a stop is recorded (R428, R439). -/
def State.ctlErrAt (s : State) (stop : Nat) (write : Bool) (c : CtlCause) (off : Nat) : State :=
  let i := s.fld F.ERR_CTLACCHEAD_NEXT
  let e : Nat := stop + b2n write * 2 ^ 7 + c.code * 2 ^ 8 + off % 2 ^ 40 * 2 ^ 12 + s.frame.toNat % 2 ^ 12 * 2 ^ 52
  ((s.wr .ERR_CTLACC_LOG (BitVec.ofNat 64 e) 0 i).setFld F.ERR_CTLACCHEAD_NEXT ((i + 1) % 16)).bump .ERR_CTLACCCNT

/-- A control-access error of a master (R428). -/
def State.ctlErr (s : State) (m : Master) (write : Bool) (c : CtlCause) (off : Nat) : State :=
  s.ctlErrAt (stopOf m) write c off

/-- The domain that holds a window's registers is on; an off domain holds no register (R375, entry 23). -/
def State.winOn (s : State) (w : Win) (b : Nat) : Bool :=
  match w with
  | .cl => s.domOn (clDom b)
  | .sg => s.domOn (sgDom b)
  | .se => s.domOn (sgDom (b / 8))
  | .mc => s.domOn (mcDom b)
  | .le => s.domOn (leDom b)
  | _ => true

/-- A debug session is open whose scope has bit i (R458). -/
def State.scope (s : State) (i : Nat) : Bool :=
  match s.board.session with
  | some v => v.getLsbD i
  | none => false

/-- A write of a master to a register reaches it: the block answers, a debug session's scope covers writes, and the
register's domain is on. Otherwise the write is discarded and logged (R7, R458). -/
def State.ctlW (s : State) (m : Master) (r : Reg) (b i : Nat) (f : State → State) : State :=
  if !s.live then s
  else if m = .debug ∧ !s.scope 1 then s.ctlErr m true .master (r.off b i)
  else if s.winOn r.row.win b then f s
  else s.ctlErr m true .noRegister (r.off b i)

/-- A write of a master that the block answers: a debug session's scope must cover writes (R458). -/
def State.gate (s : State) (m : Master) (off : Nat) (f : State → State) : State :=
  if !s.live then s else if m = .debug ∧ !s.scope 1 then s.ctlErr m true .master off else f s

/-! ### The AKZ32 pairs (R4, R449) -/

/-- A pair as a master. -/
def akzMaster (k : Akz32) : Master := match k with | .keeper => .keeper | .cadence => .cadence

/-- The thread that a pair runs. -/
def akzTh (k : Akz32) : Nat := match k with | .keeper => 512 | .cadence => 513

/-- A pair's holding register. -/
def State.half (s : State) (k : Akz32) : Holding := match k with | .keeper => s.holdK | .cadence => s.holdC

def State.setHalf (s : State) (k : Akz32) (h : Holding) : State :=
  match k with
  | .keeper => { s with holdK := h }
  | .cadence => { s with holdC := h }

/-- The pair that a master is. -/
def pairOfMaster (m : Master) : Option Akz32 :=
  match m with
  | .keeper => some .keeper
  | .cadence => some .cadence
  | _ => none

/-! ### Interrupts -/

/-- The Keeper and Cadence threads run the AKZ32 profile (R51). -/
def akz32 (t : Nat) : Bool := decide (512 ≤ t)

/-- A CSR's stored value; FPSTAT resets to 0x100 (R90). -/
def Thread.csrv (x : Thread) (n : Nat) : Word := mgetD x.csr n (if n = 1 then 0x100 else 0)

/-- The base of a level's CSR numbers. -/
def lvlBase (h : Bool) : Nat := if h then 0x800 else 0x400

/-- XSTATUS.INTRAP. -/
def Thread.intrap (x : Thread) (h : Bool) : Bool := bitOf (x.csrv (lvlBase h)) 1

/-- The fixed priority of a vector of the Keeper or Cadence pair (R450). -/
def akz32Prio (keeper : Bool) (v : Nat) : Nat :=
  if keeper then
    match v with | 1 => 15 | 2 => 14 | 3 => 12 | 4 => 10 | 5 => 8 | 6 => 6 | 7 => 6 | 8 => 4 | _ => 0
  else match v with | 1 => 15 | 2 => 12 | 3 => 8 | _ => 0

/-- A vector is pending on a thread. -/
def State.vecPending (s : State) (t v : Nat) : Bool :=
  if t = 512 then decide (v < 64) && bitOf (s.rd .KPR_IPEND) v
  else if t = 513 then decide (v < 64) && bitOf (s.rd .CAD_IPEND) v
  else bitOf (s.rd .CL_IPEND (t / 16) (4 * (t % 16) + v / 64)) (v % 64)

/-- A vector's priority and target level. -/
def State.vecCfg (s : State) (t v : Nat) : Nat × Bool :=
  if akz32 t then (akz32Prio (t == 512) v, false)
  else (s.fld F.CL_IVCFG_PRIO (t / 16) (256 * (t % 16) + v), s.flag F.CL_IVCFG_TARGET (t / 16) (256 * (t % 16) + v))

/-- A pending vector is deliverable; ie: the IE bits are taken as 1 (R121, R125). -/
def Thread.takes (x : Thread) (ie : Bool) (prio : Nat) (toH : Bool) : Bool :=
  let lvl := getBits (x.csrv 0x420) 3 0
  decide (prio ≠ 0) &&
    (if toH then
      !x.intrap true && (decide (x.priv ≠ .h) || ((ie || bitOf (x.csrv 0x800) 0) && decide (lvl < prio)))
    else
      decide (x.priv ≠ .h) && !x.intrap false && (decide (x.priv = .u) || ie || bitOf (x.csrv 0x400) 0) && decide (lvl < prio))

/-- One selection ranks above another (R122). -/
def EntrySel.above (a b : EntrySel) : Bool :=
  if a.toH ≠ b.toH then a.toH
  else if a.prio ≠ b.prio then decide (b.prio < a.prio)
  else decide (a.vec < b.vec)

/-- The vector a thread would take first, among those of `among`. -/
def State.bestVec (s : State) (t : Nat) (ie : Bool) (among : Nat → Bool := fun _ => true) : Option EntrySel :=
  let x := s.thread t
  (List.range 256).foldl (fun b v =>
    if among v && s.vecPending t v then
      let (p, h) := s.vecCfg t v
      if x.takes ie p h then
        let e : EntrySel := ⟨v, p, h⟩
        match b with
        | none => some e
        | some o => if e.above o then some e else b
      else b
    else b) none

/-- While an entry is in its selection window, a vector that has become deliverable and ranks above the selected one takes
over: it is now the selected one, with the CL_IVCFG it has (R122, R124). -/
def State.takeover (s : State) (t : Nat) : State :=
  match mget s.entering t with
  | none => s
  | some e => match s.bestVec t false (fun v => v != e.vec) with
    | none => s
    | some o => if o.above e then { s with entering := mput s.entering t o } else s

/-- A vector becomes pending on thread h of a cluster (R120, R124). -/
def State.pendVector (s : State) (cl h v : Nat) : State :=
  (s.wr .CL_IPEND (setBit (s.rd .CL_IPEND cl (4 * h + v / 64)) (v % 64) true) cl (4 * h + v / 64)).takeover (16 * cl + h)

/-- A Keeper vector becomes pending (R450). -/
def State.keeperInt (s : State) (v : Nat) : State :=
  s.wr .KPR_IPEND (setBit (s.rd .KPR_IPEND) v true)

/-- A Cadence vector becomes pending (R450). -/
def State.cadenceInt (s : State) (v : Nat) : State :=
  s.wr .CAD_IPEND (setBit (s.rd .CAD_IPEND) v true)

/-! ### Records -/

/-- What a block reports (R425). -/
structure Event where
  kind   : Nat
  target : Nat
  sub    : Nat := 0
  sev    : Nat
  tid    : Nat := 0
  addr   : Word := 0
  detail : Nat := 0
deriving DecidableEq, Repr

/-- The record of an event at this moment (R425). -/
def State.mkRecord (s : State) (e : Event) : Record where
  kind := BitVec.ofNat 8 e.kind
  target := BitVec.ofNat 8 e.target
  sub := BitVec.ofNat 8 e.sub
  sev := BitVec.ofNat 2 e.sev
  tid := BitVec.ofNat 10 e.tid
  seq := BitVec.ofNat 16 (s.fld F.ERR_LOGHEAD_SEQ)
  addr := e.addr
  time := BitVec.ofNat 64 s.aoTime
  frame := BitVec.ofNat 32 s.frame.toNat
  detail := BitVec.ofNat 32 e.detail

/-- The record goes into the ring; the oldest is overwritten when the ring is full (R424). -/
def State.logRecord (s : State) (r : Record) : State :=
  let i := s.fld F.ERR_LOGHEAD_NEXT
  let q := s.fld F.ERR_LOGHEAD_SEQ
  let s1 : State := if (mget s.ring i).isSome then s.bump .ERR_LOGOVFCNT else s
  let s2 : State := { s1 with ring := mput s1.ring i r }
  (s2.setFld F.ERR_LOGHEAD_NEXT ((i + 1) % 4096)).setFld F.ERR_LOGHEAD_SEQ ((q + 1) % 65536)

/-- A record is delivered (R427, R450, R454): Keeper; the notified thread; for KIND 0x18 the Cadence cores and
Keeper's Cadence vector; an in-band interrupt on the management bus for SEV 2 or more. -/
def State.notifyRecord (s : State) (r : Record) : State :=
  let s := s.keeperInt 3
  let t := s.fld F.ERR_NOTIFY_THREAD
  let s : State :=
    if s.flag F.ERR_NOTIFY_EN && decide (s.fld F.ERR_NOTIFY_MINSEV ≤ r.sev.toNat) then
      s.pendVector (t / 16) (t % 16) (s.fld F.ERR_NOTIFY_VECTOR)
    else s
  let s : State := if r.kind = 0x18 then (s.cadenceInt 2).keeperInt 4 else s
  if 2 ≤ r.sev.toNat then s.emit .inBand else s

/-- A RAS event: its record is written and delivered (R424, R427). -/
def State.record (s : State) (e : Event) : State :=
  let r := s.mkRecord e
  (s.logRecord r).notifyRecord r

/-- Hardware sets an RW1C bit of CAD_STAT; a change from 0 to 1 raises the Cadence event (the text before R45). -/
def State.cadEvent (s : State) (f : Fld) : State :=
  if s.flag f then s
  else (s.setFld f 1).record { kind := 0x18, target := 154, sev := 0, detail := f.lo }

/-! ### Keep words -/

/-- What a Keep word holds when the part leaves manufacture (R35, R326, R406, R407, R436, R463; the rest entry 3). -/
def keepDefault (w : Nat) : BitVec 32 :=
  match w with
  | 0 => 0x302
  | 1 => 0x102
  | 2 => 0x10_0002
  | 3 => 0x2FAC
  | 4 => 0x8_03E8
  | _ => 0

/-- A Keep word (R402). -/
def State.keepRd (s : State) (w : Nat) : BitVec 32 := mgetD s.keep w (keepDefault w)

/-- Bits [hi:lo] of a Keep word. -/
def State.keepFld (s : State) (w hi lo : Nat) : Nat := getBits ((s.keepRd w).setWidth 64) hi lo

/-- How many writes end a Keep word's life (R403). -/
def keepLife : Nat := 1000000

/-- Accepted writes of a Keep word (R403, R408). -/
def State.keepCount (s : State) (w : Nat) : Nat := (mgetD s.kwcnt w 0).toNat

/-- A Keep word is worn (R403). -/
def State.keepWorn (s : State) (w : Nat) : Bool := decide (keepLife ≤ s.keepCount w)

/-! ### Injected errors (R421) -/

/-- The key of an array word in State.errs. -/
def errKey (target sub i : Nat) : Nat := target * 2 ^ 40 + sub * 2 ^ 32 + i

/-- A word of an array is written: what was wrong in it is gone, and an armed injection corrupts it (R421). HALF and bit 8 of
CHECK are for microwords, whose targets are 112 to 147 (R413, R439). -/
def State.arrWrite (s : State) (target sub i : Nat) : State :=
  let s : State := { s with errs := merase s.errs (errKey target sub i) }
  if s.flag F.ERR_FLIPMASK_ARM 0 target && s.fld F.ERR_FLIPMASK_SUB 0 target == sub then
    let d := s.rd .ERR_FLIPDATA 0 target
    let micro : Bool := decide (112 ≤ target ∧ target < 148)
    let hi := s.flag F.ERR_FLIPMASK_HALF 0 target && micro
    let check := s.fld F.ERR_FLIPMASK_CHECK 0 target % (if micro then 512 else 256)
    let e : ArrErr := { data := if hi then 0 else d, dataHi := if hi then d else 0, check := BitVec.ofNat 9 check }
    let s := s.setFld F.ERR_FLIPMASK_ARM 0 0 target
    { s with errs := mput s.errs (errKey target sub i) e }
  else s

/-- How many bits of a stored word are wrong. -/
def ArrErr.bits (e : ArrErr) : Nat :=
  popcount 64 e.data.toNat + popcount 64 e.dataHi.toNat + popcount 9 e.check.toNat

/-- What the code of R414 makes of a stored word. -/
inductive ArrRead where
  | clean | corrected | uncorrectable | beyond
deriving DecidableEq, Repr

/-- The outcome of reading a word of an array: one wrong bit is corrected, two are uncorrectable, more are beyond the
code (R414). -/
def State.arrRead (s : State) (target sub i : Nat) : ArrRead :=
  match mget s.errs (errKey target sub i) with
  | none => .clean
  | some e => match e.bits with
    | 0 => .clean
    | 1 => .corrected
    | 2 => .uncorrectable
    | _ => .beyond

/-- The outcome as the part settles it: a word with three or more wrong bits is detected or miscorrected, which the manual
leaves open; a free bit decides (R414, entry 30). `beyond` is what is left: a miscorrected word. -/
def State.arrJudge (s : State) (target sub i : Nat) : ArrRead × State :=
  match s.arrRead target sub i with
  | .beyond =>
    let (w, s) := s.draw
    (if w.getLsbD 0 then .uncorrectable else .beyond, s)
  | r => (r, s)

/-- The correction of a single-bit error: written back, which counts as a write to the array,
and recorded (R414, R421, R426 KIND 0x01). The syndrome is left open
by the manual: a free value (entry 6). -/
def State.arrCorrect (s : State) (target sub i tid : Nat) : State :=
  let (w, s) := s.draw
  (s.arrWrite target sub i).record
    { kind := 0x01, target := target, sub := sub, sev := 1, tid := tid, addr := BitVec.ofNat 64 i,
      detail := w.toNat % 2 ^ 32 }

/-- An uncorrectable word is recorded: KIND 0x02 where it is fetched again, 0x03 where it is poisoned (R415). -/
def State.arrUncorr (s : State) (kind target sub i tid : Nat) : State :=
  let (w, s) := s.draw
  ({ s with errs := merase s.errs (errKey target sub i) }).record
    { kind := kind, target := target, sub := sub, sev := if kind = 0x02 then 1 else 2, tid := tid,
      addr := BitVec.ofNat 64 i, detail := w.toNat % 2 ^ 32 }

/-- An accepted write to a Keep word: the value reads back at once, the write is queued for the array, the count rises, and
the write that brings it to 1,000,000 raises a RAS event (R402, R403). The shadow word is written (R413). -/
def State.keepPut (s : State) (w : Nat) (v : BitVec 32) : State :=
  let n := s.keepCount w + 1
  let s1 : State := { s with keep := mset s.keep w v (keepDefault w),
                             kwcnt := mset s.kwcnt w (BitVec.ofNat 20 n) 0,
                             keepQ := s.keepQ ++ [(w, s.keepRd w)] }
  let s1 := s1.arrWrite 151 0 w
  if n = keepLife then
    s1.record { kind := 0x12, target := 151, sev := 1, addr := BitVec.ofNat 64 w }
  else s1

/-- A Keep word is read: a shadow word in error is read again from the array and corrected (R402, R415). -/
def State.keepSee (s : State) (w : Nat) : BitVec 32 × State :=
  (s.keepRd w, match s.arrJudge 151 0 w with
    | (.corrected, s) => s.arrCorrect 151 0 w 0
    | (.uncorrectable, s) => s.arrCorrect 151 0 w 0
    | (_, s) => s)

/-- VAO is lost: each queued write to a Keep word either stands or is undone, with its count; the writes reach the array in
order, and how many have reached it is open (R404). -/
def State.keepLost (s : State) : State :=
  if s.keepQ.isEmpty then s
  else
    let (w, s) := s.draw
    let gone := (s.keepQ.drop (w.toNat % (s.keepQ.length + 1))).reverse
    let s := gone.foldl (fun (s : State) e =>
      { s with keep := mset s.keep e.1 e.2 (keepDefault e.1),
               kwcnt := mset s.kwcnt e.1 (BitVec.ofNat 20 (s.keepCount e.1 - 1)) 0 }) s
    { s with keepQ := [] }

/-! ### Access to no memory -/

/-- The global address of a local one (R135), which is what a record names (R425). -/
def State.globalOf (s : State) (a : Nat) : Word := BitVec.ofNat 64 (s.fld F.MAP_NODE_NODEID * 2 ^ 52 + a)

/-- An access to no memory is counted and logged (R218, R426 KIND 0x07). -/
def State.noMemory (s : State) (tid : Nat) (a : Word) : State :=
  (s.bump .MAP_NOMEMCNT).record { kind := 0x07, target := 154, sev := 0, tid := tid, addr := a }

end Sys2Proof.Machine
end

