-- ==== Sys2Proof/Machine/Reset.lean ====
section
/-! DEFINITION. What a domain loses when it is reset or switched off, and the kinds of start (R374, R375, R441). -/
namespace Sys2Proof.Machine

/-- Registers of window offsets lo to hi - 1 return to their reset values. -/
def State.resetWin (s : State) (lo hi : Nat) : State := s.resetRegs (fun o => decide (lo ≤ o ∧ o < hi))

/-- The key slot number of memory channel c and of host controller h. -/
def mcSlot (c : Nat) : Nat := c
def hcSlot (h : Nat) : Nat := 16 + h

/-- A key slot's domain is switched off: every key in it is lost (R386, R391). -/
def State.loseSlot (s : State) (k : Nat) : State :=
  s.setSec { s.sec with slots := mkeep s.sec.slots (fun i => i / 1024 != k) }

/-- The key engine loads the TID 0 key into a slot (R386). -/
def State.loadTid0 (s : State) (k : Nat) : State :=
  match s.sec.kwk with
  | none => s
  | some w => s.setSec { s.sec with slots := mput s.sec.slots (k * 1024) (Config.kdfTid0 w) }

/-- Every entry of a domain's blocks with numbers lo to hi - 1 goes. -/
def dropRange {α : Type} (m : SMap α) (lo hi : Nat) : SMap α := mkeep m (fun i => !decide (lo ≤ i ∧ i < hi))

/-- The TIO pins that a group drives go to high impedance (R475). -/
def State.releaseTio (s : State) (g : Nat) : State :=
  s.setBoard { s.board with tioOut := s.board.tioOut &&& ~~~((s.rd .SG_TIODRV g).setWidth 16) }

/-- A channel loses what its controller holds; the DRAM keeps its superlines (R379). -/
def Chan.powerOff (c : Chan) : Chan := { Chan.initial with sl := c.sl }

/-- A domain loses all its state, or is reset (R374, R375). -/
def State.loseDomain (s : State) (d : Nat) : State :=
  if d = 0 then
    { s with ring := [], sec := { Sec.initial 0 with kwk := none, slots := [] }, ledger := .initial,
             dirty := [], board := { s.board with cache := false } }
      |>.resetWin 0x0200_0000 0x0500_0000
  else if d = 1 then
    { s with kram := [], holdK := .empty,
             sec := { s.sec with trngWait := s.sec.trngWait.filter (fun e => decide (e.1 ≠ Master.keeper)) }, threads := merase s.threads 512,
             errs := mkeep s.errs (fun i => i / 2 ^ 40 != 148),
             board := { s.board with session := none, keepWait := [] } }
      |>.resetRegs (fun o => decide (o < 0x400) && decide (o ≠ 0x50))
  else if d = 2 then
    { s with cram := [], holdC := .empty,
             sec := { s.sec with trngWait := s.sec.trngWait.filter (fun e => decide (e.1 ≠ Master.cadence)) }, threads := merase s.threads 513, was := [], wasBad := [], cur := [], nxt := [], wflag := [],
             curBad := [], scrubbed := [], tick := .initial, board := { s.board with cadFail := false }, errs := mkeep s.errs (fun i => i / 2 ^ 40 != 149 && i / 2 ^ 40 != 150) }
      |>.resetWin 0x0100_0000 0x0200_0000
  else if d < 7 then
    let s : State := s.loseSlot (hcSlot (d - 3))
    if d = 3 then ({ s with fabric := .initial }).resetWin 0x0500_0000 0x0600_0000 else s
  else if d < 39 then
    let n := d - 7
    { s with threads := dropRange s.threads (16 * n) (16 * n + 16), entering := dropRange s.entering (16 * n) (16 * n + 16), cores := dropRange s.cores (8 * n) (8 * n + 8),
             llc := dropRange s.llc (384 * 8 * n) (384 * 8 * (n + 1)),
             dir := dropRange s.dir (4096 * 8 * n) (4096 * 8 * (n + 1)),
             board := { s.board with sliceBad := s.board.sliceBad.filter (fun p => p / 8 != n) },
             errs := mkeep s.errs (fun i => i / 2 ^ 40 != 32 + n && i / 2 ^ 40 != 64 + n) }
      |>.resetWin (Win.cl.base n) (Win.cl.base (n + 1))
  else if d < 55 then
    let n := d - 39
    let s := s.releaseTio n
    { s with engines := dropRange s.engines (8 * n) (8 * n + 8), groups := merase s.groups n,
             errs := mkeep s.errs (fun i => i / 2 ^ 40 != 96 + n) }
      |>.resetWin (Win.sg.base n) (Win.sg.base (n + 1))
  else if d < 71 then
    let n := d - 55
    let s := s.loseSlot (mcSlot n)
    (s.setChan n (s.chan n).powerOff).resetWin (Win.mc.base n) (Win.mc.base (n + 1))
  else
    let n := d - 71
    { s with ports := dropRange s.ports (12 * n) (12 * n + 12), les := dropRange s.les (3 * n) (3 * n + 3),
             pcie := mkeep s.pcie (fun k => !decide (12 * n < 8 * k + 8 ∧ 8 * k < 12 * n + 12)),
             errs := mkeep s.errs (fun i => !decide (112 + 3 * n ≤ i / 2 ^ 40 ∧ i / 2 ^ 40 < 115 + 3 * n)) }
      |>.resetWin (Win.le.base (3 * n)) (Win.le.base (3 * n + 3))

/-- Injections armed at the targets of a domain that powers off are disarmed (R423). -/
def State.disarm (s : State) (n : Nat) : State :=
  if s.flag F.ERR_FLIPMASK_ARM 0 n then s.setFld F.ERR_FLIPMASK_ARM 0 0 n else s

/-- The targets of a domain's arrays (R413). -/
def targetsOf (d : Nat) : List Nat :=
  if d = 1 then [148] else if d = 2 then [149, 150] else if d < 7 then []
  else if d < 39 then [32 + (d - 7), 64 + (d - 7)]
  else if d < 55 then [96 + (d - 39)]
  else if d < 71 then [d - 55, 16 + (d - 55)]
  else [112 + 3 * (d - 71), 113 + 3 * (d - 71), 114 + 3 * (d - 71)]

/-- A domain goes off (R374, R375, R423). -/
def State.domainOff (s : State) (d : Nat) : State :=
  ((targetsOf d).foldl State.disarm s).loseDomain d |>.setFld F.ENL_PWRCTL_STATE 0 0 d

/-- The kinds of start (R441), as Keeper firmware reads them in g1. -/
inductive StartKind where
  | cold | device | level3 | dormantWake | live | lockstep
deriving DecidableEq, Repr

def StartKind.code (k : StartKind) : Nat :=
  match k with
  | .cold => 0 | .device => 1 | .level3 => 2 | .dormantWake => 3 | .live => 4 | .lockstep => 5

/-- KP, CD and the mesh quadrants are on at a start of the whole device; every other domain is off (R445). -/
def State.domainsAtStart (s : State) : State :=
  (s.resetRegs (fun o => decide (0x0200_0100 ≤ o ∧ o < 0x0200_0398)))

/-- Every domain but AO is reset (R441); the boot lock point ends for what they hold (R447). -/
def State.resetAllButAo (s : State) : State :=
  let s := ((List.range 82).foldl (fun s d => s.loseDomain (d + 1)) s).domainsAtStart
  let s := s.setBoard { s.board with locked := false, i3cOnly := false, session := none, dorm := .awake,
                                     wakePend := false, romReady := false, entry := false, dirScan := [] }
  { s with pcie := [] }

/-- The TID 0 keys are loaded into the slots whose domains are on at a start (R386). -/
def State.loadTid0AtStart (s : State) : State :=
  [16, 17, 18, 19].foldl State.loadTid0 s

/-- The device is put into reset, its next start being of a kind (R441, R442). -/
def State.enterReset (s : State) (k : StartKind) : State :=
  let s := s.resetAllButAo
  s.setBoard { s.board with inReset := true, kind := k.code }

/-- Keeper ROM is about to run (R442, R443): the TID 0 keys are in place, and REFCLK_A is in use where it runs (R472). -/
def State.beginStart (s : State) : State :=
  let s := s.loadTid0AtStart
  let s := s.setFld F.KPR_SUPSTAT_REFSEL (if s.flag F.KPR_SUPSTAT_REFA_OK then 0 else if s.flag F.KPR_SUPSTAT_REFB_OK then 1 else s.fld F.KPR_SUPSTAT_REFSEL)
  s.setBoard { s.board with inReset := false, romReady := true }

/-- The device may leave reset: PWRGOOD and RESET_N are high, the rails are in range (R442, R469), and a reference clock runs
(R472). -/
def State.mayStart (s : State) : Bool :=
  s.board.inReset && s.board.pwrgood && s.board.resetN && !s.sec.erasing && !s.sec.haltedOff && !s.board.railDown &&
    (s.flag F.KPR_SUPSTAT_REFA_OK || s.flag F.KPR_SUPSTAT_REFB_OK)

/-- The device leaves reset where it may. -/
def State.tryStart (s : State) : State := if s.mayStart then s.beginStart else s

/-- The key engine derives KWK, or draws it from the TRNG while the key epoch's word is worn (R387, R388). -/
def State.deriveKwk (s : State) : State :=
  if s.keepWorn 6 then
    let (a, s) := s.trng64
    let (b, s) := s.trng64
    let (c, s) := s.trng64
    let (d, s) := s.trng64
    (s.setSec { s.sec with kwk := some (a ++ b ++ c ++ d) }).setFld F.THS_STAT_EPOCHWORN 1
  else s.setSec { s.sec with kwk := some (Config.kdfKwk (s.keepRd 6)) }

/-- AO is lost and comes back: every volatile thing of it is at reset, KWK is derived anew, or drawn from the TRNG
while the key epoch's word is worn (R387, R388, R441, R447). -/
def State.coldReset (s : State) : State :=
  let s := (s.keepLost.loseDomain 0).resetAllButAo
  let s := s.resetRegs (fun o => decide (o = 0x50))
  let s : State := { s with aoTime := 0 }
  let s := s.setBoard { s.board with inReset := true, kind := 0, cache := false, lockedAo := false, railDown := false, meshOut := 0 }
  s.deriveKwk

end Sys2Proof.Machine
end

