-- ==== Sys2Proof/Machine/Energy.lean ====
section
/-! DEFINITION. The energy ledger, the device limits, performance levels and power domains (R357 to R375). -/
namespace Sys2Proof.Machine

/-! ### Plan words in force -/

/-- A word of the current plan bank, by its offset in the Cadence window (R36). -/
def State.planWord (s : State) (o : Nat) : Word := mgetD (if s.tick.effectDue then s.was else s.cur) (o / 8) 0

/-- A word of the current bank is uncorrectable (R417). -/
def State.planBad (s : State) (o : Nat) : Bool := (mget (if s.tick.effectDue then s.wasBad else s.curBad) (o / 8)).isSome

/-! ### Metering -/

/-- KPR_ENCAL[k].COEF, Keep word 128 + k (R385). -/
def State.coef (s : State) (k : Nat) : Nat := s.keepFld (128 + k) 23 0

/-- Whether an event class is scaled by the square of the cluster's voltage (R357). -/
def classV (k : Nat) : Bool := decide (k ≤ 4) || decide (k = 16)

/-- The ledger counts energy in units of 2^-22 × 10^-4 nJ, in which FACTOR / 4,096 × COEF × s × n × 2^-10 is whole. -/
def enUnit : Nat := 2 ^ 22 * 10000

/-- The energy of n events of class k, in those units; s belongs to a performance level (R357, R370). -/
def State.energyOf (s : State) (k n level : Nat) : Nat :=
  s.fld F.ENL_CALFACT_FACTOR * s.coef k * (if classV k then Config.voltSq level else 10000) * n

/-- Activity is charged to a TID, and to its C0 part where it is C0 work (R358, R363). -/
def State.charge (s : State) (tid k n : Nat) (c0 : Bool) (level : Nat := 0) : State :=
  let e := s.energyOf k n level
  if e = 0 then s
  else if c0 then s.setLedger { s.ledger with c0act := mput s.ledger.c0act tid (mgetD s.ledger.c0act tid 0 + e) }
  else s.setLedger { s.ledger with act := mput s.ledger.act tid (mgetD s.ledger.act tid 0 + e) }

/-- Events of an energy class that belong to an engine's job: its metered energy while it runs (R366), otherwise the TID's. -/
def State.chargeJob (s : State) (e tid k n : Nat) (c0 : Bool) : State :=
  if c0 then s.charge tid k n true
  else
    let x := s.engine e
    match x.job with
    | some j => s.setEngine e { x with job := some { j with used := j.used + s.energyOf k n 0 } }
    | none => s.charge tid k n false

/-- Events that a request brings about (R358): a signal engine's belong to its job. -/
def State.chargeSrc (s : State) (src : ReqSrc) (tid k n : Nat) (c0 : Bool) : State :=
  match src with
  | .dma e _ => s.chargeJob e.val tid k n c0
  | .engineCache e => s.chargeJob e.val tid k n c0
  | _ => s.charge tid k n c0

/-- The energy of an activity that a ledger command reports. -/
def State.chargeActivity (s : State) (a : Activity) : State :=
  s.charge a.tid.val a.cls.val a.count a.c0 a.level.val

/-! ### Accounts -/

/-- The balance of a TID in nJ (R361). -/
def State.balance (s : State) (t : Nat) : Int := sexNat 40 (s.fld F.ENL_ACCT_BALANCE 0 t)

/-- Set a balance; a result beyond 40 bits saturates and sets SAT (R361). -/
def State.setBalance (s : State) (t : Nat) (x : Int) : State :=
  if x < -(2 ^ 39) then (s.setFld F.ENL_ACCT_BALANCE (2 ^ 39) 0 t).setFld F.ENL_ACCT_SAT 1 0 t
  else if 2 ^ 39 - 1 < x then (s.setFld F.ENL_ACCT_BALANCE (2 ^ 39 - 1) 0 t).setFld F.ENL_ACCT_SAT 1 0 t
  else s.setFld F.ENL_ACCT_BALANCE (encInt 40 x) 0 t

/-- The device gate (R369) or the frame cap (R368) applies. -/
def State.deviceGate (s : State) : Bool := s.flag F.ENL_STAT_GATE || s.ledger.capNow

/-- An account counts as negative (R365): during a device gate every one but TID 0's; TID 0's never. -/
def State.negative (s : State) (t : Nat) : Bool :=
  decide (t ≠ 0) && (s.deviceGate || decide (s.balance t < 0))

/-- Debit whole nJ of a TID: C0 energy first from its reserve (R363). What a job held comes back at once (R366). -/
def State.debit (s : State) (t : Nat) (c0 : Bool) (nj : Nat) (held : Nat := 0) : State :=
  let l := s.ledger
  let s := s.setLedger { l with used := mput l.used t (mgetD l.used t 0 + nj), frame := l.frame + nj,
                                window := l.window + nj, posted := l.posted + nj }
  if c0 then
    let res := s.fld F.ENL_C0RES_RES 0 t
    let s := s.setFld F.ENL_C0RES_RES (res - nj) 0 t
    if res < nj then s.setBalance t (s.balance t - ((nj - res : Nat) : Int)) else s
  else s.setBalance t (s.balance t + (held : Int) - (nj : Int))

/-- Post an amount of a TID: whole nJ are debited, the rest is carried (R359). -/
def State.postOne (s : State) (c0 : Bool) (e : Nat × Nat) : State :=
  let l := s.ledger
  let sum := e.2 + (if c0 then mgetD l.c0rem e.1 0 else mgetD l.rem e.1 0)
  let s := s.setLedger (if c0 then { l with c0rem := mput l.c0rem e.1 (sum % enUnit) }
                        else { l with rem := mput l.rem e.1 (sum % enUnit) })
  if sum / enUnit = 0 then s else s.debit e.1 c0 (sum / enUnit)

/-- The limits of ENL_DEVCFG (R367). -/
def State.psust (s : State) : Nat := s.fld F.ENL_DEVCFG_PSUST
def State.pexc (s : State) : Nat := s.fld F.ENL_DEVCFG_PEXC
def State.dcap (s : State) : Nat := (s.pexc - s.psust) * s.fld F.ENL_DEVCFG_XMS * 10 ^ 6

/-- The frame cap: the device energy posted since the tick has reached PEXC × TF × 10 nJ (R368). -/
def State.frameCap (s : State) : State :=
  if s.pexc * s.tf * 10 ≤ s.ledger.posted then
    (s.setLedger { s.ledger with capNow := true }).setFld F.ENL_STAT_FRAMECAP 1
  else s

/-- Balances written to ENL_ACCTSET apply (R361). -/
def State.applySets (s : State) : State :=
  let sets := s.ledger.sets
  sets.foldl (fun s e => s.setFld F.ENL_ACCT_BALANCE e.2.toNat 0 e.1) (s.setLedger { s.ledger with sets := [] })

/-- The activity since the last posting is debited (R359): balances that were set apply first (entry 22). -/
def State.postActs (s : State) : State :=
  let s := s.applySets
  let a := s.ledger.act
  let c := s.ledger.c0act
  let s := s.setLedger { s.ledger with act := [], c0act := [] }
  let s := c.foldl (fun s e => s.postOne true e) s
  a.foldl (fun s e => s.postOne false e) s

/-- A posting within a frame (R359), which may bring on the frame cap (R368). -/
def State.post (s : State) : State := s.postActs.frameCap

/-- LEDGER_POSTING (R359, R363, R368). -/
def execLedgerPosting (acts : List Activity) (s : State) : Host.Outcome State Fault Refusal :=
  .next (acts.foldl State.chargeActivity s).post

/-- Amounts by TID, added up. -/
def addActs (m : SMap Nat) (l : SMap Nat) : SMap Nat :=
  l.foldl (fun m e => mput m e.1 (mgetD m e.1 0 + e.2)) m

/-- What a local tick does to the ledger: the frame of T_f `tf` ends, with the activity up to the tick (R359), and so does
the frame cap (R368). -/
def State.ledgerTick (s : State) (tf : Option Nat) : State :=
  let l := s.ledger
  let e := l.ended.getD { tf := none, used := [], energy := 0, act := [], c0act := [] }
  s.setLedger { l with ended := some { tf, used := addActs e.used l.used, energy := e.energy + l.frame,
                                       act := addActs e.act l.act, c0act := addActs e.c0act l.c0act },
                       act := [], c0act := [], used := [], frame := 0, posted := 0, capNow := false }

/-- The target level of a cluster: max(REQ, CAP, G) (R371). -/
def State.levelTarget (s : State) (cl : Nat) : Nat :=
  max (max (s.fld F.ENL_PLVL_REQ 0 cl) (s.fld F.ENL_PLVL_CAP 0 cl)) (s.fld F.ENL_STAT_NOP0)

/-- A cluster whose target differs from its level starts to move (R372): to a faster level the voltage rises first; to
a slower one the clock switches first. -/
def State.levelStart (s : State) (cl : Nat) : State :=
  let t := s.levelTarget cl
  let c := s.fld F.ENL_PLVL_CUR 0 cl
  if s.flag F.ENL_PLVL_BUSY 0 cl || decide (t = c) then s
  else
    let s := (s.setFld F.ENL_PLVL_BUSY 1 0 cl).setLedger { s.ledger with ramp := mput s.ledger.ramp cl t }
    if c < t then s.setFld F.ENL_PLVL_CUR t 0 cl else s

/-- Every cluster follows its target (R371, R373). -/
def State.levelsStart (s : State) : State := (List.range 32).foldl State.levelStart s

/-- The device account after the close of a frame of T_f `tf` and energy `ef` (R367), the gate (R369) and G (R371). -/
def State.deviceClose (s : State) (tf ef : Nat) : State :=
  let cap : Int := s.dcap
  let d : Int := min cap (sexNat 40 (s.fld F.ENL_DEVACCT_D) + (s.psust * tf * 10 : Nat) - (ef : Int))
  let d : Int := max d (-(2 ^ 39))
  let s := s.setFld F.ENL_DEVACCT_D (encInt 40 d)
  let s : State :=
    if d ≤ 0 ∧ ¬ s.flag F.ENL_STAT_GATE then
      ((s.setFld F.ENL_STAT_GATE 1).bump .ENL_GATECNT).record { kind := 0x13, target := 154, sev := 1, detail := 1 }
    else if cap ≤ 8 * d then s.setFld F.ENL_STAT_GATE 0
    else s
  let g := s.flag F.ENL_STAT_GATE || decide (4 * d < cap)
  (s.setFld F.ENL_STAT_NOP0 (b2n g)).levelsStart

/-- The grants of the new frame are credited; C0RES replaces what was left, but an uncorrectable entry grants nothing
and leaves the reserve (R362, R417). -/
def State.grantAll (s : State) : State :=
  (List.range 1024).foldl (fun s t =>
    let o := 0x40_0000 + 8 * t
    if s.planBad o then s
    else
      let w := s.planWord o
      let s : State := if getBits w 31 0 = 0 then s else s.setBalance t (s.balance t + (getBits w 31 0 : Nat))
      s.setFld F.ENL_C0RES_RES (getBits w 63 32) 0 t) s

/-- The record of the frame before closes into ENL_USED and ENL_FRAMEEN (R359 step 2), and the device account follows. -/
def State.closeRecord (s : State) (tf energy : Nat) (used : SMap Nat) : State :=
  let closing := s.frame - 1
  let s := s.wr .ENL_FRAMEEN (BitVec.ofNat 64 (energy % 2 ^ 40))
  let s := s.setLedger { s.ledger with closed := some closing, usedLast := used, recalDue := decide (closing.toNat % 1024 = 0) || s.ledger.recalDue }
  let s : State := if closing.toNat % 1024 = 0 then s.setLedger { s.ledger with metered := s.ledger.window, window := 0 } else s
  s.deviceClose tf energy

/-- LEDGER_CLOSE (R359, R361, R367 to R369): the tail of the frame before is debited, its record closes, and the grants
of the new frame are credited; the tail is energy posted since the tick. The first tick ends no frame, so only its grants are credited (entry 22). -/
def execLedgerClose (acts : List Activity) (s : State) : Host.Outcome State Fault Refusal :=
  .next <|
    match s.ledger.ended with
    | none => s
    | some f =>
      let now := s.ledger
      let s := s.setLedger { now with act := f.act, c0act := f.c0act, used := f.used, frame := f.energy, ended := none }
      let s := (acts.foldl State.chargeActivity s).postActs
      let l := s.ledger
      let s := s.setLedger { l with act := now.act, c0act := now.c0act, used := now.used, frame := now.frame }
      let s := match f.tf with
        | none => s
        | some tf => s.closeRecord tf l.frame l.used
      s.grantAll.frameCap

/-- What ENL_USED[t] shows: the energy of the last closed frame and its number (R383). -/
def State.usedWord (s : State) (t : Nat) : Word :=
  match s.ledger.closed with
  | none => 0
  | some f => BitVec.ofNat 64 (mgetD s.ledger.usedLast t 0 % 2 ^ 40 + f.toNat % 2 ^ 16 * 2 ^ 48)

/-- RECALIBRATION (R360): FACTOR × sensed / metered to the nearest integer, within 64 of the old value and within 3,584
to 4,608. A tie, and a window without metered energy, leave the value open (entry 6). -/
def execRecalibration (sensed : Nat) (s : State) : Host.Outcome State Fault Refusal :=
  .next <|
    if !s.ledger.recalDue then s
    else
      let m := s.ledger.metered
      let f := s.fld F.ENL_CALFACT_FACTOR
      let (w, s) := s.draw
      let q : Nat := if m = 0 then w.toNat
        else f * sensed / m + (if 2 * (f * sensed % m) > m then 1
                               else if 2 * (f * sensed % m) = m then w.toNat % 2 else 0)
      let q := min (max q (f - 64)) (f + 64)
      let r := min (max q 3584) 4608
      let s := s.setLedger { s.ledger with recalDue := false }
      let s := s.setFld F.ENL_CALFACT_FACTOR r
      if r = q then s
      else (s.setFld F.ENL_STAT_CALOOR 1).record { kind := 0x13, target := 154, sev := 0, detail := 2 }

/-- A write to ENL_ACCTSET: Keeper and Cadence only (R361). -/
def State.actAcctSet (s : State) (m : Master) (v : Word) : State :=
  if m = .keeper ∨ m = .cadence then
    s.setLedger { s.ledger with sets := s.ledger.sets ++ [(F.ENL_ACCTSET_TID.of v, BitVec.ofNat 40 (F.ENL_ACCTSET_VALUE.of v))] }
  else s.ctlErr m true .master (Reg.ENL_ACCTSET.off 0 0)

/-- SET_BALANCE (R361). -/
def execSetBalance (m : Master) (v : Word) (s : State) : Host.Outcome State Fault Refusal :=
  .next (s.ctlW m .ENL_ACCTSET 0 0 (fun s => s.actAcctSet m v))

/-- A write to ENL_PLVL: REQ 6 and 7 are reserved (R371, R383). -/
def State.actPlvl (s : State) (m : Master) (cl : Nat) (v : Word) : State :=
  let r := F.ENL_PLVL_REQ.of v
  if 5 < r then s.ctlErr m true .reserved (Reg.ENL_PLVL.off 0 cl)
  else (s.setFld F.ENL_PLVL_REQ r 0 cl).levelStart cl

/-- PERFORMANCE_LEVEL_REQUEST (R371). -/
def execPerformanceLevelRequest (m : Master) (cl : Fin 32) (v : Word) (s : State) : Host.Outcome State Fault Refusal :=
  .next (s.ctlW m .ENL_PLVL 0 cl.val (fun s => s.actPlvl m cl.val v))

/-- VOLTAGE_RAMP_DONE (R372): toward a faster level the clock now switches. -/
def execVoltageRampDone (cl : Fin 32) (s : State) : Host.Outcome State Fault Refusal :=
  .next <|
    match mget s.ledger.ramp cl.val with
    | none => s
    | some t => (s.setLedger { s.ledger with ramp := merase s.ledger.ramp cl.val }).setFld F.ENL_PLVL_CUR t 0 cl.val

/-- LEVEL_TRANSITION_DONE (R372, R373): a newer target starts. -/
def execLevelTransitionDone (cl : Fin 32) (s : State) : Host.Outcome State Fault Refusal :=
  .next <|
    if s.flag F.ENL_PLVL_BUSY 0 cl.val && (mget s.ledger.ramp cl.val).isNone then
      (s.setFld F.ENL_PLVL_BUSY 0 0 cl.val).levelStart cl.val
    else s

/-- The caps of the plan in force, from 20 ns after the tick (R371). An uncorrectable entry leaves the cap. -/
def State.applyCaps (s : State) : State :=
  ((List.range 32).foldl (fun s n =>
    let o := 0x40_2000 + 8 * n
    if s.planBad o then s else s.setFld F.ENL_PLVL_CAP (getBits (s.planWord o) 2 0) 0 n) s).levelsStart

/-! ### Power domains -/

/-- Whether the last column of R374 lets software switch a domain off. -/
def State.mayOff (s : State) (d : Nat) : Bool :=
  if d < 7 then false
  else if d < 39 then
    let n := d - 7
    !bitOf (s.rd .MAP_INSVCA) n &&
      (List.range 256).all (fun l => decide (s.fld F.MAP_SLICE_CUR 0 l / 8 ≠ n ∧ s.fld F.MAP_SLICE_TARGET 0 l / 8 ≠ n))
  else if d < 55 then !bitOf (s.rd .MAP_INSVCA) (32 + (d - 39))
  else if d < 71 then
    let n := d - 55
    !s.flag F.MC_STAT_INSVC n &&
      (List.range 16).all (fun r => !(s.flag F.MAP_RCFG_V 0 r && !s.flag F.MAP_RCFG_TGT 0 r
        && (s.fld F.MAP_RCFG_MASK 0 r).testBit n))
  else
    let n := d - 71
    (List.range 12).all (fun i =>
      let p := 12 * n + i
      !bitOf (s.rd .MAP_INSVCP 0 (p / 64)) (p % 64) && decide (s.fld F.LE_PORTCFG_EN (p / 4) (p % 4) = 0)
        && !(decide (p < 64) && (decide (s.fld F.LE_PCIECFG_MODE (2 * (p / 8)) ≠ 0)
          || (decide (p / 8 % 2 = 1) && s.flag F.LE_PCIECFG_X16 (2 * (p / 8 - 1))
              && decide (s.fld F.LE_PCIECFG_MODE (2 * (p / 8 - 1)) ≠ 0)))))

/-- A write of ENL_PWRCTL[d].ON (R374, R375): during powering or powering-off it takes effect when that state ends. -/
def State.actPwr (s : State) (m : Master) (d : Nat) (on : Bool) : State :=
  let st := s.fld F.ENL_PWRCTL_STATE 0 d
  if !on && decide (st ≠ 0) && !s.mayOff d then s.ctlErr m true .stateRule (Reg.ENL_PWRCTL.off 0 d)
  else
    let s := s.setFld F.ENL_PWRCTL_ON (b2n on) 0 d
    if on && decide (st = 0) then s.setFld F.ENL_PWRCTL_STATE 1 0 d
    else if !on && decide (st = 2) then s.setFld F.ENL_PWRCTL_STATE 3 0 d
    else s

/-- POWER_DOMAIN_ON (R375). -/
def execPowerDomainOn (m : Master) (d : Fin 83) (s : State) : Host.Outcome State Fault Refusal :=
  .next (s.ctlW m .ENL_PWRCTL 0 d.val (fun s => s.actPwr m d.val true))

/-- POWER_DOMAIN_OFF (R374). -/
def execPowerDomainOff (m : Master) (d : Fin 83) (s : State) : Host.Outcome State Fault Refusal :=
  .next (s.ctlW m .ENL_PWRCTL 0 d.val (fun s => s.actPwr m d.val false))

/-- A domain reaches on: its blocks are reset, the TID 0 key is in its slot (R375, R386). -/
def State.domainOn (s : State) (d : Nat) : State :=
  let s := s.loseDomain d
  let s : State := if 3 ≤ d ∧ d < 7 then s.loadTid0 (hcSlot (d - 3))
    else if 55 ≤ d ∧ d < 71 then s.loadTid0 (mcSlot (d - 55)) else s
  s.setFld F.ENL_PWRCTL_STATE 2 0 d

/-- POWER_DOMAIN_ON_DONE (R375). -/
def execPowerDomainOnDone (d : Fin 83) (s : State) : Host.Outcome State Fault Refusal :=
  .next <|
    if s.fld F.ENL_PWRCTL_STATE 0 d.val ≠ 1 then s
    else
      let s := s.domainOn d.val
      if s.flag F.ENL_PWRCTL_ON 0 d.val then s else s.setFld F.ENL_PWRCTL_STATE 3 0 d.val

/-- POWER_DOMAIN_OFF_DONE (R375). -/
def execPowerDomainOffDone (d : Fin 83) (s : State) : Host.Outcome State Fault Refusal :=
  .next <|
    if s.fld F.ENL_PWRCTL_STATE 0 d.val ≠ 3 then s
    else
      let on := s.flag F.ENL_PWRCTL_ON 0 d.val
      let s := s.domainOff d.val
      if on then (s.setFld F.ENL_PWRCTL_ON 1 0 d.val).setFld F.ENL_PWRCTL_STATE 1 0 d.val else s

/-! ### Dormant and the RTC -/

/-- A write of ENL_DORMCTL.ENTER (R379). -/
def State.actDorm (s : State) (m : Master) : State :=
  if s.rd .MAP_INSVCA ≠ 0 || (List.range 3).any (fun k => s.rd .MAP_INSVCP 0 k != 0)
      || (s.flag F.ENL_RTCALM_ALMEN && decide (s.fld F.ENL_RTCALM_ALARM ≤ s.fld F.ENL_RTC_COUNT)) then
    s.ctlErr m true .stateRule (Reg.ENL_DORMCTL.off 0 0)
  else if s.board.dorm = .awake then s.setBoard { s.board with dorm := .entering, wakePend := false }
  else s

/-- ENTER_DORMANT (R379). -/
def execEnterDormant (m : Master) (s : State) : Host.Outcome State Fault Refusal :=
  .next (s.ctlW m .ENL_DORMCTL 0 0 (fun s => s.actDorm m))

/-- A wake event of R379 with its cause (R380, R383): it counts from Dormant entry on. -/
def State.wakeEvent (s : State) (cause : Nat) : State :=
  if s.board.dorm = .awake ∨ s.board.wakePend then s
  else (s.setBoard { s.board with wakePend := true }).setFld F.ENL_WAKESTAT_CAUSE cause

/-- The wake from Dormant (R379, R441): every domain but AO is reset, those that were on are restored, the channels
with their saved training values, and Keeper ROM starts. -/
def State.dormWake (s : State) : State :=
  let on := s.board.savedOn
  let s := s.resetAllButAo
  let s := (on.filter (fun d => decide (7 ≤ d))).foldl (fun s d => (s.domainOn d).setFld F.ENL_PWRCTL_ON 1 0 d) s
  let s := s.board.savedTrained.foldl (fun s c =>
    ((s.setChan c { s.chan c with trained := true }).setFld F.MC_CMPSTAT_MDREADY 1 c).setFld F.MC_STAT_INSVC 1 c) s
  let s := s.beginStart
  s.setBoard { s.board with kind := StartKind.dormantWake.code, savedOn := [],
                             savedTrained := [] }

/-- DORMANT_ENTRY_DONE (R379, R380): every domain but AO goes off; a wake that came during entry follows at once. -/
def execDormantEntryDone (s : State) : Host.Outcome State Fault Refusal :=
  .next <|
    if s.board.dorm ≠ .entering then s
    else
      let on := (List.range 83).filter (fun d => decide (d ≠ 0) && s.domOn d)
      let pend := s.board.wakePend
      let tr := (List.range 16).filter (fun c => (s.chan c).trained)
      let s := (List.range 82).foldl (fun s d => s.domainOff (d + 1)) s
      let s := { s with pcie := [] }.setBoard { s.board with dorm := .dormant, savedOn := on, savedTrained := tr, wakePend := pend, session := none }
      if pend then s.dormWake else s

/-- WAKE_N_ASSERT (R476, R379): ignored outside Dormant and its entry. -/
def execWakeNAssert (s : State) : Host.Outcome State Fault Refusal := .next (s.wakeEvent 2)

/-- DORMANT_WAKE (R379). -/
def execDormantWake (s : State) : Host.Outcome State Fault Refusal :=
  .next (if s.board.dorm = .dormant ∧ s.board.wakePend ∧ ¬ s.sec.erasing then s.dormWake else s)

/-- RTC_ALARM (R381): the report that COUNT has come to ALARM. -/
def execRtcAlarm (s : State) : Host.Outcome State Fault Refusal :=
  .next <|
    if s.flag F.ENL_RTCALM_ALMEN then
      let s := s.setFld F.ENL_RTC_COUNT (s.fld F.ENL_RTCALM_ALARM)
      ((s.setFld F.ENL_STAT_RTCFIRED 1).keeperInt 8).wakeEvent 1
    else s

end Sys2Proof.Machine
end

