-- ==== Sys2Proof/Machine/Lockstep.lean ====
section
/-! DEFINITION. What becomes of the Keeper and Cadence pairs when they disagree, stop or restart (R44, R97, R441, R451,
R452). -/
namespace Sys2Proof.Machine

/-- A key command or image verification that runs stops, and RESULT reads 0 (R452). -/
def State.stopKeyWork (s : State) : State :=
  let s : State := if s.sec.running.isSome then (s.setFld F.THS_KEYSTAT_BUSY 0).setFld F.THS_KEYSTAT_RESULT 0 else s
  let s : State := if s.sec.verifying then (s.setFld F.THS_IMGSTAT_BUSY 0).setFld F.THS_IMGSTAT_RESULT 0 else s
  s.setSec { s.sec with running := none, verifying := false }

/-- KP is reset and Keeper ROM runs again (R441, R451): all that is outside KP is kept. -/
def State.keeperRestart (s : State) (k : StartKind) : State :=
  let s := (s.loseDomain 1).stopKeyWork
  s.setBoard { s.board with romReady := true, entry := false, kind := k.code }

/-- The Cadence pair stops (R44, R453); the table hardware keeps ticking. -/
def State.cadencePairStop (s : State) : State := s.setThread 513 { s.thread 513 with run := .stopped }

/-- A pair is taken out by the lockstep checker (R44, R97, R441): KIND 0x0E with DETAIL 0 for a mismatch and 1 for a double
trap. -/
def State.lockstepFail (s : State) (keeper : Bool) (detail : Nat) : State :=
  if keeper then
    (s.record { kind := 0x0E, target := 148, sev := 3, detail := detail }).keeperRestart .lockstep
  else
    let s := (s.cadencePairStop).record { kind := 0x0E, target := 149, sev := 3, detail := detail }
    s.setBoard { s.board with cadFail := true }

end Sys2Proof.Machine
end

