-- ==== Sys2Proof/Machine/Map.lean ====
section
/-! DEFINITION. Global addresses, the local map, memory ranges and their checks, and the homes of addresses in the LLC
(R216 to R226, R231, R232, R236, R239). -/
namespace Sys2Proof.Machine

/-- The node of a global address (R216). -/
def nodeOf (a : Word) : Nat := a.toNat / 2 ^ 52

/-- The local part of a global address (R216). -/
def localOf (a : Word) : Nat := a.toNat % 2 ^ 52

/-- The base of control space (R219). -/
def ctlBase : Nat := 0x000F_FF00_0000_0000

/-- A node number counts as this device's own; while MAP_NODE.SET is 0, NODE 0 does (R216, R217). -/
def State.ownNode (s : State) (n : Nat) : Bool :=
  if s.flag F.MAP_NODE_SET then n == s.fld F.MAP_NODE_NODEID else n == 0

/-- Bytes of a GiB. -/
def gib : Nat := 2 ^ 30

/-- The ways of a range (R224). -/
def State.rangeWays (s : State) (r : Nat) : Nat :=
  let n := popcount 16 (s.fld F.MAP_RCFG_MASK 0 r)
  if s.flag F.MAP_RCFG_MIRROR 0 r then n / 2 else n

/-- The size of a range in GiB. -/
def State.rangeGib (s : State) (r : Nat) : Nat := s.fld F.MAP_RLIM_LAST 0 r + 1 - s.fld F.MAP_RBASE_BASE 0 r

/-- The range of a local address (R223). -/
def State.rangeOf (s : State) (a : Nat) : Option Nat :=
  firstIdx 16 (fun r => s.flag F.MAP_RCFG_V 0 r
    && decide (s.fld F.MAP_RBASE_BASE 0 r ≤ a / gib ∧ a / gib ≤ s.fld F.MAP_RLIM_LAST 0 r))

/-- Where memory behind a local address lies: a DDR-5 channel, the even one of a mirrored pair, or a CXL link; and the
offset there (R224). -/
structure Loc where
  cxl    : Bool
  mirror : Bool
  ch     : Nat
  off    : Nat
deriving DecidableEq, Repr

/-- The positions of the set bits of a mask, lowest first. -/
def setPositions (n w : Nat) : List Nat := (List.range n).filter (fun i => w.testBit i)

/-- The even channels of the pairs whose two bits are set (R224). -/
def setPairs (w : Nat) : List Nat := (setPositions 16 w).filter (fun i => decide (i % 2 = 0) && w.testBit (i + 1))

/-- The map of R224. -/
def State.mapAddr (s : State) (a : Nat) : Option Loc :=
  match s.rangeOf a with
  | none => none
  | some r =>
    let mask := s.fld F.MAP_RCFG_MASK 0 r
    let mir := s.flag F.MAP_RCFG_MIRROR 0 r
    let o := a - s.fld F.MAP_RBASE_BASE 0 r * gib
    let g := 2 ^ s.fld F.MAP_RCFG_GRAIN 0 r
    let w := s.rangeWays r
    let c := o / g
    let chs := if mir then setPairs mask else setPositions 16 mask
    match chs[c % w]? with
    | none => none
    | some ch => some { cxl := s.flag F.MAP_RCFG_TGT 0 r, mirror := mir, ch := ch,
                        off := c / w * g + o % g + s.fld F.MAP_RCFG_CHBASE 0 r * gib }

/-- What a global address names (R216 to R219). -/
inductive Space where
  | mem (a : Nat) (loc : Loc)
  | ctl (off : Nat)
  | fabric (node : Nat) (a : Nat)
  | nothing
deriving DecidableEq, Repr

/-- The space of a global address. -/
def State.space (s : State) (ga : Word) : Space :=
  if s.ownNode (nodeOf ga) then
    if ctlBase ≤ localOf ga then .ctl (localOf ga - ctlBase)
    else match s.mapAddr (localOf ga) with
      | some l => .mem (localOf ga) l
      | none => .nothing
  else if s.flag F.MAP_NODE_SET then .fabric (nodeOf ga) (localOf ga)
  else .nothing

/-! ### Extents of ranges on channels -/

/-- The valid range whose extent on a DDR-5 channel covers a superline (R226). -/
def State.extentAt (s : State) (ch sl : Nat) : Option Nat :=
  firstIdx 16 (fun r => s.flag F.MAP_RCFG_V 0 r && !s.flag F.MAP_RCFG_TGT 0 r
    && (s.fld F.MAP_RCFG_MASK 0 r).testBit ch
    && decide (s.fld F.MAP_RCFG_CHBASE 0 r * gib ≤ sl * 256)
    && decide (sl * 256 < s.fld F.MAP_RCFG_CHBASE 0 r * gib + s.rangeGib r * gib / s.rangeWays r))

/-- A superline of a channel lies in a mirrored range (R225). -/
def State.mirroredAt (s : State) (ch sl : Nat) : Bool :=
  match s.extentAt ch sl with
  | some r => s.flag F.MAP_RCFG_MIRROR 0 r
  | none => false

/-- The mirrored extents of a channel, as first superline and count, by range number. -/
def State.mirrorExtents (s : State) (ch : Nat) : List (Nat × Nat) :=
  ((List.range 16).filter (fun r => s.flag F.MAP_RCFG_V 0 r && s.flag F.MAP_RCFG_MIRROR 0 r
    && (s.fld F.MAP_RCFG_MASK 0 r).testBit ch)).map
      (fun r => (s.fld F.MAP_RCFG_CHBASE 0 r * gib / 256, s.rangeGib r * gib / s.rangeWays r / 256))

/-- A channel serves a mirrored range. -/
def State.mirrored (s : State) (ch : Nat) : Bool := !(s.mirrorExtents ch).isEmpty

/-- The other channel of a pair (2k, 2k + 1). -/
def pairOf (ch : Nat) : Nat := if ch % 2 = 0 then ch + 1 else ch - 1

/-- The local address that R224 maps to a superline of a channel, or 0 where none does. -/
def State.addrOf (s : State) (ch sl : Nat) : Nat :=
  match s.extentAt ch sl with
  | none => 0
  | some r =>
    let mask := s.fld F.MAP_RCFG_MASK 0 r
    let g := 2 ^ s.fld F.MAP_RCFG_GRAIN 0 r
    let w := s.rangeWays r
    let i := if s.flag F.MAP_RCFG_MIRROR 0 r then (setPairs mask).findIdx (fun c => c == ch - ch % 2)
             else (setPositions 16 mask).findIdx (fun c => c == ch)
    let off := sl * 256 - s.fld F.MAP_RCFG_CHBASE 0 r * gib
    s.fld F.MAP_RBASE_BASE 0 r * gib + (off / g * w + i) * g + off % g

/-! ### The checks of R226 -/

/-- The mapped capacity of a DDR-5 channel or CXL link, in bytes (R226). -/
def State.mappedCap (s : State) (cxl : Bool) (ch : Nat) : Nat :=
  if cxl then Config.cxlCapGiB ch * gib else s.fld F.MC_CFG_CAPG ch * gib / 512 * 511

/-- A named channel or link is in service (R226, R271, R272, R319). -/
def State.targetUp (s : State) (cxl : Bool) (ch : Nat) : Bool :=
  if cxl then decide (s.fld F.LE_PCIECFG_MODE (2 * ch) = 2) && (s.link ch).l0
  else s.flag F.MC_STAT_INSVC ch && s.domOn (mcDom ch)

/-- Two intervals [a, a + n) and [b, b + m) share a point. -/
def overlaps (a n b m : Nat) : Bool := decide (a < b + m ∧ b < a + n)

/-- The extent of range r on its channels: base and length in bytes. -/
def State.extent (s : State) (r : Nat) : Nat × Nat :=
  (s.fld F.MAP_RCFG_CHBASE 0 r * gib, s.rangeGib r * gib / s.rangeWays r)

/-- Every check of R226 passes for range r, whose MAP_RCFG already holds the value that is being written. -/
def State.rangeOk (s : State) (r : Nat) : Bool :=
  let mask := s.fld F.MAP_RCFG_MASK 0 r
  let mir := s.flag F.MAP_RCFG_MIRROR 0 r
  let cxl := s.flag F.MAP_RCFG_TGT 0 r
  let n := popcount 16 mask
  let base := s.fld F.MAP_RBASE_BASE 0 r
  let last := s.fld F.MAP_RLIM_LAST 0 r
  let ways := if mir then (n == 2 || n == 4 || n == 8 || n == 16) && (setPairs mask).length * 2 == n
    else n == 1 || n == 2 || n == 4 || n == 8 || n == 16
  let others := (List.range 16).filter (fun q => decide (q ≠ r) && s.flag F.MAP_RCFG_V 0 q)
  let e := s.extent r
  ways
    && !(cxl && (mir || decide (256 ≤ mask)))
    && decide (base ≤ last ∧ (last + 1) * gib ≤ ctlBase)
    && decide (s.rangeGib r * gib % (s.rangeWays r * 2 ^ s.fld F.MAP_RCFG_GRAIN 0 r) = 0)
    && others.all (fun q => !overlaps base (last + 1 - base) (s.fld F.MAP_RBASE_BASE 0 q) (s.rangeGib q))
    && (setPositions 16 mask).all (fun c => s.targetUp cxl c && decide (e.1 + e.2 ≤ s.mappedCap cxl c)
      && others.all (fun q => !(decide (s.flag F.MAP_RCFG_TGT 0 q = cxl) && (s.fld F.MAP_RCFG_MASK 0 q).testBit c
        && overlaps e.1 e.2 (s.extent q).1 (s.extent q).2)))

/-- A write to MAP_RCFG[r] (R226, R244, R447). -/
def State.actRcfg (s : State) (m : Master) (r : Nat) (v : Word) : State :=
  let off := Reg.MAP_RCFG.off 0 r
  let new := v &&& Reg.MAP_RCFG.row.lk
  if s.board.locked then s.ctlErr m true .locked off
  else if !bitOf v 0 then s.wr .MAP_RCFG new 0 r
  else if s.flag F.MAP_RCFG_V 0 r then s.ctlErr m true .stateRule off
  else if F.MAP_RCFG_GRAIN.of v < 8 ∨ 30 < F.MAP_RCFG_GRAIN.of v then s.ctlErr m true .reserved off
  else if (s.wr .MAP_RCFG new 0 r).rangeOk r then s.wr .MAP_RCFG new 0 r
  else s.ctlErr m true .stateRule off

/-- A write to MAP_RBASE[r] or MAP_RLIM[r] (R226). -/
def State.actRbound (s : State) (m : Master) (reg : Reg) (r : Nat) (v : Word) : State :=
  if s.board.locked then s.ctlErr m true .locked (reg.off 0 r)
  else if s.flag F.MAP_RCFG_V 0 r then s.ctlErr m true .stateRule (reg.off 0 r)
  else s.wr reg (v &&& reg.row.lk) 0 r

/-- RANGE_ENABLE (R226). -/
def execRangeEnable (m : Master) (r : Fin 16) (v : Word) (s : State) : Host.Outcome State Fault Refusal :=
  .next (s.ctlW m .MAP_RCFG 0 r.val (fun s => s.actRcfg m r.val v))

/-- RANGE_DISABLE (R226). -/
def execRangeDisable (m : Master) (r : Fin 16) (v : Word) (s : State) : Host.Outcome State Fault Refusal :=
  .next (s.ctlW m .MAP_RCFG 0 r.val (fun s => s.actRcfg m r.val v))

/-! ### Homes in the LLC and the fabric -/

/-- Byte i of a number. -/
def byteN (a i : Nat) : Nat := a / 2 ^ (8 * i) % 256

/-- The logical slice of a local address (R231). -/
def sliceOf (a : Nat) : Nat :=
  (byteN a 1 ^^^ byteN a 2 ^^^ byteN a 3 ^^^ byteN a 4 ^^^ byteN a 5 ^^^ (a / 2 ^ 48 % 16)) % 256

/-- The LLC set of a local address (R232). -/
def llcSet (a : Nat) : Nat := 128 * (a / 2 ^ 23 % 3) + a / 2 ^ 16 % 128

/-- The directory set of a local address (R236). -/
def dirSet (a : Nat) : Nat := a / 2 ^ 6 % 4096

/-- The gateway of a fabric access (R239). -/
def gatewayOf (node a : Nat) : Nat :=
  (a / 2 ^ 8 % 16) ^^^ (a / 2 ^ 12 % 16) ^^^ (node % 16) ^^^ (node / 16 % 16) ^^^ (node / 256 % 16)

/-- A physical slice can take a logical slice: its cluster is powered and in service, and it has not failed (R241). -/
def State.sliceUp (s : State) (p : Nat) : Bool :=
  s.domOn (clDom (p / 8)) && bitOf (s.rd .MAP_INSVCA) (p / 8) && !s.board.sliceBad.contains p

/-- A write to MAP_SLICE[l] (R241, R242). -/
def State.actSlice (s : State) (m : Master) (l : Nat) (v : Word) : State :=
  let t := F.MAP_SLICE_TARGET.of v
  if s.flag F.MAP_SLICE_BUSY 0 l || !s.sliceUp t then s.ctlErr m true .stateRule (Reg.MAP_SLICE.off 0 l)
  else
    let s := s.setFld F.MAP_SLICE_TARGET t 0 l
    if t = s.fld F.MAP_SLICE_CUR 0 l then s else s.setFld F.MAP_SLICE_BUSY 1 0 l

/-- SLICE_RETARGET (R241). -/
def execSliceRetarget (m : Master) (l : Fin 256) (v : Word) (s : State) : Host.Outcome State Fault Refusal :=
  .next (s.ctlW m .MAP_SLICE 0 l.val (fun s => s.actSlice m l.val v))

end Sys2Proof.Machine
end

