-- ==== Sys2Proof/Machine/Teasel.lean ====
section
/-! DEFINITION. Teasel and Cowslip: the stored formats of a superline, their choice, and the Cowslip block (R249 to
R251, R258 to R264). -/
namespace Sys2Proof.Machine

/-- Piece i of w bits of a number. -/
def piece (w x i : Nat) : Nat := x / 2 ^ (w * i) % 2 ^ w

/-- The n pieces of w bits of a number, lowest first. -/
def pieces (w n x : Nat) : List Nat := (List.range n).map (piece w x)

/-- Pieces of w bits, lowest first, as one number. -/
def packed (w : Nat) (l : List Nat) : Nat := l.foldr (fun x acc => x % 2 ^ w + 2 ^ w * acc) 0

/-- The deltas of a list from a base, modulo 2^w, read as signed (R249). -/
def deltas (w : Nat) (base : Nat) (l : List Nat) : List Int := l.map (fun x => sexNat w (x + 2 ^ w - base))

/-- Every delta fits in n bits as a signed number. -/
def allFit (n : Nat) (l : List Int) : Bool := l.all (fun d => decide (-(2 ^ (n - 1) : Int) ≤ d ∧ d < 2 ^ (n - 1)))

/-- The tag of a word after the word before it (R250). -/
def fvTag (prev : Option Nat) (v : Nat) : Nat :=
  if v = 0 then 0 else if v = 0xFFFF_FFFF then 1 else if prev = some v then 2 else 3

/-- The tags of a list of words (R250). -/
def fvTags (prev : Option Nat) (l : List Nat) : List Nat :=
  match l with
  | [] => []
  | v :: rest => fvTag prev v :: fvTags (some v) rest

/-- The literals of a list of words: those whose tag is 0b11 (R250). -/
def fvLits (prev : Option Nat) (l : List Nat) : List Nat :=
  match l with
  | [] => []
  | v :: rest => if fvTag prev v = 3 then v :: fvLits (some v) rest else fvLits (some v) rest

/-- The words that a list of tags and literals stand for; a missing literal, or 0b10 at word 0, is zero (R250). -/
def fvWords (prev : Nat) (tags lits : List Nat) : List Nat :=
  match tags with
  | [] => []
  | t :: rest =>
    match t, lits with
    | 0, _ => 0 :: fvWords 0 rest lits
    | 1, _ => 0xFFFF_FFFF :: fvWords 0xFFFF_FFFF rest lits
    | 2, _ => prev :: fvWords prev rest lits
    | _, [] => 0 :: fvWords 0 rest []
    | _, x :: xs => x :: fvWords x rest xs

/-- The bursts of each code (R249). -/
def codeBursts (c : Nat) : Nat :=
  match c with
  | 0 => 0 | 1 => 4 | 2 => 1 | 3 => 1 | 4 => 2 | 5 => 2 | 6 => 1 | 7 => 2 | 8 => 3 | 9 => 2 | 10 => 3 | _ => 4

/-- The literals that the bursts of a frequent-value form hold. -/
def fvRoom (c : Nat) : Nat := (64 * codeBursts c - 16) / 4

/-- Whether a format of codes 0x0 to 0x8 holds a superline (R249). -/
def teaselHolds (c : Nat) (d : Superline) : Bool :=
  let w := pieces 64 32 d.toNat
  let v := pieces 32 64 d.toNat
  let w0 := piece 64 d.toNat 0
  let v0 := piece 32 d.toNat 0
  match c with
  | 0 => decide (d = 0)
  | 1 => true
  | 2 => w.all (fun x => x == w0)
  | 3 => allFit 8 (deltas 64 w0 w)
  | 4 => allFit 16 (deltas 64 w0 w)
  | 5 => allFit 8 (deltas 32 v0 v)
  | 6 => decide ((fvLits none v).length ≤ fvRoom 6)
  | 7 => decide ((fvLits none v).length ≤ fvRoom 7)
  | 8 => decide ((fvLits none v).length ≤ fvRoom 8)
  | _ => false

/-- The stored image of a superline in codes 0x0 to 0x8 (R249). -/
def teaselImage (c : Nat) (d : Superline) : Superline :=
  let w := pieces 64 32 d.toNat
  let v := pieces 32 64 d.toNat
  let w0 := piece 64 d.toNat 0
  let v0 := piece 32 d.toNat 0
  match c with
  | 1 => d
  | 2 => BitVec.ofNat 2048 w0
  | 3 => BitVec.ofNat 2048 (w0 + 2 ^ 64 * packed 8 ((deltas 64 w0 w).map (encInt 8)))
  | 4 => BitVec.ofNat 2048 (w0 + 2 ^ 64 * packed 16 ((deltas 64 w0 w).map (encInt 16)))
  | 5 => BitVec.ofNat 2048 (v0 + 2 ^ 32 * packed 8 ((deltas 32 v0 v).map (encInt 8)))
  | 6 => BitVec.ofNat 2048 (packed 2 (fvTags none v) + 2 ^ 128 * packed 32 (fvLits none v))
  | 7 => BitVec.ofNat 2048 (packed 2 (fvTags none v) + 2 ^ 128 * packed 32 (fvLits none v))
  | 8 => BitVec.ofNat 2048 (packed 2 (fvTags none v) + 2 ^ 128 * packed 32 (fvLits none v))
  | _ => 0

/-- What a decoder of the frequent-value forms reads from an image (R250). -/
def fvDecode (c : Nat) (x : Nat) : Nat :=
  packed 32 (fvWords 0 (pieces 2 64 x) ((pieces 32 (fvRoom c) (x / 2 ^ 128))))

/-- What a decoder reads from an image of codes 0x0 to 0x8 (R249, R250). -/
def teaselDecode (c : Nat) (im : Superline) : Superline :=
  let x := im.toNat
  let w0 := piece 64 x 0
  let v0 := piece 32 x 0
  match c with
  | 1 => im
  | 2 => BitVec.ofNat 2048 (packed 64 (List.replicate 32 w0))
  | 3 => BitVec.ofNat 2048 (packed 64 ((pieces 8 32 (x / 2 ^ 64)).map (fun d => encInt 64 (w0 + sexNat 8 d))))
  | 4 => BitVec.ofNat 2048 (packed 64 ((pieces 16 32 (x / 2 ^ 64)).map (fun d => encInt 64 (w0 + sexNat 16 d))))
  | 5 => BitVec.ofNat 2048 (packed 32 ((pieces 8 64 (x / 2 ^ 32)).map (fun d => encInt 32 (v0 + sexNat 8 d))))
  | 6 => BitVec.ofNat 2048 (fvDecode 6 x)
  | 7 => BitVec.ofNat 2048 (fvDecode 7 x)
  | 8 => BitVec.ofNat 2048 (fvDecode 8 x)
  | _ => 0

/-! ### Cowslip -/

/-- The types of Cowslip values (R258). -/
inductive CwType where
  | b32 | b16 | s24
deriving DecidableEq, Repr

/-- The type and M of a CODEC (R157, R258); a CODEC of binary16 with M = 16 is served as CODEC 0 (R255). -/
def cwOf (codec : BitVec 4) : Option (CwType × Nat) :=
  let m : Option Nat := match codec.toNat % 4 with | 0 => some 8 | 1 => some 12 | 2 => some 16 | _ => none
  match codec.toNat / 4, m with
  | 1, some m => some (.b32, m)
  | 2, some m => if m = 16 then none else some (.b16, m)
  | 3, some m => some (.s24, m)
  | _, _ => none

/-- Bits of one element. -/
def CwType.bits (t : CwType) : Nat := match t with | .b16 => 16 | _ => 32

/-- Blocks of a superline. -/
def CwType.blocks (t : CwType) : Nat := match t with | .b16 => 8 | _ => 4

/-- E_min (R258). -/
def CwType.eMin (t : CwType) (m : Nat) : Int :=
  match t with
  | .b32 => -127
  | .b16 => if m = 8 then -18 else -14
  | .s24 => if m = 8 then -17 else if m = 12 then -13 else -9

/-- E_max (R258). -/
def CwType.eMax (t : CwType) : Int := match t with | .b32 => 127 | .b16 => 15 | .s24 => 0

/-- An element's value as n × 2^k; none for a NaN or an infinity (R258). -/
def CwType.value (t : CwType) (x : Nat) : Option (Int × Int) :=
  match t with
  | .s24 => some (sexNat 24 x, -23)
  | .b32 =>
    let e : Nat := x / 2 ^ 23 % 256
    let f : Nat := x % 2 ^ 23
    let sg : Int := if x.testBit 31 then -1 else 1
    if e = 255 then none else if e = 0 then some (sg * (f : Int), -149) else some (sg * (f + 2 ^ 23 : Nat), (e : Int) - 150)
  | .b16 =>
    let e : Nat := x / 2 ^ 10 % 32
    let f : Nat := x % 2 ^ 10
    let sg : Int := if x.testBit 15 then -1 else 1
    if e = 31 then none else if e = 0 then some (sg * (f : Int), -24) else some (sg * (f + 2 ^ 10 : Nat), (e : Int) - 25)

/-- n / 2^k rounded to the nearest integer, ties to even, for a natural number. -/
def rneNat (n k : Nat) : Nat :=
  let q := n / 2 ^ k
  let r := n % 2 ^ k
  if 2 * r < 2 ^ k then q else if 2 ^ k < 2 * r then q + 1 else q + q % 2

/-- n × 2^k rounded to the nearest integer, ties to even. -/
def rneScale (n k : Int) : Int :=
  if 0 ≤ k then n * 2 ^ k.toNat
  else if n < 0 then -(rneNat n.natAbs (-k).toNat : Int) else (rneNat n.natAbs (-k).toNat : Int)

/-- Code q of every value of a block at exponent e (R259). -/
def cwCodes (vs : List (Int × Int)) (e : Int) (m : Nat) : List Int :=
  vs.map (fun v => rneScale v.1 (v.2 - (e - m + 2)))

/-- A quantised block: its exponent and codes; none for an exact block (R259). -/
def cwQuant (t : CwType) (m : Nat) (xs : List Nat) : Option (Int × List Int) :=
  if xs.any (fun x => (t.value x).isNone) then none
  else
    let vs := xs.filterMap t.value
    let e0 := (vs.filter (fun v => v.1 != 0)).foldl (fun acc v => max acc ((v.1.natAbs.log2 : Int) + v.2)) (t.eMin m)
    let q0 := cwCodes vs e0 m
    let carry := q0.any (fun q => q.natAbs == 2 ^ (m - 1))
    let e := if carry then e0 + 1 else e0
    let q := if carry then cwCodes vs e m else q0
    if t.eMax < e then none else some (e, q)

/-- The bits of a float of p fraction bits and bias b that equals n × 2^k exactly; +0 for zero (R260). -/
def floatBits (p ebits : Nat) (n k : Int) : Nat :=
  if n = 0 then 0
  else
    let bias : Int := 2 ^ (ebits - 1) - 1
    let sign : Nat := if n < 0 then 2 ^ (p + ebits) else 0
    let lg : Int := (n.natAbs.log2 : Int) + k
    let e : Int := max (lg + bias) 1
    let sh : Int := k - (e - bias - p)
    let mant : Nat := if 0 ≤ sh then n.natAbs * 2 ^ sh.toNat else n.natAbs / 2 ^ (-sh).toNat
    sign + (if mant < 2 ^ p then mant else e.toNat * 2 ^ p + (mant - 2 ^ p))

/-- What a code q at exponent e decodes to (R260). -/
def CwType.decoded (t : CwType) (m : Nat) (e q : Int) : Nat :=
  match t with
  | .b32 => floatBits 23 8 q (e - m + 2)
  | .b16 => floatBits 10 5 q (e - m + 2)
  | .s24 => encInt 32 (min (q * 2 ^ (e - m + 25).toNat) (2 ^ 23 - 1))

/-- The elements of block i of a superline. -/
def CwType.elems (t : CwType) (d : Superline) (i : Nat) : List Nat :=
  pieces t.bits 16 (piece (16 * t.bits) d.toNat i)

/-- A block as Cowslip leaves it: its elements afterwards (R259, R260). -/
def cwBlock (t : CwType) (m : Nat) (xs : List Nat) : List Nat :=
  match cwQuant t m xs with
  | none => xs
  | some (e, q) => q.map (t.decoded m e)

/-- The Cowslip rules applied to every block of a superline (R255, R259). -/
def cwApply (t : CwType) (m : Nat) (d : Superline) : Superline :=
  BitVec.ofNat 2048 (packed (16 * t.bits)
    ((List.range t.blocks).map (fun i => packed t.bits (cwBlock t m (t.elems d i)))))

/-- How many blocks are exact. -/
def cwExact (t : CwType) (m : Nat) (d : Superline) : Nat :=
  ((List.range t.blocks).filter (fun i => (cwQuant t m (t.elems d i)).isNone)).length

/-- The exponent byte, the length in bits and the value of a block in the Cowslip image (R264). -/
def cwPart (t : CwType) (m : Nat) (xs : List Nat) : Nat × Nat × Nat :=
  match cwQuant t m xs with
  | none => (0x80, 16 * t.bits, packed t.bits xs)
  | some (e, q) => (encInt 8 e, 16 * m, packed m (q.map (encInt m)))

/-- Parts of given lengths in bits, one after another. -/
def joinBits (l : List (Nat × Nat)) : Nat × Nat :=
  l.foldr (fun x acc => (x.1 + acc.1, x.2 + 2 ^ x.1 * acc.2)) (0, 0)

/-- The Cowslip image of a superline and its length in bytes (R264). -/
def cwImage (codec : BitVec 4) (t : CwType) (m : Nat) (d : Superline) : Nat × Nat :=
  let parts := (List.range t.blocks).map (fun i => cwPart t m (t.elems d i))
  let r := joinBits ((8, codec.toNat) :: parts.map (fun p => (8, p.1)) ++ parts.map (fun p => p.2))
  (r.1 / 8, r.2)

/-- What a Cowslip image decodes to, block by block; `x` is what follows the blocks decoded so far. -/
def cwBlocks (t : CwType) (m : Nat) (exps : List Nat) (x : Nat) : List Nat :=
  match exps with
  | [] => []
  | e :: rest =>
    if e = 0x80 then x % 2 ^ (16 * t.bits) :: cwBlocks t m rest (x / 2 ^ (16 * t.bits))
    else
      packed t.bits ((pieces m 16 x).map (fun q => t.decoded m (sexNat 8 e) (sexNat m q)))
        :: cwBlocks t m rest (x / 2 ^ (16 * m))

/-- The decoder of codes 0x9 to 0xB (R264). -/
def cwDecode (im : Superline) : Superline :=
  match cwOf (BitVec.ofNat 4 im.toNat) with
  | none => 0
  | some (t, m) =>
    BitVec.ofNat 2048 (packed (16 * t.bits)
      (cwBlocks t m (pieces 8 t.blocks (im.toNat / 256)) (im.toNat / 2 ^ (8 + 8 * t.blocks))))

/-! ### The choice of a format -/

/-- The decoder of every code (R249, R264). -/
def decodeImage (c : Nat) (im : Superline) : Superline :=
  if 9 ≤ c then cwDecode im else teaselDecode c im

/-- The code of a Cowslip image of n bytes (R249, R264). -/
def cwCode (n : Nat) : Option Nat := if n ≤ 128 then some 9 else if n ≤ 192 then some 10 else if n ≤ 256 then some 11 else none

/-- The lowest code among those with the fewest bursts (R251). -/
def bestCode (cs : List Nat) : Nat :=
  cs.foldl (fun best c => if codeBursts c < codeBursts best then c
    else if codeBursts c = codeBursts best ∧ c < best then c else best) 1

/-- The code and the image of a new superline: TEASEL, a Cowslip CODEC if the write carries one, and whether only 0x1
is eligible (R251). The superline has already been quantised. -/
def encodeSuper (teasel : Bool) (codec : BitVec 4) (rawOnly : Bool) (d : Superline) : Nat × Superline :=
  let ts := if teasel then [0, 2, 3, 4, 5, 6, 7, 8].filter (fun c => teaselHolds c d) else []
  let cw := match cwOf codec with
    | none => none
    | some (t, m) =>
      let im := cwImage codec t m d
      (cwCode im.1).map (fun c => (c, BitVec.ofNat 2048 im.2))
  if rawOnly then (1, d)
  else
    match cw with
    | none => let c := bestCode ts; (c, teaselImage c d)
    | some (c, im) =>
      let b := bestCode (c :: ts)
      (b, if b = c then im else teaselImage b d)

end Sys2Proof.Machine
end

