-- ==== Sys2Proof/Machine/Chan.lean ====
section
/-! DEFINITION. What a memory channel stores and how one superline operation is carried out: metadata, keys, symbol
code, reads, writes, freezes and mirrored pairs (R245 to R257, R274 to R292). -/
namespace Sys2Proof.Machine

/-! ### Not-recently-used replacement -/

/-- Way w of a set of n ways has been used: its bit is set, and when every valid way has its bit set, the others clear
(R247, R137, R237; entry 18). -/
def CSet.touch {α : Type} (c : CSet α) (n w : Nat) : CSet α :=
  let b := c.bits ||| (1#16 <<< w)
  let full := (List.range n).all (fun i => (mget c.ways i).isNone || b.getLsbD i)
  { c with bits := if full then 1#16 <<< w else b }

/-- The way to fill: the lowest invalid way, failing that the lowest not recently used among those allowed. -/
def CSet.nruVictim {α : Type} (c : CSet α) (n : Nat) (ok : Nat → Bool) : Option Nat :=
  match firstIdx n (fun i => ok i && (mget c.ways i).isNone) with
  | some w => some w
  | none => match firstIdx n (fun i => ok i && !c.bits.getLsbD i) with
    | some w => some w
    | none => firstIdx n ok

/-- The way whose entry meets p. -/
def CSet.find {α : Type} (c : CSet α) (p : α → Bool) : Option (Nat × α) := c.ways.find? (fun e => p e.2)

/-- An empty set. -/
def CSet.empty {α : Type} : CSet α := ⟨[], 0⟩

/-! ### Keys -/

/-- The key slot of a TID in a block is loaded (R386). -/
def State.keyLoaded (s : State) (slot tid : Nat) : Bool := (mget s.sec.slots (slot * 1024 + tid)).isSome

/-- The key pair of a TID in a block's slot (R386); an empty slot serves no request. -/
def State.keyOf (s : State) (slot tid : Nat) : BitVec 512 := mgetD s.sec.slots (slot * 1024 + tid) 0

/-- The tweak of burst slot j of a superline (R284): the slot's channel offset [51:6], and the tweak channel. -/
def xtsTweak (ch sl j : Nat) (mirror : Bool) : BitVec 128 :=
  BitVec.ofNat 128 ((4 * sl + j) % 2 ^ 46 + (if mirror then ch - ch % 2 else ch) * 2 ^ 46)

/-- What seals each burst of a superline for a TID (R284, R285). -/
def State.sealOf (s : State) (ch sl tid : Nat) : Vector Config.Seal 4 :=
  Vector.ofFn (fun j => ⟨s.keyOf (mcSlot ch) tid, xtsTweak ch sl j.val (s.mirroredAt ch sl)⟩)

/-! ### The command history (R289, R440) -/

/-- Codes of DRAM commands. -/
def cmdAct : BitVec 4 := 1
def cmdRd : BitVec 4 := 2
def cmdWr : BitVec 4 := 3
def cmdRef : BitVec 4 := 5
def cmdRefSb : BitVec 4 := 6
def cmdRfm : BitVec 4 := 7
def cmdMrr : BitVec 4 := 8

/-- A command joins the history, which keeps 256. -/
def State.cmd (s : State) (ch : Nat) (c : DramCmd) : State :=
  let x := s.chan ch
  s.setChan ch { x with history := (x.history ++ [c]).drop (x.history.length + 1 - 256) }

/-- A command of a bank, numbered as its entry's bits [12:4]; one that names no bank names bank 0. -/
def State.cmdBank (s : State) (ch : Nat) (code : BitVec 4) (bank : Nat) (row : BitVec 18) : State :=
  s.cmd ch ⟨code, bank % 2 == 1, BitVec.ofNat 8 (bank / 2), row, 0, s.aoTime⟩

/-- Bursts at slots of the channel, offset / 64, are read or written: even ones lie on subchannel A (R273). -/
def State.cmdSlots (s : State) (ch : Nat) (code : BitVec 4) (slots : List Nat) : State :=
  slots.foldl (fun s n =>
    let p := Config.dramPlace (s.rd .MC_CFG ch) n
    s.cmd ch ⟨code, n % 2 == 1, p.extractLsb' 0 8, p.extractLsb' 8 18, p.extractLsb' 26 11, s.aoTime⟩) s

/-- Bursts js of a superline are read or written. -/
def State.cmdBursts (s : State) (ch : Nat) (code : BitVec 4) (sl : Nat) (js : List Nat) : State :=
  s.cmdSlots ch code (js.map (fun j => 4 * sl + j))

/-- The slot of a metadata line (R246). -/
def State.mdSlot (s : State) (ch line : Nat) : Nat := s.fld F.MC_CFG_CAPG ch * gib * 511 / 512 / 64 + line

/-! ### Freezes -/

/-- The record of a freeze event at channel c (R426, R486). -/
def frzEvent (c sev detail : Nat) : Event := { kind := 0x08, target := c, sev := sev, detail := detail }

/-- The CAUSE codes of MC_FRZSTAT (R294). -/
def frzCode (c : FreezeCause) : Nat :=
  match c with
  | .caParity => 1 | .mdUncorrectable => 2 | .mdCode => 3 | .secondError => 4

/-- A record about a channel is kept among its syndromes, the last 32 of which a snapshot holds (R295). -/
def State.chanRecord (s : State) (ch : Nat) (e : Event) : State :=
  let x := s.chan ch
  let s := s.setChan ch { x with synd := (x.synd ++ [s.mkRecord e]).drop (x.synd.length + 1 - 32) }
  s.record e

/-- A freeze trigger on a channel (R288, R289, R292): on a retired channel it is recorded, on a frozen one it goes into
the snapshot, and otherwise the channel freezes. -/
def State.freeze (s : State) (ch : Nat) (cause : FreezeCause) (md : Option Nat) : State :=
  let x := s.chan ch
  if s.flag F.MC_STAT_RETIRED ch then s.record (frzEvent ch 0 (frzCode cause))
  else if s.flag F.MC_STAT_FROZEN ch then
    match x.snap with
    | none => s
    | some p => s.setChan ch { x with
        snap := some { p with more := if p.more = 255 then 255 else p.more + 1,
                              moreCause := p.moreCause ||| BitVec.ofNat 4 (2 ^ (frzCode cause - 1)) } }
  else if !s.flag F.MC_STAT_INSVC ch then s
  else
    let s := (s.setFld F.MC_STAT_FROZEN 1 ch).setFld F.MC_FRZSTAT_FROZEN 1 ch
    let s := (s.setFld F.MC_FRZSTAT_CAUSE (frzCode cause) ch).setFld F.MC_FRZSTAT_FRAME s.frame.toNat ch
    let s := s.chanRecord ch (frzEvent ch 2 (frzCode cause))
    let seq := 1 + (List.range 16).foldl (fun n c => max n (s.chan c).frzSeq) 0
    s.setChan ch { s.chan ch with
      frzSeq := seq, acting := none, mdFix := md, resync := [],
      inflight := if cause = .caParity then (s.chan ch).last else none,
      snap := some { cause := BitVec.ofNat 3 (frzCode cause), more := 0, moreCause := 0, time := s.aoTime, frame := s.frame,
                     synd := [], history := [], queues := [], deferred := [], resync := [] } }

/-! ### DRAM bursts -/

/-- How many devices the injection armed at a DRAM target names (R421). -/
def State.flipDevices (s : State) (t : Nat) : Nat :=
  let a := s.fld F.ERR_FLIPMASK_DEV0 0 t
  let b := s.fld F.ERR_FLIPMASK_DEV1 0 t
  (if a = 15 then 0 else 1) + (if b = 15 ∨ b = a then 0 else 1)

/-- A burst is written on a subchannel of channel ch: the devices that an injection inverts in it (R421). -/
def State.burstWritten (s : State) (ch sub : Nat) : Nat × State :=
  if s.flag F.ERR_FLIPMASK_ARM 0 ch && decide (s.fld F.ERR_FLIPMASK_SUB 0 ch % 2 = sub) then
    (s.flipDevices ch, s.setFld F.ERR_FLIPMASK_ARM 0 0 ch)
  else (0, s)

/-- The subchannel of burst slot j (R273). -/
def subOf (j : Nat) : Nat := j % 2

/-- Bursts js of a superline are written: the devices in error of each slot. -/
def State.burstsWritten (s : State) (ch : Nat) (js : List Nat) (bad : SMap Nat) : SMap Nat × State :=
  js.foldl (fun acc j =>
    let (n, s) := acc.2.burstWritten ch (subOf j)
    (mset acc.1 j n 0, s)) (bad, s)

/-- A burst with one device in error is corrected and recorded (R286). -/
def State.dramCorrected (s : State) (ch sub tid a : Nat) : State :=
  let (w, s) := s.draw
  (s.bump .MC_CECNT ch).chanRecord ch
    { kind := 0x01, target := ch, sub := sub, sev := 1, tid := tid, addr := s.globalOf a, detail := w.toNat % 2 ^ 32 }

/-- A burst with two devices in error is uncorrectable and recorded (R286). -/
def State.dramUncorrectable (s : State) (ch sub tid a : Nat) : State :=
  let (w, s) := s.draw
  (s.bump .MC_UECNT ch).chanRecord ch
    { kind := 0x03, target := ch, sub := sub, sev := 2, tid := tid, addr := s.globalOf a, detail := w.toNat % 2 ^ 32 }

/-- Bursts js of superline sl are read: those that are uncorrectable. -/
def State.burstsRead (s : State) (ch sl tid : Nat) (bad : SMap Nat) (js : List Nat) : List Nat × State :=
  js.foldl (fun acc j =>
    match mgetD bad j 0 with
    | 0 => acc
    | 1 => (acc.1, acc.2.dramCorrected ch (subOf j) tid (acc.2.addrOf ch sl))
    | _ => (acc.1 ++ [j], acc.2.dramUncorrectable ch (subOf j) tid (acc.2.addrOf ch sl))) ([], s)

/-- A first uncorrectable error does not freeze the channel; a second within 1 ms does (R288). -/
def State.countUe (s : State) (ch : Nat) : State :=
  let x := s.chan ch
  let second := match x.lastUe with | some t => decide (s.aoTime - t ≤ 100000) | none => false
  let s := s.setChan ch { x with lastUe := some s.aoTime }
  if second then s.freeze ch .secondError none else s

/-! ### The metadata cache -/

/-- The metadata line of a superline (R247). -/
def mdLine (sl : Nat) : Nat := sl / 128

/-- The set of a metadata line (entry 18). -/
def mdSet (line : Nat) : Nat := line % 512

/-- A line is no longer one that a flush has to write; with the last of them the flush ends (R487). -/
def State.mdFlushed (s : State) (ch line : Nat) : State :=
  let x := s.chan ch
  if x.flush.contains line then
    let rest := x.flush.filter (fun l => l != line)
    let s := s.setChan ch { x with flush := rest }
    if rest.isEmpty then s.setFld F.MC_CMPSTAT_MDBUSY 0 ch else s
  else s

/-- The DRAM copy of a metadata line is written (R247, R273); what is made dirty after that no flush under way writes. -/
def State.mdWriteback (s : State) (ch line : Nat) : State :=
  let (n, s) := s.burstWritten ch (line % 2)
  let s := (s.setChan ch { s.chan ch with mdErr := mset (s.chan ch).mdErr line n 0 }).charge 0 7 1 false
  (s.cmdSlots ch cmdWr [s.mdSlot ch line]).mdFlushed ch line

/-- Write back a line if the cache holds it dirty. -/
def State.mdClean (s : State) (ch line : Nat) : State :=
  let x := s.chan ch
  let st := mgetD x.md (mdSet line) .empty
  match st.find (fun e => e.line == line) with
  | some (w, e) =>
    if e.dirty then
      (s.setChan ch { x with md := mput x.md (mdSet line) { st with ways := mput st.ways w { e with dirty := false } } }).mdWriteback ch line
    else s
  | none => s

/-- Use the cached line of a superline, marking it dirty where its code is written. -/
def State.mdTouch (s : State) (ch line w : Nat) (dirty : Bool) : State :=
  let x := s.chan ch
  let st := mgetD x.md (mdSet line) .empty
  let d := match mget st.ways w with | some e => e.dirty | none => false
  let st := (({ st with ways := mput st.ways w ⟨line, d || dirty⟩ } : CSet MdLine)).touch 16 w
  s.setChan ch { x with md := mput x.md (mdSet line) st }

/-- A metadata line comes into the cache; a dirty victim is written back (R247). -/
def State.mdFill (s : State) (ch line : Nat) (dirty : Bool) : State :=
  let st := mgetD (s.chan ch).md (mdSet line) .empty
  let w := (st.nruVictim 16 (fun _ => true)).getD 0
  let s := match mget st.ways w with | some e => s.mdClean ch e.line | none => s
  let st := mgetD (s.chan ch).md (mdSet line) .empty
  let s := s.setChan ch { s.chan ch with
    md := mput (s.chan ch).md (mdSet line) { st with ways := mput st.ways w ⟨line, false⟩ } }
  (s.arrWrite (16 + ch) 0 (line * 8)).mdTouch ch line w dirty

/-- The superline as stored. -/
def SLine.zero : SLine := ⟨0, 0, 0, 0, Vector.replicate 4 ⟨0, 0⟩, []⟩

def Chan.line (x : Chan) (sl : Nat) : SLine := mgetD x.sl sl .zero

/-- Store a superline; one of code 0x0 is what an unlisted one is. -/
def Chan.putLine (x : Chan) (sl : Nat) (l : SLine) : Chan :=
  { x with sl := if l.code = 0 then merase x.sl sl else mput x.sl sl l }

/-- A stored superline under another code. -/
def Chan.recode (x : Chan) (sl : Nat) (code : BitVec 4) : Chan := x.putLine sl { x.line sl with code := code }

/-- A miscorrected metadata word: the code it gives the superline is a free value; a reserved one freezes the channel (R249,
R257, entry 30). -/
def State.mdMiscorrected (s : State) (ch sl line w : Nat) (dirty : Bool) : Sum FreezeCause Bool × State :=
  let (v, s) := s.draw
  if 12 ≤ v.toNat % 16 then (.inl .mdCode, s)
  else (.inr true, (s.setChan ch ((s.chan ch).recode sl (v.setWidth 4))).mdTouch ch line w dirty)

/-- The metadata of a superline is looked up (R247, R253): whether it hit, or why the channel must freeze (R257, R415). -/
def State.mdLookup (s : State) (ch sl : Nat) (dirty : Bool) : Sum FreezeCause Bool × State :=
  let line := mdLine sl
  let word := sl / 16
  match (mgetD (s.chan ch).md (mdSet line) .empty).find (fun e => e.line == line) with
  | some (w, e) =>
    match s.arrJudge (16 + ch) 0 word with
    | (.clean, s) => (.inr true, s.mdTouch ch line w dirty)
    | (.corrected, s) => (.inr true, (s.arrCorrect (16 + ch) 0 word 0).mdTouch ch line w dirty)
    | (.uncorrectable, s) =>
      if e.dirty then (.inl .mdUncorrectable, s)
      else (.inr true, (s.arrUncorr 0x02 (16 + ch) 0 word 0).mdTouch ch line w dirty)
    | (.beyond, s) => s.mdMiscorrected ch sl line w dirty
  | none =>
    let s := ((s.bump .MC_MDMISSCNT ch).charge 0 7 1 false).cmdSlots ch cmdRd [s.mdSlot ch line]
    match mgetD (s.chan ch).mdErr line 0 with
    | 0 => (.inr false, s.mdFill ch line dirty)
    | 1 => (.inr false, (s.dramCorrected ch (line % 2) 0 0).mdFill ch line dirty)
    | _ => (.inl .mdUncorrectable, s.bump .MC_UECNT ch)

/-! ### One superline operation -/

/-- A mask of bytes as a mask of bits. -/
def byteMask (n : Nat) (mask : Nat) : Nat :=
  (List.range n).foldl (fun acc i => if mask.testBit i then acc + 255 * 2 ^ (8 * i) else acc) 0

/-- Bytes of new data merged over old (R255). -/
def mergeBytes (old new : Superline) (mask : BitVec 256) : Superline :=
  let m := BitVec.ofNat 2048 (byteMask 256 mask.toNat)
  (new &&& m) ||| (old &&& ~~~m)

/-- Sectors js of one superline put into another. -/
def putSectors (old new : Superline) (js : List Nat) : Superline :=
  js.foldl (fun d j => mergeBytes d new ((BitVec.allOnes 64).setWidth 256 <<< (64 * j))) old

/-- What decryption under the seals of a request makes of the stored image: a burst under another key pair or tweak gives
an open value (R284, R285). -/
def SLine.decrypted (l : SLine) (seals : Vector Config.Seal 4) : Superline :=
  if l.keys = seals then l.image
  else if l.code = 1 then
    (List.finRange 4).foldl (fun d j =>
      if l.keys[j] = seals[j] then d else putSectors d (Config.wrongKey l.image l.keys[j] seals[j]) [j.val]) l.image
  else Config.wrongKey l.image l.keys[0] seals[0]

/-- The plaintext that a request finds under its seals (R264, R284, R285). -/
def SLine.plain (l : SLine) (seals : Vector Config.Seal 4) : Superline :=
  if l.code = 0 then 0 else decodeImage l.code.toNat (l.decrypted seals)

/-- Bursts js of a superline of code 0x1 are stored under the seals of a request; the others stay as they are (R255). -/
def SLine.store (l : SLine) (seals : Vector Config.Seal 4) (d : Superline) (js : List Nat) : SLine :=
  if l.keys = seals then { l with image := d }
  else { l with image := putSectors l.image d js,
                keys := Vector.ofFn (fun i => if js.contains i.val then seals[i] else l.keys[i]) }

/-- The bursts of a stored image. -/
def SLine.bursts (l : SLine) : List Nat := List.range (codeBursts l.code.toNat)

/-- Bursts whose symbol code is judged: one that holds the poison pattern counts no symbol error (R286). -/
def SLine.judged (l : SLine) (js : List Nat) : List Nat := js.filter (fun j => !l.poison.getLsbD j)

/-- What a read returns: data, sectors returned, and those of them that are uncorrectable (R253, R257). -/
structure Fetch where
  data : Superline
  got  : BitVec 4
  ue   : BitVec 4
deriving DecidableEq, Repr

/-- Sector bits of a list of sectors. -/
def sectBits (l : List Nat) : BitVec 4 := l.foldl (fun b j => b ||| (1#4 <<< j)) 0

/-- The sectors of a bit set. -/
def sectList (b : BitVec 4) : List Nat := (List.range 4).filter (fun j => b.getLsbD j)

/-- The uncorrectable sectors of a superline whose bursts `bad` failed (R257, R416). -/
def SLine.ueOf (l : SLine) (bad : List Nat) : BitVec 4 :=
  if l.code.toNat ≤ 1 then l.poison ||| sectBits bad else if bad.isEmpty then 0 else 0xF

/-- Data bursts that a request moves are counted and charged, each with its four AES blocks (R357, R358, R488). -/
def State.countBursts (s : State) (ch : Nat) (r : Req) (rd moved base : Nat) : State :=
  let s := (s.bumpBy .MC_BURSTRD rd ch).bumpBy .MC_BURSTSV (base - moved) ch
  (s.chargeSrc r.src r.tid.val 7 moved r.c0).chargeSrc r.src r.tid.val 15 (4 * moved) r.c0

/-- The request that the channel has carried out last. -/
def State.setLast (s : State) (ch : Nat) (q : QReq) : State := s.setChan ch { s.chan ch with last := some q }

/-- A read of a superline by a channel in service (R253, R256). -/
def State.chanRead (s : State) (ch : Nat) (q : QReq) : Sum FreezeCause Fetch × State :=
  let r := q.req
  let sl := r.sline.toNat
  match s.mdLookup ch sl false with
  | (.inl c, s) => (.inl c, s)
  | (.inr hit, s) =>
    let l := (s.chan ch).line sl
    let tid := r.tid.val
    if 12 ≤ l.code.toNat then (.inl .mdCode, s)
    else
      let want := sectList r.sect
      let checked := if l.code = 1 then (if hit && !r.y then want else [0, 1, 2, 3]) else l.bursts
      let moved := if r.y || !hit then 4 else checked.length
      let s := (s.countBursts ch r moved moved want.length).cmdBursts ch cmdRd sl (if moved = 4 then [0, 1, 2, 3] else checked)
      let (bad, s) := s.burstsRead ch sl tid l.bad (l.judged checked)
      let got : BitVec 4 := if l.code = 1 then r.sect else 0xF
      let s := if bad.isEmpty then s else s.countUe ch
      (.inr ⟨l.plain (s.sealOf ch sl tid), got, l.ueOf bad &&& got⟩, s.setLast ch q)

/-- The mask of a sector's bytes. -/
def sectMask (mask : BitVec 256) (j : Nat) : BitVec 64 := (mask >>> (64 * j)).setWidth 64

/-- Sectors that a write covers, and those it covers wholly (R255). -/
def covered (mask : BitVec 256) : List Nat := (List.range 4).filter (fun j => decide (sectMask mask j ≠ 0))
def wholly (mask : BitVec 256) : List Nat := (List.range 4).filter (fun j => decide (sectMask mask j = BitVec.allOnes 64))

/-- What R255 makes of the sectors: which bursts a write reads first. -/
def writeReads (y : Bool) (cw : Bool) (code : Nat) (mask : BitVec 256) : List Nat :=
  let whole := wholly mask
  let part := (covered mask).filter (fun j => !whole.contains j)
  let rest := [0, 1, 2, 3].filter (fun j => !whole.contains j)
  if y then [0, 1, 2, 3]
  else if code = 0 then []
  else if cw then (if code = 1 then rest else List.range (codeBursts code))
  else if whole.length = 4 then []
  else if code = 1 then part
  else List.range (codeBursts code)

/-- A write of a superline by a channel in service: merge, quantise, encode, store, as one action (R251, R255, R257,
R416). What TEASEL was when it arrived governs it (R269). -/
def State.chanWrite (s : State) (ch : Nat) (q : QReq) : Sum FreezeCause Unit × State :=
  let r := q.req
  let pois := q.pois
  let sl := r.sline.toNat
  let tid := r.tid.val
  let cw := cwOf r.codec
  let whole := wholly r.mask
  let part := (covered r.mask).filter (fun j => !whole.contains j)
  let code := ((s.chan ch).line sl).code.toNat
  let stays := !r.y && cw.isNone && code == 1 && whole.length != 4
  match s.mdLookup ch sl (!stays) with
  | (.inl c, s) => (.inl c, s)
  | (.inr _, s) =>
    let l := (s.chan ch).line sl
    let code := l.code.toNat
    let stays := stays && code == 1
    if 12 ≤ code then (.inl .mdCode, s)
    else
      let reads := writeReads r.y cw.isSome code r.mask
      let checked := if code ≤ 1 then (if code = 0 then [] else reads)
        else if reads.isEmpty then [] else l.bursts
      let s := if reads.isEmpty then s else (s.bump .MC_RMWCNT ch).cmdBursts ch cmdRd sl reads
      let (bad, s) := s.burstsRead ch sl tid l.bad (l.judged checked)
      let lost := l.ueOf bad
      -- a sector is poisoned if it was lost and is not wholly covered, or its new data is poison; in the third row of
      -- R255 the code stays 0x1 and the covered bursts alone are written
      let keep := sectBits ([0, 1, 2, 3].filter (fun j => !whole.contains j))
      let poison : BitVec 4 := (lost &&& keep) ||| (pois &&& sectBits (covered r.mask))
      let seals := s.sealOf ch sl tid
      let merged := mergeBytes (l.plain seals) r.data r.mask
      let base := (covered r.mask).length + part.length
      let s := if bad.isEmpty then s else s.countUe ch
      if stays then
        let js := covered r.mask
        let s := (s.countBursts ch r reads.length (reads.length + js.length) base).cmdBursts ch cmdWr sl js
        let (b, s) := s.burstsWritten ch js l.bad
        let s := s.setChan ch ((s.chan ch).putLine sl { l.store seals merged js with poison := poison, tid := tid, bad := b })
        (.inr (), s.setLast ch q)
      else
        let quant := if poison = 0 && !r.y then (match cw with | some (t, m) => cwApply t m merged | none => merged) else merged
        let s := match cw with
          | some (t, m) => if poison = 0 && !r.y then s.bumpBy .MC_CWEXACT (cwExact t m merged) ch else s
          | none => s
        let e := encodeSuper (q.teasel.getLsbD ch) r.codec (r.y || decide (poison ≠ 0)) quant
        let js := List.range (codeBursts e.1)
        let s := (s.countBursts ch r reads.length (reads.length + js.length) base).cmdBursts ch cmdWr sl js
        let (b, s) := s.burstsWritten ch js []
        let s := s.setChan ch ((s.chan ch).putLine sl ⟨BitVec.ofNat 4 e.1, e.2, poison, tid, seals, b⟩)
        (.inr (), s.setLast ch q)

/-! ### Routing within a pair, and queues -/

/-- The channel is in service and carries out commands. -/
def State.chanUp (s : State) (ch : Nat) : Bool :=
  s.domOn (mcDom ch) && s.flag F.MC_STAT_INSVC ch && !s.flag F.MC_STAT_FROZEN ch && !s.flag F.MC_MIRSTAT_REBUILDING ch

/-- The channel takes writes (R287): a rebuild takes them on both. -/
def State.takesWrites (s : State) (ch : Nat) : Bool :=
  s.domOn (mcDom ch) && (s.flag F.MC_STAT_INSVC ch || s.flag F.MC_MIRSTAT_REBUILDING ch) && !s.flag F.MC_STAT_FROZEN ch

/-- Unanswered reads of a channel (R225). -/
def State.unanswered (s : State) (ch : Nat) : Nat := (s.chan ch).c0q.length + (s.chan ch).rdq.length

/-- The channel that a read of a pair goes to: the one with fewer unanswered reads, the even one on a tie (R225). `c` is the
lowest that can serve it, `rest` the others. -/
def State.fewer (s : State) (c : Nat) (rest : List Nat) : Nat :=
  if rest.any (fun d => decide (s.unanswered d < s.unanswered c)) then pairOf c else c

/-- What becomes of a request at a channel. -/
inductive DramOut where
  | done (f : Fetch)
  | noMemory
  | withdrawn
  | held
deriving DecidableEq, Repr

/-- A master that asks again while a frozen channel holds its write: a DMA channel, whose transfer waits at that piece. -/
def retries (src : ReqSrc) : Bool := match src with | .dma _ _ => true | _ => false

/-- A request is put on a frozen channel's deferral list, or fails where it is full (R289). A request asked again while it
is listed is listed once. -/
def State.deferReq (s : State) (ch : Nat) (q : QReq) : DramOut × State :=
  let x := s.chan ch
  if x.defer.any (fun e => e.req == q.req && e.write == q.write && (!q.write || retries q.req.src)) then (.held, s)
  else if 256 ≤ x.defer.length then (.withdrawn, s.bump .MC_DEFOVFCNT ch)
  else (.held, (s.setChan ch { x with defer := x.defer ++ [q] }).setFld F.MC_FRZSTAT_DEFERRED (x.defer.length + 1) ch)

/-- A superline written to the partner alone is logged, up to 1,024 (R287, R290). -/
def State.logResync (s : State) (ch sl : Nat) : State :=
  let x := s.chan ch
  if x.resync.contains sl then s
  else if 1024 ≤ x.resync.length then s.setFld F.MC_FRZSTAT_RESYNCOVF 1 ch
  else s.setChan ch { x with resync := x.resync ++ [sl] }

/-- The channels of a request: the pair, or the one channel. -/
def chansOf (ch : Nat) (mirror : Bool) : List Nat := if mirror then [ch - ch % 2, ch - ch % 2 + 1] else [ch]

/-- The frozen channel on whose list the requests of a pair wait: the one that froze first (R287). -/
def State.waitOn (s : State) (cs : List Nat) : Option Nat :=
  (cs.filter (fun c => s.flag F.MC_STAT_FROZEN c)).foldl (fun best c =>
    match best with
    | none => some c
    | some b => if (s.chan c).frzSeq < (s.chan b).frzSeq then some c else some b) none

/-- Nothing of the pair can take the request (R287, R289, R290). -/
def State.cannotServe (s : State) (cs : List Nat) (q : QReq) : DramOut × State :=
  match s.waitOn cs with
  | some c => s.deferReq c q
  | none => if cs.any (fun c => s.flag F.MC_STAT_RETIRED c) then (.withdrawn, s) else (.noMemory, s)

/-- The writes that wait for a superline, in their order of arrival (R276). -/
def State.waiting (s : State) (ch sl : Nat) : List QReq :=
  ((s.chan ch).wrq.filter (fun q => q.req.sline.toNat == sl)).foldl (fun l q =>
    l.filter (fun e => decide (e.seq ≤ q.seq)) ++ q :: l.filter (fun e => decide (q.seq < e.seq))) []

/-- Waiting writes merged over what a read fetched, in their order of arrival (R276). -/
def overlay (f : Fetch) (ws : List QReq) : Fetch :=
  ws.foldl (fun f q =>
    let whole := sectBits (wholly q.req.mask)
    { f with data := mergeBytes f.data q.req.data q.req.mask,
             ue := ((f.ue &&& ~~~whole) ||| (q.pois &&& sectBits (covered q.req.mask))) &&& f.got }) f

/-- A read at a channel in service, with the writes that wait for its superline (R276). -/
def State.readAt (s : State) (ch : Nat) (q : QReq) : Sum FreezeCause Fetch × State :=
  let ws := s.waiting ch q.req.sline.toNat
  let all := sectBits (wholly (ws.foldl (fun m q => m ||| q.req.mask) 0))
  if q.req.sect &&& ~~~all = 0 && !ws.isEmpty then (.inr (overlay ⟨0, q.req.sect, 0⟩ ws), s)
  else match s.chanRead ch q with
    | (.inr f, s) => (.inr (overlay f ws), s)
    | (.inl c, s) => (.inl c, s)

/-- A read reaches the channels of its range (R225, R257, R287). A metadata freeze sends it round once more for each
channel of the pair. -/
def State.routeRead (s : State) (fuel ch : Nat) (mirror : Bool) (q : QReq) : DramOut × State :=
  let cs := chansOf ch mirror
  let up := cs.filter (fun c => s.chanUp c)
  match fuel with
  | 0 => s.cannotServe cs q
  | n + 1 =>
    match up with
    | [] => s.cannotServe cs q
    | c :: rest =>
      let c := s.fewer c rest
      if !s.keyLoaded (mcSlot c) q.req.tid.val then (.noMemory, s.bump .MC_NOKEYCNT c)
      else match s.readAt c q with
        | (.inr f, s) => (.done f, s)
        | (.inl cause, s) => (s.freeze c cause (some q.req.sline.toNat)).routeRead n ch mirror q

/-- Write-queue occupancy (R274). -/
def State.wrqLen (s : State) (ch : Nat) : Nat := min 128 (s.chan ch).wrq.length

/-- A drain starts where the occupancy has reached MC_WQ_HI (R275). -/
def State.drainStart (s : State) (ch : Nat) : State :=
  if s.fld F.MC_WQ_HI_LEVEL ch ≤ s.wrqLen ch then s.setFld F.MC_QSTAT_DRAIN 1 ch else s

/-- A drain ends where the occupancy has fallen to MC_WQ_LO (R275). -/
def State.drainEnd (s : State) (ch : Nat) : State :=
  if s.wrqLen ch ≤ s.fld F.MC_WQ_LO_LEVEL ch then s.setFld F.MC_QSTAT_DRAIN 0 ch else s

/-- A write joins the write queue, a C0 write ahead of every normal write (R274). -/
def State.enqueueWrite (s : State) (ch : Nat) (q : QReq) : State :=
  let x := s.chan ch
  let q := { q with seq := x.arrivals }
  let w := if q.req.c0 then x.wrq.filter (fun e => e.req.c0) ++ [q] ++ x.wrq.filter (fun e => !e.req.c0) else x.wrq ++ [q]
  (s.setChan ch { x with wrq := w, arrivals := x.arrivals + 1 }).drainStart ch

/-- A write on one channel: where a write of the superline waits, it waits behind it (R257). -/
def State.writeAt (s : State) (ch : Nat) (q : QReq) : Sum FreezeCause Unit × State :=
  if (s.waiting ch q.req.sline.toNat).isEmpty then s.chanWrite ch q
  else (.inr (), s.enqueueWrite ch q)

/-- The write is performed on every channel of the list; a metadata freeze leaves that channel to the resync log. -/
def State.writeEach (s : State) (cs : List Nat) (q : QReq) : Bool × State :=
  cs.foldl (fun acc c =>
    match acc.2.writeAt c q with
    | (.inr _, s) => (true, s)
    | (.inl cause, s) => (acc.1, (s.freeze c cause (some q.req.sline.toNat)).logResync c q.req.sline.toNat)) (false, s)

/-- A write reaches the channels of its range (R225, R287). -/
def State.routeWrite (s : State) (ch : Nat) (mirror : Bool) (q : QReq) : DramOut × State :=
  let cs := chansOf ch mirror
  match cs.filter (fun c => s.takesWrites c) with
  | [] => s.cannotServe cs q
  | up =>
    match up.find? (fun c => !s.keyLoaded (mcSlot c) q.req.tid.val) with
    | some c => (.noMemory, s.bump .MC_NOKEYCNT c)
    | none =>
      let s := (cs.filter (fun c => s.flag F.MC_STAT_FROZEN c)).foldl (fun s c => s.logResync c q.req.sline.toNat) s
      let (ok, s) := s.writeEach up q
      if ok then (.done ⟨0, 0, 0⟩, s) else s.cannotServe cs q

/-- Memory is asked for sectors of a superline by a request that is carried out at once. -/
def State.route (s : State) (ch : Nat) (mirror : Bool) (q : QReq) : DramOut × State :=
  if q.write then s.routeWrite ch mirror q else s.routeRead 3 ch mirror q

/-- The state of a request as its master sees it. -/
def DramOut.status (d : DramOut) : MemStatus :=
  match d with
  | .done f => if f.ue = 0 then .ok else .poisoned
  | .noMemory => .noMemory
  | .withdrawn => .withdrawn
  | .held => .withdrawn

/-- A lost writeback is recorded (R291). -/
def State.lostWriteback (s : State) (ch tid a : Nat) : State :=
  s.chanRecord ch { kind := 0x06, target := ch, sev := 2, tid := tid, addr := s.globalOf a }

/-- The outcome of a request goes to its master (R218, R291). -/
def State.respond (s : State) (ch : Nat) (q : QReq) (d : DramOut) : State :=
  let a := s.addrOf ch q.req.sline.toNat
  match d with
  | .held => s
  | .done f => s.emit (.mem q.req.src d.status f.ue f.data)
  | .noMemory => (s.noMemory q.req.tid.val (s.globalOf a)).emit (.mem q.req.src .noMemory 0 0)
  | .withdrawn =>
    let s := match q.req.src with
      | .writeback _ => s.lostWriteback ch q.req.tid.val a
      | _ => s
    s.emit (.mem q.req.src .withdrawn 0 0)

/-- A request that is served when the commands of its channel allow: it is routed again and answered. -/
def State.serve (s : State) (ch : Nat) (q : QReq) : State :=
  let (d, s) := s.route ch (s.mirroredAt ch q.req.sline.toNat) q
  s.respond ch q d

end Sys2Proof.Machine
end

