-- ==== Sys2Proof/Machine/ChanOps.lean ====
section
/-! DEFINITION. The commands of the memory channels: requests and queues, scheduling, refresh, freezes, rebuild, service
and the channel registers (R245 to R295, R487). -/
namespace Sys2Proof.Machine

/-! ### Requests -/

/-- A read joins its queue (R274); a C0 read that finds four or more ahead is counted (R282). -/
def State.enqueueRead (s : State) (ch : Nat) (q : QReq) : State :=
  let x := s.chan ch
  let q := { q with seq := x.arrivals, inWin := s.flag F.MC_STAT_C0WIN ch }
  let s := s.setChan ch (if q.req.c0 then { x with c0q := x.c0q ++ [q], arrivals := x.arrivals + 1 }
    else { x with rdq := x.rdq ++ [q], arrivals := x.arrivals + 1 })
  if q.req.c0 && decide (4 ≤ x.c0q.length) then s.bump .MC_C0DEEPCNT ch else s

/-- The TEASEL bits of the channels (R269). -/
def State.teasels (s : State) : BitVec 16 :=
  (List.range 16).foldl (fun b c => if s.flag F.MC_CMPCTL_TEASEL c then b ||| (1#16 <<< c) else b) 0

/-- A request that arrives now. -/
def State.arriving (s : State) (r : Req) (write : Bool) (pois : BitVec 4 := 0) : QReq :=
  ⟨r, write, pois, s.aoTime, 0, s.teasels, false⟩

/-- The queue of a request has room, and no request for it waits at the mesh stop (R274, R275). -/
def State.hasRoom (s : State) (ch : Nat) (q : QReq) : Bool :=
  let x := s.chan ch
  !x.stop.any (fun e => e.write == q.write && (q.write || e.req.c0 == q.req.c0)) &&
    decide (if q.write then x.wrq.length < 128 else if q.req.c0 then x.c0q.length < 16 else x.rdq.length < 64)

/-- A request waits at the channel's mesh stop for room (R275). -/
def State.waitAtStop (s : State) (ch : Nat) (q : QReq) : State :=
  s.setChan ch { s.chan ch with stop := (s.chan ch).stop ++ [q] }

/-- A read goes into the queue of the channel that will serve it (R225, R274, R287). -/
def State.submitRead (s : State) (ch : Nat) (q : QReq) : State :=
  match (chansOf ch (s.mirroredAt ch q.req.sline.toNat)).filter (fun c => s.chanUp c) with
  | [] => s.serve ch q
  | c :: rest =>
    let c := s.fewer c rest
    if !s.keyLoaded (mcSlot c) q.req.tid.val then s.serve ch q
    else if s.hasRoom c q then s.enqueueRead c q
    else s.waitAtStop c q

/-- A write goes into the write queue of each channel that takes it, which completes it for its requester (R225, R274,
R287). -/
def State.submitWrite (s : State) (ch : Nat) (q : QReq) : State :=
  let cs := chansOf ch (s.mirroredAt ch q.req.sline.toNat)
  let up := cs.filter (fun c => s.takesWrites c)
  if up.isEmpty || up.any (fun c => !s.keyLoaded (mcSlot c) q.req.tid.val) then s.serve ch q
  else match up.find? (fun c => !s.hasRoom c q) with
    | some c => s.waitAtStop c q
    | none =>
      let s := (cs.filter (fun c => s.flag F.MC_STAT_FROZEN c)).foldl (fun s c => s.logResync c q.req.sline.toNat) s
      let s := up.foldl (fun s c => s.enqueueWrite c q) s
      s.emit (.mem q.req.src .ok 0 0)

def State.submit (s : State) (ch : Nat) (q : QReq) : State := if q.write then s.submitWrite ch q else s.submitRead ch q

/-- The requests at a mesh stop try their queues again, in order. -/
def State.admitStop (s : State) (ch : Nat) : State :=
  let l := (s.chan ch).stop
  if l.isEmpty then s else l.foldl (fun s q => s.submit ch q) (s.setChan ch { s.chan ch with stop := [] })

/-! ### Serving the queues -/

/-- A waiting write is carried out; a metadata error freezes the channel and leaves it waiting (R257). -/
def State.writeOne (s : State) (ch : Nat) (q : QReq) : State :=
  let x := s.chan ch
  match (s.setChan ch { x with wrq := x.wrq.filter (fun e => decide (e ≠ q)) }).chanWrite ch q with
  | (.inr _, s) => s.drainEnd ch
  | (.inl cause, t) => (t.setChan ch { t.chan ch with wrq := x.wrq }).freeze ch cause (some q.req.sline.toNat)

/-- The write of the queue whose turn it is: the first of the queue, or an earlier one of its superline (R257, R276). -/
def State.turnWrite (s : State) (ch : Nat) : Option QReq :=
  match (s.chan ch).wrq with
  | [] => none
  | q :: _ => (s.waiting ch q.req.sline.toNat).head?

/-- The write whose turn it is is carried out. -/
def State.doWrite (s : State) (ch : Nat) : State :=
  match s.turnWrite ch with
  | none => s
  | some q => (s.writeOne ch q).admitStop ch

/-- No all-bank refresh may start: in a C0 window, and while a C0 read that arrived inside one waits (R281). -/
def State.refBlocked (s : State) (ch : Nat) : Bool :=
  s.flag F.MC_STAT_C0WIN ch || (s.chan ch).c0q.any (fun q => q.inWin)

/-- All-bank refreshes (R281, R358). -/
def State.allBank (s : State) (ch n : Nat) : State :=
  (List.range n).foldl (fun s _ => (s.charge 0 9 1 false).cmdBank ch cmdRef 0 0) s

/-- The refreshes of a refresh window: every owed interval, and with PULLIN some more are pulled in, at most four held.
How many fit before the window ends is left to the devices' timing: a free value (R281, entry 6). -/
def State.refreshWindow (s : State) (ch : Nat) : State :=
  let x := s.chan ch
  let owed := s.fld F.MC_STAT_OWED ch
  let (w, s) := s.draw
  let n := if s.flag F.MC_REFCTL_PULLIN ch then w.toNat % (4 - x.pulled + 1) else 0
  ((s.setFld F.MC_STAT_OWED 0 ch).setChan ch { x with refDue := false, pulled := x.pulled + n }).allBank ch (owed + n)

/-- The refreshes that waited for the C0 reads of the window before. -/
def State.refreshDue (s : State) (ch : Nat) : State :=
  if (s.chan ch).refDue && !s.refBlocked ch then s.refreshWindow ch else s

/-- A queued read is carried out by the channel in whose queue it is (R225); one that cannot is routed again. -/
def State.serveHere (s : State) (ch : Nat) (q : QReq) : State :=
  if s.chanUp ch && s.keyLoaded (mcSlot ch) q.req.tid.val then
    match s.readAt ch q with
    | (.inr f, s) => s.respond ch q (.done f)
    | (.inl cause, s) => (s.freeze ch cause (some q.req.sline.toNat)).serve ch q
  else s.serve ch q

/-- The oldest read of a queue is carried out and answered. -/
def State.doRead (s : State) (ch : Nat) (c0 : Bool) : State :=
  let x := s.chan ch
  match (if c0 then x.c0q else x.rdq) with
  | [] => s
  | q :: rest =>
    (((s.setChan ch (if c0 then { x with c0q := rest } else { x with rdq := rest })).serveHere ch q).refreshDue ch).admitStop ch

/-- A request that is carried out at once passes its queue (R274): it is counted as one that waits is (R282), and where the
queue is full the request whose turn it is goes first. -/
def State.passQueue (s : State) (ch : Nat) (mirror : Bool) (q : QReq) : State :=
  if q.write then
    ((chansOf ch mirror).filter (fun c => s.takesWrites c)).foldl (fun s c =>
      if 128 ≤ (s.chan c).wrq.length then s.doWrite c else s) s
  else match (chansOf ch mirror).filter (fun c => s.chanUp c) with
    | [] => s
    | c :: rest =>
      let c := s.fewer c rest
      if q.req.c0 then
        let s := if 16 ≤ (s.chan c).c0q.length then s.doRead c true else s
        if 4 ≤ (s.chan c).c0q.length then s.bump .MC_C0DEEPCNT c else s
      else if 64 ≤ (s.chan c).rdq.length then s.doRead c false else s

/-- A read reaches a channel: it is served at once, or waits in its queue. -/
def State.actRead (s : State) (ch : Nat) (r : Req) (how : Service) : State :=
  let q := s.arriving r false
  match how with
  | .atOnce => (s.passQueue ch (s.mirroredAt ch r.sline.toNat) q).serve ch q
  | .queued => s.submitRead ch q

/-- A write reaches a channel: it is carried out at once, or waits in its queue. -/
def State.actWrite (s : State) (ch : Nat) (r : Req) (how : Service) : State :=
  let q := s.arriving r true
  match how with
  | .atOnce => (s.passQueue ch (s.mirroredAt ch r.sline.toNat) q).serve ch q
  | .queued => s.submitWrite ch q

/-- SUPERLINE_READ (R253, R274). -/
def execSuperlineRead (ch : Fin 16) (r : Req) (how : Service) (s : State) : Host.Outcome State Fault Refusal :=
  .next (s.actRead ch.val r how)

/-- SUPERLINE_WRITE (R255, R274). -/
def execSuperlineWrite (ch : Fin 16) (r : Req) (how : Service) (s : State) : Host.Outcome State Fault Refusal :=
  .next (s.actWrite ch.val r how)

/-! ### Scheduling -/

/-- A line of a metadata flush is written (R487). -/
def State.doFlush (s : State) (ch : Nat) : State :=
  match (s.chan ch).flush with
  | [] => s
  | l :: _ => (s.mdClean ch l).mdFlushed ch l

/-- The writes that wait for a superline are carried out. -/
def State.settleLine (s : State) (ch sl : Nat) : State := (s.waiting ch sl).foldl (fun s q => s.writeOne ch q) s

/-- A superline is copied from the partner, image and code, with the writes that wait for it there (R287); its
uncorrectable sectors arrive as poison. -/
def State.copyLine (s : State) (dst src sl : Nat) : State :=
  let s := s.settleLine src sl
  let l := (s.chan src).line sl
  let n := l.bursts.length
  let s := ((s.bumpBy .MC_BURSTRD n src).charge 0 7 n false).cmdBursts src cmdRd sl l.bursts
  let (bad, s) := s.burstsRead src sl l.tid l.bad (l.judged l.bursts)
  let s := if bad.isEmpty then s else s.countUe src
  let ue := l.ueOf bad
  let l : SLine := if bad.isEmpty then l else ⟨1, decodeImage l.code.toNat l.image, ue, l.tid, l.keys, []⟩
  let s := match s.mdLookup dst sl true with
    | (.inl _, s) => s
    | (.inr _, s) => s
  let s := (s.charge 0 7 l.bursts.length false).cmdBursts dst cmdWr sl l.bursts
  let (b, s) := s.burstsWritten dst l.bursts []
  s.setChan dst ((s.chan dst).putLine sl { l with bad := b })

/-- Superline number n of the mirrored extents of a channel, in ascending order. -/
def extentNth (es : List (Nat × Nat)) (n : Nat) : Option Nat :=
  match es with
  | [] => none
  | e :: rest => if n < e.2 then some (e.1 + n) else extentNth rest (n - e.2)

/-- The mirrored extents of a channel in ascending order of superline. -/
def State.extentsUp (s : State) (ch : Nat) : List (Nat × Nat) :=
  (s.mirrorExtents ch).mergeSort (fun a b => decide (a.1 ≤ b.1))

/-- One superline of a rebuild is copied and PROGRESS advances (R287), while the partner carries out commands. -/
def State.doRebuild (s : State) (ch : Nat) : State :=
  if !s.chanUp (pairOf ch) then s
  else match extentNth (s.extentsUp ch) (s.fld F.MC_MIRSTAT_PROGRESS ch) with
    | none => s
    | some sl => (s.copyLine ch (pairOf ch) sl).setFld F.MC_MIRSTAT_PROGRESS (s.fld F.MC_MIRSTAT_PROGRESS ch + 1) ch

/-- Work that a channel picks at a command boundary. -/
inductive Work where
  | read (c0 : Bool)
  | write | flush | rebuild
deriving DecidableEq, Repr

/-- The work of a command boundary in the order of R275. A flush, a rebuild and drain writes have one priority, and one of
each is done, so that each waits only for C0 work (R287, R487). -/
def State.workAt (s : State) (ch : Nat) : List Work :=
  let x := s.chan ch
  let c0w := match x.wrq with | q :: _ => q.req.c0 | [] => false
  let third := (if s.flag F.MC_QSTAT_DRAIN ch && !x.wrq.isEmpty then [Work.write] else [])
    ++ (if x.flush.isEmpty then [] else [.flush]) ++ (if s.flag F.MC_MIRSTAT_REBUILDING ch then [.rebuild] else [])
  if !x.c0q.isEmpty then [.read true]
  else if c0w && s.flag F.MC_STAT_C0WIN ch then [.write]
  else if !third.isEmpty then third
  else if !x.rdq.isEmpty then [.read false] else [.write]

def State.doWork (s : State) (ch : Nat) (w : Work) : State :=
  match w with
  | .read c0 => s.doRead ch c0
  | .write => s.doWrite ch
  | .flush => s.doFlush ch
  | .rebuild => s.doRebuild ch

/-- The work of a command boundary. -/
def State.pick (s : State) (ch : Nat) : State := (s.workAt ch).foldl (fun s w => s.doWork ch w) s

/-- The request that the first work of a boundary carries out, whose activate it is (R358). -/
def State.workReq (s : State) (ch : Nat) : Option QReq :=
  let x := s.chan ch
  match s.workAt ch with
  | .read c0 :: _ => (if c0 then x.c0q else x.rdq).head?
  | .write :: _ => s.turnWrite ch
  | _ => none

/-! ### Refresh-class operations (R281, R283) -/

/-- A time is 500 ns ago or more. -/
def State.rested (s : State) (t : Option Nat) : Bool := match t with | some t => decide (50 ≤ s.aoTime - t) | none => true

/-- The spacing rule lets a bank, or with 512 every bank, undergo a refresh-class operation now. -/
def State.bankFree (s : State) (ch bank : Nat) : Bool :=
  let x := s.chan ch
  !s.flag F.MC_STAT_C0WIN ch ||
    (s.rested x.allRef &&
      if bank = 512 then x.lastRef.all (fun e => s.rested (some e.2)) else s.rested (mget x.lastRef bank))

/-- A refresh-class operation is issued. -/
def State.refOp (s : State) (ch bank : Nat) (code : BitVec 4) (row : BitVec 18) : State :=
  let x := s.chan ch
  let s := s.setChan ch (if bank = 512 then { x with allRef := some s.aoTime } else { x with lastRef := mput x.lastRef bank s.aoTime })
  (s.charge 0 9 1 false).cmdBank ch code (bank % 512) row

/-- A refresh-class operation is due: it is issued, or waits for the spacing rule. -/
def State.refOpDue (s : State) (ch bank : Nat) (code : BitVec 4) : State :=
  if s.bankFree ch bank then s.refOp ch bank code 0
  else s.setChan ch { s.chan ch with mgmt := (s.chan ch).mgmt ++ [(bank, code.toNat)] }

/-- A neighbour refresh is issued (R283). -/
def State.nbrIssue (s : State) (ch bank : Nat) (row : BitVec 18) : State :=
  (s.setFld F.MC_NBRREFCNT_COUNT (s.fld F.MC_NBRREFCNT_COUNT ch + 1) ch).refOp ch bank cmdRfm row

/-- The operations that waited are issued where the spacing rule lets them. -/
def State.serveMgmt (s : State) (ch : Nat) : State :=
  let l := (s.chan ch).mgmt
  if l.isEmpty then s
  else l.foldl (fun s m => s.refOpDue ch m.1 (BitVec.ofNat 4 m.2)) (s.setChan ch { s.chan ch with mgmt := [] })

/-- One pending sample of each bank is served where the spacing rule lets it (R283). -/
def State.serveNbr (s : State) (ch : Nat) : State :=
  (s.chan ch).nbr.foldl (fun s e =>
    match e.2 with
    | [] => s
    | row :: rest =>
      if s.bankFree ch e.1 then
        (s.setChan ch { s.chan ch with nbr := mset (s.chan ch).nbr e.1 rest [] }).nbrIssue ch e.1 row
      else s) s

/-- An opportunity for refresh-class operations. -/
def State.refreshTurn (s : State) (ch : Nat) : State := (s.serveMgmt ch).serveNbr ch

/-- An activate draws a sample (R283): the generator is reseeded at start and after every 2^20 activates, and keeps
its seed while the TRNG is stopped (R410). A sample that finds two pending goes ahead of them. -/
def State.activate (s : State) (ch : Nat) (bank : Nat) (row : BitVec 18) : State :=
  let s := match s.workReq ch with
    | some q => s.chargeSrc q.req.src q.req.tid.val 8 1 q.req.c0
    | none => s.charge 0 8 1 false
  let s := s.cmdBank ch cmdAct bank row
  let x := s.chan ch
  let (w, s) := if x.activates % 2 ^ 20 = 0 ∧ !s.flag F.THS_STAT_TRNGFAIL then s.trng64 else (x.nbrSeed, s)
  let s := s.setChan ch { s.chan ch with nbrSeed := w, activates := x.activates + 1 }
  if s.flag F.MC_RHCTL_EN ch && Config.nbrSample (w.toNat * 2 ^ 20 + x.activates % 2 ^ 20) (s.fld F.MC_RHCTL_K ch) then
    let pend := mgetD (s.chan ch).nbr bank []
    if 2 ≤ pend.length then
      let s := s.setFld F.MC_NBRREFCNT_OVF (s.fld F.MC_NBRREFCNT_OVF ch + 1) ch
      if s.bankFree ch bank then s.nbrIssue ch bank row
      else s.setChan ch { s.chan ch with nbr := mput (s.chan ch).nbr bank (row :: pend) }
    else s.setChan ch { s.chan ch with nbr := mput (s.chan ch).nbr bank (pend ++ [row]) }
  else s

/-- Refresh management that the devices demand after an activate (R283), a refresh-class operation: whether they do
belongs to their counters, so it is free (entry 123). -/
def State.refreshManagement (s : State) (ch bank : Nat) : State :=
  if s.flag F.MC_RHCTL_RFM ch then
    let (w, s) := s.draw
    if w.getLsbD 0 then s.refOpDue ch bank cmdRfm else s
  else s

/-- DRAM_COMMAND_BOUNDARY (R275, R283, R289): a frozen channel issues no new command except refresh. -/
def execDramCommandBoundary (ch : Fin 16) (act : Option (BankId × BitVec 18)) (s : State) :
    Host.Outcome State Fault Refusal :=
  let c := ch.val
  .next <|
    if !s.domOn (mcDom c) then s
    else
      let s := s.refreshTurn c
      if s.flag F.MC_STAT_FROZEN c || !(s.flag F.MC_STAT_INSVC c || s.flag F.MC_MIRSTAT_REBUILDING c) then s
      else
        let s := match act with | some (b, row) => (s.activate c b.val row).refreshManagement c b.val | none => s
        s.pick c

/-- WRITE_AGE_DRAIN (R275). -/
def execWriteAgeDrain (ch : Fin 16) (s : State) : Host.Outcome State Fault Refusal :=
  .next (if (s.chan ch.val).wrq.any (fun q => !q.req.c0) then s.setFld F.MC_QSTAT_DRAIN 1 ch.val else s)

/-- A write to MC_WQ_HI or MC_WQ_LO (R277, R294). -/
def State.actWq (s : State) (m : Master) (ch : Nat) (hi : Bool) (v : Word) : State :=
  let l := v.toNat % 256
  let reg : Reg := if hi then .MC_WQ_HI else .MC_WQ_LO
  let off := reg.off ch 0
  if (hi && (l == 0 || decide (128 < l))) || (!hi && decide (127 < l)) then s.ctlErr m true .reserved off
  else if (hi && decide (l ≤ s.fld F.MC_WQ_LO_LEVEL ch)) || (!hi && decide (s.fld F.MC_WQ_HI_LEVEL ch ≤ l)) then
    s.ctlErr m true .stateRule off
  else s.wr reg (BitVec.ofNat 64 l) ch

/-- WRITE_QUEUE_LIMIT_WRITE (R277). -/
def execWriteQueueLimitWrite (m : Master) (ch : Fin 16) (hi : Bool) (v : Word) (s : State) :
    Host.Outcome State Fault Refusal :=
  .next (s.ctlW m (if hi then .MC_WQ_HI else .MC_WQ_LO) ch.val 0 (fun s => s.actWq m ch.val hi v))

/-! ### Windows and refresh -/

/-- The kind of the window of channel ch that covers a 10 ns unit of the frame, in the plan in force; an uncorrectable
entry counts as empty (R278, R417). -/
def State.windowAt (s : State) (ch unit : Nat) : Nat :=
  match firstIdx 8 (fun w =>
      let o := 0x20_0000 + 8 * (8 * ch + w)
      let e := s.planWord o
      !s.planBad o && decide (getBits e 1 0 ≠ 0 ∧ getBits e 11 2 ≤ unit ∧ unit < getBits e 21 12)) with
  | some w => getBits (s.planWord (0x20_0000 + 8 * (8 * ch + w))) 1 0
  | none => 0

/-- The windows in force at a unit of the frame apply (R280, R281). -/
def State.setWindows (s : State) (ch unit : Nat) : State :=
  let k := s.windowAt ch unit
  let s := s.setFld F.MC_STAT_C0WIN (b2n (k == 1)) ch
  let was := (s.chan ch).refWin
  let s := s.setChan ch { s.chan ch with refWin := k == 2, refDue := k == 2 && (!was || (s.chan ch).refDue) }
  s.refreshDue ch

/-- DRAM_WINDOW_BOUNDARY (R280): before 20 ns the windows of the previous frame stay, and those that end at T_f last up to
the tick. -/
def execDramWindowBoundary (ch : Fin 16) (unit : Fin 1024) (s : State) : Host.Outcome State Fault Refusal :=
  .next (if !s.domOn (mcDom ch.val) || decide (unit.val < 2 ∨ s.tf ≤ unit.val) then s else s.setWindows ch.val unit.val)

/-- REFRESH_INTERVAL_DUE (R281, R283): outside a C0 window, while its reads still wait, a fifth interval may be owed too. -/
def execRefreshIntervalDue (ch : Fin 16) (s : State) : Host.Outcome State Fault Refusal :=
  let c := ch.val
  .next <|
    if !s.domOn (mcDom c) || !(s.chan c).trained then s
    else
      let s := s.setFld F.MC_STAT_TEMPHI (b2n (s.chan c).hotNext) c
      let x := s.chan c
      let owed := s.fld F.MC_STAT_OWED c
      let most := if s.flag F.MC_STAT_C0WIN c then 4 else 5
      let s := if 0 < x.pulled then s.setChan c { x with pulled := x.pulled - 1 }
        else if !s.refBlocked c then s.allBank c 1
        else if owed < most then s.setFld F.MC_STAT_OWED (owed + 1) c
        else if s.flag F.MC_REFCTL_SBREF c then s.refOpDue c 512 cmdRefSb
        else (s.bump .MC_REFSPLITCNT c).allBank c 1
      s.refreshTurn c

/-- MODE_REGISTER_4_POLL (R281): a change of rate applies from the next interval. -/
def execModeRegister4Poll (ch : Fin 16) (hot : Bool) (s : State) : Host.Outcome State Fault Refusal :=
  .next (if s.domOn (mcDom ch.val) && (s.chan ch.val).trained then
    (s.setChan ch.val { s.chan ch.val with hotNext := hot }).cmdBank ch.val cmdMrr 0 0 else s)

/-! ### Metadata -/

/-- Dirty lines of the metadata cache (R247, R269). -/
def Chan.dirtyLines (x : Chan) : List Nat :=
  x.md.flatMap (fun e => (e.2.ways.filter (fun w => w.2.dirty)).map (fun w => w.2.line))

/-- A write of MC_CMPCTL.MDFLUSH (R269, R487). -/
def State.actMdFlush (s : State) (ch : Nat) : State :=
  if s.flag F.MC_CMPSTAT_MDBUSY ch then s
  else
    let d := (s.chan ch).dirtyLines
    (s.setChan ch { s.chan ch with flush := d }).setFld F.MC_CMPSTAT_MDBUSY 1 ch

/-- A write to MC_CMPCTL (R269). -/
def State.actCmpCtl (s : State) (ch : Nat) (v : Word) : State :=
  let s := s.setFld F.MC_CMPCTL_TEASEL (F.MC_CMPCTL_TEASEL.of v) ch
  if bitOf v 1 then s.actMdFlush ch else s

/-- METADATA_FLUSH (R487): the write of MDFLUSH with TEASEL as it is. -/
def execMetadataFlush (m : Master) (ch : Fin 16) (s : State) : Host.Outcome State Fault Refusal :=
  .next (s.ctlW m .MC_CMPCTL ch.val 0 (fun s => s.actMdFlush ch.val))

/-- METADATA_FLUSH_DONE (R487): the lines that a flush has yet to write are written; a frozen channel writes none (R289). -/
def execMetadataFlushDone (ch : Fin 16) (s : State) : Host.Outcome State Fault Refusal :=
  let c := ch.val
  .next <|
    if s.flag F.MC_CMPSTAT_MDBUSY c && !s.flag F.MC_STAT_FROZEN c then
      let ls := (s.chan c).flush
      (ls.foldl (fun s l => (s.mdClean c l).mdFlushed c l) s).setFld F.MC_CMPSTAT_MDBUSY 0 c
    else s

/-! ### Service -/

/-- The population that MC_CFG names is one that R270 lists. -/
def State.popOk (s : State) (ch : Nat) : Bool :=
  let rate := s.fld F.MC_CFG_RATE ch
  let two := s.flag F.MC_CFG_DPC ch
  let cap := s.fld F.MC_CFG_CAPG ch
  decide (cap ≤ 512) &&
    (if s.flag F.MC_CFG_MTYPE ch then !two && decide (2 ≤ rate ∧ rate ≤ 5 ∧ 32 ≤ cap)
     else decide (rate ≤ 2) && decide ((if two then 32 else 16) ≤ cap))

/-- A channel that is trained and whose metadata is clear enters service; a retired one waits for a rebuild (R272,
R287). -/
def State.enterService (s : State) (ch : Nat) : State :=
  if (s.chan ch).trained && s.flag F.MC_CMPSTAT_MDREADY ch && !s.flag F.MC_STAT_RETIRED ch then
    s.setFld F.MC_STAT_INSVC 1 ch
  else s

/-- CHANNEL_TRAINING_DONE (R271, R272). -/
def execChannelTrainingDone (ch : Fin 16) (ok : Bool) (s : State) : Host.Outcome State Fault Refusal :=
  let c := ch.val
  .next <|
    if !s.domOn (mcDom c) then s
    else if !s.popOk c then s.setFld F.MC_STAT_UNSUP 1 c
    else (s.setChan c { s.chan c with trained := ok }).enterService c

/-- METADATA_CLEAR_DONE (R248): every superline reads as zero until it is written. -/
def execMetadataClearDone (ch : Fin 16) (s : State) : Host.Outcome State Fault Refusal :=
  let c := ch.val
  .next <|
    if !s.domOn (mcDom c) || s.flag F.MC_STAT_INSVC c || s.flag F.MC_MIRSTAT_REBUILDING c then s
    else
      ((s.setChan c { s.chan c with sl := [], md := [], mdErr := [], flush := [] }).setFld F.MC_CMPSTAT_MDREADY 1 c).enterService c

/-- A write to MC_CFG (R272, R294, R447). -/
def State.actMcCfg (s : State) (m : Master) (ch : Nat) (v : Word) : State :=
  let off := Reg.MC_CFG.off ch 0
  let rate := F.MC_CFG_RATE.of v
  let mr := bitOf v 5
  if s.board.locked then s.ctlErr m true .locked off
  else if 5 < rate ∨ F.MC_CFG_STACK.of v = 3 ∨ (mr && bitOf v 4) ∨ (!mr && decide (2 < rate)) then
    s.ctlErr m true .reserved off
  else s.wr .MC_CFG (v &&& Reg.MC_CFG.row.lk) ch

/-! ### Freezes -/

/-- CHANNEL_FREEZE (R288, R289); a metadata cause names a superline of the failed line (R290). -/
def execChannelFreeze (ch : Fin 16) (trig : FreezeTrigger) (s : State) : Host.Outcome State Fault Refusal :=
  .next (s.freeze ch.val trig.cause (if trig.cause = .mdUncorrectable ∨ trig.cause = .mdCode then some trig.sline.toNat else none))

/-- Entries at consecutive positions. -/
def placed (k : Nat) (l : List QReq) : SMap QReq := (l.zipIdx k).map (fun e => (e.2, e.1))

/-- FREEZE_SNAPSHOT_DONE (R289, R295, R450). -/
def execFreezeSnapshotDone (ch : Fin 16) (s : State) : Host.Outcome State Fault Refusal :=
  let c := ch.val
  let x := s.chan c
  .next <|
    match x.snap with
    | none => s
    | some p =>
      if s.flag F.MC_STAT_FROZEN c then
        (s.setChan c { x with snap := some { p with
          synd := x.synd, history := x.history,
          queues := placed 0 (x.c0q.take 16) ++ placed 16 (x.rdq.take 64) ++ placed 80 (x.wrq.take 128),
          deferred := x.defer, resync := x.resync } }).keeperInt 2
      else s

/-- The requests of a channel's list are answered again. -/
def State.serveAll (s : State) (ch : Nat) (qs : List QReq) : State := qs.foldl (fun s q => s.serve ch q) s

/-- The requests that a decision on channel c releases (R287, R290): its own, and those of the pair on its partner's list
where c returns to service; a retired channel keeps those of the pair while its partner is frozen. -/
def State.release (s : State) (c : Nat) : State :=
  let p := pairOf c
  let pair (q : QReq) : Bool := s.mirroredAt c q.req.sline.toNat
  let mine := (s.chan c).defer
  let theirs := (s.chan p).defer
  if s.flag F.MC_STAT_RETIRED c && s.flag F.MC_STAT_FROZEN p then
    let s := (s.setChan c { s.chan c with defer := mine.filter pair }).setFld F.MC_FRZSTAT_DEFERRED (mine.filter pair).length c
    s.serveAll c (mine.filter (fun q => !pair q))
  else
    let s := (s.setChan c { s.chan c with defer := [] }).setFld F.MC_FRZSTAT_DEFERRED 0 c
    let s := (s.setChan p { s.chan p with defer := theirs.filter (fun q => !pair q) }).setFld F.MC_FRZSTAT_DEFERRED
      (theirs.filter (fun q => !pair q)).length p
    s.serveAll c (mine ++ theirs.filter pair)

/-- Logged superlines are copied from the partner (R290). -/
def State.resyncAll (s : State) (c : Nat) : State :=
  let l := (s.chan c).resync
  let s := l.foldl (fun s sl => s.copyLine c (pairOf c) sl) s
  s.setChan c { s.chan c with resync := [] }

/-- The 128 superlines of the metadata line that froze the channel are made readable again: copied from the partner in a
mirrored range, poisoned otherwise (R290). -/
def State.mdRepair (s : State) (c : Nat) : State :=
  match (s.chan c).mdFix with
  | none => s
  | some sl0 =>
    let line := mdLine sl0
    let x := s.chan c
    let st := mgetD x.md (mdSet line) .empty
    let s := s.setChan c { x with
      mdErr := merase x.mdErr line, mdFix := none,
      md := mput x.md (mdSet line) { st with ways := st.ways.filter (fun e => e.2.line != line) } }
    let s := { s with errs := (List.range 8).foldl (fun m i => merase m (errKey (16 + c) 0 (line * 8 + i))) s.errs }
    (List.range 128).foldl (fun s i =>
      let sl := line * 128 + i
      if s.mirroredAt c sl && s.takesWrites (pairOf c) then s.copyLine c (pairOf c) sl
      else s.setChan c ((s.chan c).putLine sl ⟨1, 0, 0xF, ((s.chan c).line sl).tid, ((s.chan c).line sl).keys, []⟩)) s

/-- The channel leaves service (R290): what it held unmirrored fails WITHDRAWN, and a mirrored pair goes on with the
partner. -/
def State.retireChan (s : State) (c : Nat) : State :=
  let s := (s.setFld F.MC_STAT_INSVC 0 c).setFld F.MC_STAT_RETIRED 1 c
  let s := if s.mirrored c then (s.setFld F.MC_MIRSTAT_DEGRADED 1 c).setFld F.MC_MIRSTAT_DEGRADED 1 (pairOf c) else s
  let x := s.chan c
  let pair (q : QReq) : Bool := s.mirroredAt c q.req.sline.toNat
  let qs := x.c0q ++ x.rdq ++ x.wrq.filter (fun q => !pair q) ++ x.stop
  let un := x.defer.filter (fun q => !pair q)
  let s := s.setChan c { x with trained := false, resync := [], c0q := [], rdq := [], wrq := [],
                                stop := [], inflight := none, refDue := false, defer := x.defer.filter pair }
  let s := s.setFld F.MC_QSTAT_DRAIN 0 c
  let s := s.setFld F.MC_FRZSTAT_DEFERRED (x.defer.filter pair).length c
  let s := (qs.filter pair).foldl (fun s q => s.serve c q) s
  (qs.filter (fun q => !pair q) ++ un).foldl (fun s q => s.respond c q .withdrawn) s

/-- REPLAY reissues the request in flight at the trigger from the start (R290): its outcome is that of a clean command,
and its requester has its answer. -/
def State.reissue (s : State) (c : Nat) : State :=
  match (s.chan c).inflight with
  | none => s
  | some q =>
    let s := s.setChan c { s.chan c with inflight := none }
    if q.write then (s.chanWrite c q).2 else (s.chanRead c q).2

/-- RESUME lets the request in flight at the trigger stand (R290). Whether its command was corrupted, what a corrupted
write stored, and where, are free. -/
def State.letStand (s : State) (c : Nat) : State :=
  match (s.chan c).inflight with
  | none => s
  | some q =>
    let (w, s) := s.draw
    let s := s.setChan c { s.chan c with inflight := none }
    if q.write && w.getLsbD 0 then
      let sl := if w.getLsbD 1 then w.toNat / 4 % (s.fld F.MC_CFG_CAPG c * gib / 256) else q.req.sline.toNat
      s.setChan c ((s.chan c).putLine sl { (s.chan c).line sl with image := Config.corrupted w })
    else s

/-- The code of an action (R294). -/
def FrzAct.code (a : FrzAct) : Nat := match a with | .replay => 1 | .resume => 2 | .retire => 3

/-- The action of a code. -/
def frzActOf (n : Nat) : FrzAct := if n = 1 then .replay else if n = 2 then .resume else .retire

/-- A freeze action starts, written by firmware or taken from DEFAULT (R289, R290): after an overflow of the resync log REPLAY and RESUME act as RETIRE. -/
def State.startAction (s : State) (c : Nat) (a : FrzAct) (byDefault : Bool) : State :=
  let a := if s.flag F.MC_FRZSTAT_RESYNCOVF c then .retire else a
  let s := s.setChan c { s.chan c with acting := some a, byDefault := byDefault }
  match a with
  | .retire => s.retireChan c
  | .replay => ((s.mdRepair c).resyncAll c).reissue c
  | .resume => ((s.letStand c).mdRepair c).resyncAll c

/-- A write to MC_FRZCTL (R292, R294). -/
def State.actFrzCtl (s : State) (m : Master) (c : Nat) (v : Word) : State :=
  let act := F.MC_FRZCTL_ACT.of v
  let d := F.MC_FRZCTL_DEFAULT.of v
  if act ≠ 0 ∧ (!s.flag F.MC_STAT_FROZEN c || (s.chan c).acting.isSome) then s.ctlErr m true .stateRule (Reg.MC_FRZCTL.off c 0)
  else
    let s := if d = 0 then s else s.setFld F.MC_FRZCTL_DEFAULT d c
    if act = 0 then s else s.startAction c (frzActOf act) false

/-- REPLAY (R290): a write of ACT that keeps DEFAULT. -/
def execReplay (m : Master) (ch : Fin 16) (s : State) : Host.Outcome State Fault Refusal :=
  .next (s.ctlW m .MC_FRZCTL ch.val 0 (fun s => s.actFrzCtl m ch.val 1))

/-- RESUME (R290). -/
def execResume (m : Master) (ch : Fin 16) (s : State) : Host.Outcome State Fault Refusal :=
  .next (s.ctlW m .MC_FRZCTL ch.val 0 (fun s => s.actFrzCtl m ch.val 2))

/-- RETIRE (R290). -/
def execRetire (m : Master) (ch : Fin 16) (s : State) : Host.Outcome State Fault Refusal :=
  .next (s.ctlW m .MC_FRZCTL ch.val 0 (fun s => s.actFrzCtl m ch.val 3))

/-- The channel is the first of those that are still frozen (R289). -/
def State.frzFirst (s : State) (c : Nat) : Bool :=
  (List.range 16).all (fun d => !s.flag F.MC_STAT_FROZEN d || decide ((s.chan c).frzSeq ≤ (s.chan d).frzSeq))

/-- FREEZE_DEADLINE (R289): the deadline runs on the channel that froze first. -/
def execFreezeDeadline (ch : Fin 16) (s : State) : Host.Outcome State Fault Refusal :=
  let c := ch.val
  .next <|
    if s.flag F.MC_STAT_FROZEN c && (s.chan c).acting.isNone && s.frzFirst c then
      (s.setFld F.MC_FRZSTAT_DEFAULTED 1 c).startAction c (frzActOf (s.fld F.MC_FRZCTL_DEFAULT c)) true
    else s

/-- The freeze is over: FROZEN clears (R289). -/
def State.endFreeze (s : State) (c : Nat) : State :=
  let s := (s.setFld F.MC_STAT_FROZEN 0 c).setFld F.MC_FRZSTAT_FROZEN 0 c
  s.setChan c { s.chan c with acting := none, frzSeq := 0, mdFix := none }

/-- A freeze action completes (R289, R290, R486). -/
def State.freezeActionDone (s : State) (c : Nat) : State :=
  match (s.chan c).acting with
  | none => s
  | some a =>
    let s := if a = .retire then s else s.resyncAll c
    let s := (s.endFreeze c).setFld F.MC_FRZSTAT_ACTION a.code c
    let d := s.fld F.MC_FRZSTAT_CAUSE c + a.code * 16 + b2n (s.chan c).byDefault * 256
    let s := s.chanRecord c (frzEvent c (if a = .retire then 3 else 1) d)
    s.release c

/-- A Level 3 alarm ends a freeze without action and drops what waits (R292). -/
def State.abortFreeze (s : State) (c : Nat) : State :=
  if s.flag F.MC_STAT_FROZEN c then
    let s := ((s.endFreeze c).setFld F.MC_FRZSTAT_DEFERRED 0 c).setFld F.MC_QSTAT_DRAIN 0 c
    s.setChan c { s.chan c with c0q := [], rdq := [], wrq := [], stop := [], inflight := none, defer := [], resync := [] }
  else s

/-! ### Rebuild -/

/-- A write to MC_MIRCTL (R287, R294). -/
def State.actMirCtl (s : State) (m : Master) (c : Nat) (v : Word) : State :=
  if !bitOf v 0 then s
  else if s.flag F.MC_STAT_RETIRED c && (s.chan c).trained && s.flag F.MC_STAT_INSVC (pairOf c) then
    (s.setFld F.MC_MIRSTAT_REBUILDING 1 c).setFld F.MC_MIRSTAT_PROGRESS 0 c
  else s.ctlErr m true .stateRule (Reg.MC_MIRCTL.off c 0)

/-- REBUILD (R287). -/
def execRebuild (m : Master) (ch : Fin 16) (s : State) : Host.Outcome State Fault Refusal :=
  .next (s.ctlW m .MC_MIRCTL ch.val 0 (fun s => s.actMirCtl m ch.val 1))

/-- Every superline of the pair's extents that either channel holds. -/
def State.rebuildLines (s : State) (c : Nat) : List Nat :=
  let es := s.mirrorExtents c
  let inExt (sl : Nat) : Bool := es.any (fun e => decide (e.1 ≤ sl ∧ sl < e.1 + e.2))
  let ours := ((s.chan c).sl.map (fun e => e.1)).filter inExt
  let theirs := ((s.chan (pairOf c)).sl.map (fun e => e.1)).filter inExt
  ours.filter (fun i => !theirs.contains i) ++ theirs

/-- REBUILD_DONE (R287): the rest is copied, and the channel is back in service. The partner must carry out commands. -/
def execRebuildDone (ch : Fin 16) (s : State) : Host.Outcome State Fault Refusal :=
  let c := ch.val
  .next <|
    if s.flag F.MC_MIRSTAT_REBUILDING c && s.chanUp (pairOf c) then
      let s := (s.rebuildLines c).foldl (fun s sl => s.copyLine c (pairOf c) sl) s
      let total := (s.mirrorExtents c).foldl (fun n e => n + e.2) 0
      let s := (s.setFld F.MC_MIRSTAT_PROGRESS total c).setFld F.MC_MIRSTAT_REBUILDING 0 c
      let s := (s.setFld F.MC_MIRSTAT_DEGRADED 0 c).setFld F.MC_MIRSTAT_DEGRADED 0 (pairOf c)
      (s.setFld F.MC_STAT_RETIRED 0 c).setFld F.MC_STAT_INSVC 1 c
    else s

/-! ### What the channel's read-only words show -/

/-- MC_QSTAT (R294). -/
def State.qstat (s : State) (c : Nat) : Word :=
  let x := s.chan c
  setBits (setBits (setBits (s.rd .MC_QSTAT c) 4 0 (min 16 x.c0q.length)) 14 8 (min 64 x.rdq.length)) 23 16 (min 128 x.wrq.length)

/-- MC_CMPSTAT (R269). -/
def State.cmpstat (s : State) (c : Nat) : Word := setBits (s.rd .MC_CMPSTAT c) 31 16 (s.chan c).dirtyLines.length

/-- MC_MIRSTAT (R294): PARTNER shows that the partner is in service. -/
def State.mirstat (s : State) (c : Nat) : Word := setBits (s.rd .MC_MIRSTAT c) 0 0 (s.fld F.MC_STAT_INSVC (pairOf c))

/-- MC_KEYVALID[k] (R294, R386). -/
def State.keyvalid (s : State) (c k : Nat) : Word :=
  BitVec.ofNat 64 ((List.range 64).foldl (fun n b => if s.keyLoaded (mcSlot c) (64 * k + b) then n + 2 ^ b else n) 0)

/-- A word of a queue or deferral entry (R440). -/
def QReq.word (q : QReq) (hi : Bool) : Word :=
  if hi then BitVec.ofNat 64 q.time
  else
    let sect := if q.write then (sectBits (covered q.req.mask)).toNat else q.req.sect.toNat
    BitVec.ofNat 64 (b2n q.write + b2n q.req.c0 * 2 + q.req.tid.val * 4 + q.req.sline.toNat % 2 ^ 31 * 2 ^ 12 + sect * 2 ^ 43)

/-- A word of a record (R425). -/
def Record.word (r : Record) (i : Nat) : Word :=
  match i with
  | 0 => BitVec.ofNat 64 (r.kind.toNat + r.target.toNat * 2 ^ 8 + r.sub.toNat * 2 ^ 16 + r.sev.toNat * 2 ^ 24
      + r.tid.toNat * 2 ^ 32 + r.seq.toNat * 2 ^ 48)
  | 1 => r.addr
  | 2 => r.time
  | _ => BitVec.ofNat 64 (r.frame.toNat + r.detail.toNat * 2 ^ 32)

/-- A word of a command entry (R440). -/
def DramCmd.word (d : DramCmd) (hi : Bool) : Word :=
  if hi then BitVec.ofNat 64 d.time
  else BitVec.ofNat 64 (d.cmd.toNat + b2n d.sub * 2 ^ 4 + d.bank.toNat * 2 ^ 5 + d.row.toNat * 2 ^ 14 + d.col.toNat * 2 ^ 32)

/-- Word i of the snapshot buffer (R295). -/
def Snapshot.word (p : Snapshot) (i : Nat) : Word :=
  if i = 0 then (BitVec.ofNat 64 (p.cause.toNat + p.more.toNat * 2 ^ 8 + p.moreCause.toNat * 2 ^ 17))
  else if i = 1 then BitVec.ofNat 64 p.time
  else if i = 2 then p.frame
  else if i < 8 then 0
  else if i < 0x88 then (match p.synd[(i - 8) / 4]? with | some r => r.word ((i - 8) % 4) | none => 0)
  else if i < 0x288 then (match p.history[(i - 0x88) / 2]? with | some d => d.word (i % 2 == 1) | none => 0)
  else if i < 0x428 then (match mget p.queues ((i - 0x288) / 2) with | some q => q.word (i % 2 == 1) | none => 0)
  else if i < 0x628 then (match p.deferred[(i - 0x428) / 2]? with | some q => q.word (i % 2 == 1) | none => 0)
  else if i < 0x828 then
    let j := 2 * (i - 0x628)
    BitVec.ofNat 64 ((p.resync[j]?.getD 0) % 2 ^ 32 + (p.resync[j + 1]?.getD 0) % 2 ^ 32 * 2 ^ 32)
  else 0

end Sys2Proof.Machine
end

