-- ==== Sys2Proof/Machine/Mem.lean ====
section
/-! DEFINITION. Local cacheable memory: CXL memory, the LLC, the coherence directory, the private caches and the accesses
of cores and other masters (R71, R78, R103, R104, R231 to R238, R319, R414 to R416). -/
namespace Sys2Proof.Machine

/-! ### Tree pseudo-LRU (R104) -/

/-- Walk from a node towards way w over the levels left, turning each node away from it. -/
def plruTouch (levels node w : Nat) (b : BitVec 16) : BitVec 16 :=
  match levels with
  | 0 => b
  | n + 1 =>
    let d := w / 2 ^ n % 2
    plruTouch n (2 * node + 1 + d) w (if d = 1 then b &&& ~~~(1#16 <<< node) else b ||| (1#16 <<< node))

/-- The way that the nodes point at. -/
def plruWay (levels node : Nat) (b : BitVec 16) : Nat :=
  match levels with
  | 0 => 0
  | n + 1 =>
    let d := if b.getLsbD node then 1 else 0
    d * 2 ^ n + plruWay n (2 * node + 1 + d) b

/-- The way to fill in a set of 2^levels ways: the lowest invalid one, failing that the one the tree points at, failing
that the lowest allowed (entry 18). -/
def CSet.plruVictim {α : Type} (c : CSet α) (levels : Nat) (ok : Nat → Bool) : Nat :=
  match firstIdx (2 ^ levels) (fun i => (mget c.ways i).isNone) with
  | some w => w
  | none => if ok (plruWay levels 0 c.bits) then plruWay levels 0 c.bits else (firstIdx (2 ^ levels) ok).getD 0

/-- An access to way w commits. -/
def CSet.plru {α : Type} (c : CSet α) (levels w : Nat) : CSet α := { c with bits := plruTouch levels 0 w c.bits }

/-! ### Arrays that hold granules (R414, R415, R421) -/

/-- The eight words of a granule are written into an array. -/
def State.granWritten (s : State) (target sub base : Nat) : State :=
  (List.range 8).foldl (fun s i => s.arrWrite target sub (base + i)) s

/-- The eight words of a granule are read from an array: whether one is uncorrectable, and the granule as read; a
miscorrected word is a free value (entry 30). -/
def State.granRead (s : State) (target sub base tid : Nat) (dirty : Bool) (d : Granule) : Bool × Granule × State :=
  if s.errs.isEmpty then (false, d, s)
  else (List.range 8).foldl (fun acc i =>
    match acc.2.2.arrJudge target sub (base + i) with
    | (.clean, s) => (acc.1, acc.2.1, s)
    | (.corrected, s) => (acc.1, acc.2.1, s.arrCorrect target sub (base + i) tid)
    | (.uncorrectable, s) => (true, acc.2.1, s.arrUncorr (if dirty then 0x03 else 0x02) target sub (base + i) tid)
    | (.beyond, s) =>
      let (v, s) := s.draw
      let m : BitVec 512 := (BitVec.allOnes 64).setWidth 512 <<< (64 * i)
      (acc.1, (acc.2.1 &&& ~~~m) ||| (v.setWidth 512 <<< (64 * i)), s)) (false, d, s)

/-! ### Memory behind a local address -/

/-- The key of a CXL granule in State.cxl. -/
def cxlKey (k g : Nat) : Nat := k * 2 ^ 46 + g

/-- The stop of fabric gateway g, and of PCIe/CXL host controller h (R227). -/
def gwStop (g : Nat) : Nat := if g < 8 then g + 2 else 102 + g
def hcStop (h : Nat) : Nat := match h with | 0 => 1 | 1 => 10 | 2 => 109 | _ => 118

/-- The mesh stop from which a request for a local address comes (R227, R238): one of another node enters through the
gateway of R240, and an Ethernet port's through the gateway of node 0 (entry 134). -/
def stopOfSrc (src : ReqSrc) (a : Nat) : Nat :=
  match src with
  | .core t => if t.val = 512 then 0 else if t.val = 513 then 11 else coreStop t.val
  | .writeback c => coreStop (2 * c.val)
  | .dma e _ => sgStop (e.val / 8)
  | .engineCache e => sgStop (e.val / 8)
  | .pcie k => hcStop (k.val / 2)
  | .eth _ _ => gwStop (gatewayOf 0 a)
  | .fabric n _ => gwStop (gatewayOf n.val a)

/-- The superline operation of a request at a place of memory. -/
def mkReq (l : Loc) (sect : BitVec 4) (mask : BitVec 256) (data : Superline) (tid : Nat) (c0 y : Bool) (codec : BitVec 4)
    (src : ReqSrc) (stop : Nat) : Req where
  sline := BitVec.ofNat 44 (l.off / 256)
  sect := sect
  mask := mask
  data := data
  tid := Fin.ofNat 1024 tid
  c0 := c0
  y := y
  codec := codec
  stop := Fin.ofNat 128 stop
  src := src

/-- A granule of CXL memory as a request under a TID finds it; unwritten memory reads zero (entry 4). -/
def State.cxlGran (s : State) (k g tid : Nat) : Granule × Bool :=
  let key := s.keyOf (hcSlot (k / 2)) tid
  match mget s.cxl (cxlKey k g) with
  | none => (0, false)
  | some x => (if x.key = key then x.data else Config.wrongGran x.data x.key key (cxlKey k g), x.poison)

/-- Granule j of a superline. -/
def granOf (d : Superline) (j : Nat) : Granule := (d >>> (512 * j)).setWidth 512

/-- A granule at place j of a superline. -/
def granAt (g : Granule) (j : Nat) : Superline := g.setWidth 2048 <<< (512 * j)

/-- The bytes of granule j that a mask covers. -/
def granMask (mask : BitVec 256) (j : Nat) : Granule := BitVec.ofNat 512 (byteMask 64 (sectMask mask j).toNat)

/-- A read of CXL memory (R319): it needs the link in L0 and a key. -/
def State.cxlRead (s : State) (l : Loc) (q : Req) : DramOut × State :=
  if !s.targetUp true l.ch then (.withdrawn, s)
  else if !s.keyLoaded (hcSlot (l.ch / 2)) q.tid.val then (.noMemory, s)
  else
    let gs := (sectList q.sect).map (fun j => (j, s.cxlGran l.ch (l.off / 256 * 4 + j) q.tid.val))
    (.done ⟨gs.foldl (fun d e => d ||| granAt e.2.1 e.1) 0, q.sect,
            sectBits ((gs.filter (fun e => e.2.2)).map (fun e => e.1))⟩, s)

/-- A write of CXL memory (R319, R416). -/
def State.cxlWrite (s : State) (l : Loc) (q : Req) (pois : BitVec 4) : DramOut × State :=
  if !s.targetUp true l.ch then (.withdrawn, s)
  else if !s.keyLoaded (hcSlot (l.ch / 2)) q.tid.val then (.noMemory, s)
  else
    let m := (covered q.mask).foldl (fun m j =>
      let g := l.off / 256 * 4 + j
      let old := s.cxlGran l.ch g q.tid.val
      let gm := granMask q.mask j
      let whole := decide (sectMask q.mask j = BitVec.allOnes 64)
      let v : CxlGran := ⟨(granOf q.data j &&& gm) ||| (old.1 &&& ~~~gm), pois.getLsbD j || (!whole && old.2), s.keyOf (hcSlot (l.ch / 2)) q.tid.val⟩
      mput m (cxlKey l.ch g) v) s.cxl
    (.done ⟨0, 0, 0⟩, { s with cxl := m })

/-- The AES blocks of a request of CXL memory (R319, R357). -/
def State.chargeAes (s : State) (q : Req) : State :=
  s.chargeSrc q.src q.tid.val 15 (4 * (sectList q.sect).length) q.c0

/-- Memory reads sectors of a superline for a master, passing the queue of the channel (R274). -/
def State.memRead (s : State) (l : Loc) (q : Req) : DramOut × State :=
  if l.cxl then (s.chargeAes q).cxlRead l q
  else
    let e := s.arriving q false
    (s.passQueue l.ch l.mirror e).routeRead 3 l.ch l.mirror e

/-- Memory writes bytes of a superline for a master. -/
def State.memWrite (s : State) (l : Loc) (q : Req) (pois : BitVec 4) : DramOut × State :=
  if l.cxl then (s.chargeAes q).cxlWrite l q pois
  else
    let e := s.arriving q true pois
    (s.passQueue l.ch l.mirror e).routeWrite l.ch l.mirror e

/-- A dirty granule goes to memory: one that fails is lost, and recorded (R218, R291). -/
def State.writeBack (s : State) (a core tid : Nat) (codec : BitVec 4) (y poison : Bool) (d : Granule) : State :=
  match s.mapAddr a with
  | none => s.noMemory tid (s.globalOf a)
  | some l =>
    let j := a / 64 % 4
    let src : ReqSrc := .writeback (Fin.ofNat 256 core)
    let q := mkReq l (1#4 <<< j) ((BitVec.allOnes 64).setWidth 256 <<< (64 * j)) (granAt d j) tid false y codec
      src (stopOfSrc src a)
    match s.memWrite l q (if poison then 1#4 <<< j else 0) with
    | (.done _, s) => s
    | (.held, s) => s
    | (.noMemory, s) => s.noMemory tid (s.globalOf a)
    | (.withdrawn, s) => s.lostWriteback l.ch tid a

/-! ### The LLC -/

/-- The slices that may hold a line of logical slice l: CUR, and TARGET while a move runs (R241, R242). -/
def State.homes (s : State) (l : Nat) : List Nat :=
  let cur := s.fld F.MAP_SLICE_CUR 0 l
  let ps := if s.flag F.MAP_SLICE_BUSY 0 l then [cur, s.fld F.MAP_SLICE_TARGET 0 l] else [cur]
  ps.filter (fun p => s.domOn (clDom (p / 8)) && !s.board.sliceBad.contains p)

/-- The slice that takes new allocations (R241). -/
def State.allocHome (s : State) (l : Nat) : Option Nat := (s.homes l).getLast?

/-- The key of an LLC set in State.llc. -/
def llcKey (p a : Nat) : Nat := 384 * p + llcSet a

/-- The line that holds a local address: slice, way, line (R232). -/
def State.llcFind (s : State) (a : Nat) : Option (Nat × Nat × LlcLine) :=
  let l := sliceOf a
  (s.homes l).findSome? (fun p =>
    match (mgetD s.llc (llcKey p a) .empty).find (fun e => e.line == a / 256 && e.lslice == l) with
    | some (w, e) => some (p, w, e)
    | none => none)

/-- Put a line into its way. -/
def State.llcPut (s : State) (p a w : Nat) (e : LlcLine) : State :=
  let st := mgetD s.llc (llcKey p a) .empty
  { s with llc := mput s.llc (llcKey p a) { st with ways := mput st.ways w e } }

/-- A slice records the TIDs whose dirty data it holds (R433). -/
def State.noteDirty (s : State) (p tid : Nat) : State :=
  { s with dirty := mput s.dirty p (mgetD s.dirty p 0 ||| (1#1024 <<< tid)) }

/-- The array words of sector j of a line in an LLC slice. -/
def llcWord (a w j : Nat) : Nat := (llcSet a * 16 + w) * 32 + 8 * j

/-- The dirty sectors of a line are written back. -/
def State.llcFlush (s : State) (p : Nat) (e : LlcLine) : State :=
  e.sec.foldl (fun s x =>
    if x.2.dirty then (s.charge x.2.tid 5 1 false).writeBack (e.line * 256 + 64 * x.1) p x.2.tid x.2.codec x.2.y x.2.poison x.2.data else s) s

/-- The victim of a set (R233): its way, and by how much every age is raised first. -/
def llcVictim (c : CSet LlcLine) : Nat × Nat :=
  match firstIdx 16 (fun i => (mget c.ways i).isNone) with
  | some w => (w, 0)
  | none =>
    let top := c.ways.foldl (fun n e => max n e.2.age) 0
    ((firstIdx 16 (fun i => match mget c.ways i with | some e => e.age == top | none => false)).getD 0, 3 - top)

/-- A line is allocated for an address with an age: its slice and way (R233, R234). -/
def State.llcAlloc (s : State) (a age : Nat) : Option (Nat × Nat) × State :=
  match s.allocHome (sliceOf a) with
  | none => (none, s)
  | some p =>
    let st := mgetD s.llc (llcKey p a) .empty
    let (w, up) := llcVictim st
    let old := mget st.ways w
    let ways := mput (st.ways.map (fun e => (e.1, { e.2 with age := e.2.age + up }))) w ⟨a / 256, sliceOf a, [], age⟩
    let s : State := { s with llc := mput s.llc (llcKey p a) { st with ways := ways } }
    (some (p, w), match old with | some e => s.llcFlush p e | none => s)

/-- A sector is put into a line that is present. -/
def State.llcSector (s : State) (p a w : Nat) (e : LlcLine) (x : Sector) : State :=
  let j := a / 64 % 4
  let s := (s.llcPut p a w { e with sec := mput e.sec j x }).granWritten (64 + p / 8) (p % 8) (llcWord a w j)
  if x.dirty then s.noteDirty p x.tid else s

/-- A dirty granule comes down from an L2 (R233); where no slice can take it, it goes to memory. -/
def State.llcDirty (s : State) (a : Nat) (core : Nat) (x : Sector) : State :=
  let s := s.charge x.tid 5 1 false
  match s.llcFind a with
  | some (p, w, e) => s.llcSector p a w e x
  | none =>
    match s.llcAlloc a 1 with
    | (some (p, w), s) => s.llcSector p a w ⟨a / 256, sliceOf a, [], 1⟩ x
    | (none, s) => s.writeBack a core x.tid x.codec x.y x.poison x.data

/-- The valid sector of an address, checked as it is read: an uncorrectable clean sector is dropped, a dirty one is poisoned
(R415). -/
def State.llcRead (s : State) (a tid : Nat) : Option Sector × State :=
  match s.llcFind a with
  | none => (none, s)
  | some (p, w, e) =>
    let j := a / 64 % 4
    match mget e.sec j with
    | none => (none, s)
    | some x =>
      let (bad, d, s) := s.granRead (64 + p / 8) (p % 8) (llcWord a w j) tid x.dirty x.data
      if bad && !x.dirty then (none, s.llcPut p a w { e with sec := merase e.sec j })
      else if bad then (some { x with poison := true }, s.llcPut p a w { e with sec := mput e.sec j { x with poison := true } })
      else (some { x with data := d }, s)

/-- The sector of an address leaves the LLC: a core that may modify the granule holds it alone, with its dirty data and
record (R235, R236; entry 135). -/
def State.llcTake (s : State) (a : Nat) : Option Sector × State :=
  match s.llcFind a with
  | none => (none, s)
  | some (p, w, e) =>
    let j := a / 64 % 4
    (mget e.sec j, s.llcPut p a w { e with sec := merase e.sec j })

/-- A core demand access that hits sets the age to 0 (R233). -/
def State.llcAge0 (s : State) (a : Nat) : State :=
  match s.llcFind a with
  | some (p, w, e) => s.llcPut p a w { e with age := 0 }
  | none => s

/-- Returned sectors fill those that are invalid, poisoned ones too (R234, R416); the line is allocated with the age where
it is absent, and a demand access that finds it sets its age to 0 (R233). -/
def State.llcFill (s : State) (a age : Nat) (f : Fetch) : State :=
  let (slot, s) : Option (Nat × Nat) × State := match s.llcFind a with
    | some (p, w, e) => (some (p, w), if age = 1 then s.llcPut p a w { e with age := 0 } else s)
    | none => s.llcAlloc a age
  match slot with
  | none => s
  | some (p, w) =>
    (sectList f.got).foldl (fun s j =>
      let st := mgetD s.llc (llcKey p a) .empty
      match mget st.ways w with
      | none => s
      | some e => match mget e.sec j with
        | some _ => s
        | none => s.llcSector p (a / 256 * 256 + 64 * j) w e ⟨granOf f.data j, false, f.ue.getLsbD j, 0, 0, false⟩) s

/-! ### Private caches and reservations -/

/-- Clear the reservation of a thread (R78). -/
def State.clearResv (s : State) (t : Nat) : State :=
  let x := s.thread t
  if x.resv.isSome then s.setThread t { x with resv := none, hold := false } else s

/-- The device thread of slot h of core c. -/
def thOf (c h : Nat) : Nat := 2 * c + h

/-- The core of a compute thread. -/
def coreOf (t : Nat) : Nat := t / 2

/-- A thread runs in Sorrel mode (R115): HCORE.SORREL. -/
def State.sorrel (s : State) (t : Nat) : Bool := decide (t < 512) && (mgetD (s.thread t).csr 0x830 0).getLsbD 0

/-- A granule is stored to or leaves: the reservations on it of a core's threads that meet p clear. -/
def State.dropResv (s : State) (c gran : Nat) (p : Nat → Bool) : State :=
  [thOf c 0, thOf c 1].foldl (fun s t => if (s.thread t).resv = some gran ∧ p t then s.clearResv t else s) s

/-- The target and SUB of a core's arrays (R413): kind 0 L1I, 1 L1D, 2 L2, 3 TLBs, 4 walk cache, 5 predictors. -/
def coreTarget (c : Nat) : Nat := 32 + c / 8
def coreSub (c kind : Nat) : Nat := c % 8 + 8 * kind

def l2Set (gran : Nat) : Nat := gran % 2048
def l1dSet (gran : Nat) : Nat := gran % 128
def l1iSet (gran : Nat) : Nat := gran % 256

/-- The entries of word i of the predictor array go (R415): the directions first, then the indirect targets. -/
def Core.predDrop (x : Core) (i : Nat) : Core :=
  if i < 4096 then { x with dirPred := x.dirPred.filter (fun e => e.pc.toNat / 4 % 4096 != i) }
  else { x with indPred := merase x.indPred (i - 4096) }

/-- The L2 line of a granule in a core. -/
def State.l2Find (s : State) (c gran : Nat) : Option (Nat × L2Line) :=
  (mgetD (s.core c).l2 (l2Set gran) .empty).find (fun e => e.gran == gran)

/-- Put a line into its way of a core's L2. -/
def State.l2Put (s : State) (c w : Nat) (e : L2Line) : State :=
  let x := s.core c
  let st := mgetD x.l2 (l2Set e.gran) .empty
  s.setCore c { x with l2 := mput x.l2 (l2Set e.gran) ({ st with ways := mput st.ways w e } : CSet L2Line) }

/-- An access to a way of L2 commits. -/
def State.l2Touch (s : State) (c gran w : Nat) : State :=
  let x := s.core c
  let st := mgetD x.l2 (l2Set gran) .empty
  s.setCore c { x with l2 := mput x.l2 (l2Set gran) (st.plru 4 w) }

/-- The array words of a line in L2. -/
def l2Word (gran w : Nat) : Nat := (l2Set gran * 16 + w) * 8

/-- Drop an entry of an L1 set. -/
def dropGran (m : SMap (CSet Nat)) (set gran : Nat) : SMap (CSet Nat) :=
  match mget m set with
  | none => m
  | some st => mput m set { st with ways := st.ways.filter (fun e => e.2 != gran) }

/-- A granule leaves a core's L1D: reservations on it of threads that are not in Sorrel mode clear (R78). -/
def State.l1dDrop (s : State) (c gran : Nat) : State :=
  let x := s.core c
  (s.setCore c { x with l1d := dropGran x.l1d (l1dSet gran) gran }).dropResv c gran (fun t => !s.sorrel t)

/-- A granule leaves a core's L2, and the L1 caches with it (R78, R103). -/
def State.l2Drop (s : State) (c gran : Nat) : State :=
  let x := s.core c
  match s.l2Find c gran with
  | none => s
  | some (w, _) =>
    let st := mgetD x.l2 (l2Set gran) .empty
    (s.setCore c { x with
      l2 := mput x.l2 (l2Set gran) { st with ways := merase st.ways w },
      l1d := dropGran x.l1d (l1dSet gran) gran,
      l1i := dropGran x.l1i (l1iSet gran) gran }).dropResv c gran (fun _ => true)

/-- A granule comes into L1D or L1I; the victim leaves. -/
def State.l1dFill (s : State) (c gran : Nat) : State :=
  let st := mgetD (s.core c).l1d (l1dSet gran) .empty
  let w := st.plruVictim 3 (fun _ => true)
  let s := match mget st.ways w with | some g => s.l1dDrop c g | none => s
  let x := s.core c
  let st := mgetD x.l1d (l1dSet gran) .empty
  let st := ({ st with ways := mput st.ways w gran } : CSet Nat).plru 3 w
  (s.setCore c { x with l1d := mput x.l1d (l1dSet gran) st }).granWritten (coreTarget c) (coreSub c 1) ((l1dSet gran * 8 + w) * 8)

def State.l1iFill (s : State) (c gran : Nat) : State :=
  let x := s.core c
  let st := mgetD x.l1i (l1iSet gran) .empty
  let w := st.plruVictim 2 (fun _ => true)
  let st := ({ st with ways := mput st.ways w gran } : CSet Nat).plru 2 w
  (s.setCore c { x with l1i := mput x.l1i (l1iSet gran) st }).granWritten (coreTarget c) (coreSub c 0) ((l1iSet gran * 4 + w) * 8)

/-! ### The directory -/

/-- The key of a directory set in State.dir. -/
def dirKey (p a : Nat) : Nat := 4096 * p + dirSet a

/-- The directory entry of a granule: slice, way, entry (R236). -/
def State.dirFind (s : State) (a : Nat) : Option (Nat × Nat × DirEnt) :=
  (s.homes (sliceOf a)).findSome? (fun p =>
    match (mgetD s.dir (dirKey p a) .empty).find (fun e => e.gran == a / 64) with
    | some (w, e) => some (p, w, e)
    | none => none)

/-- Put an entry into its way. -/
def State.dirPut (s : State) (p a w : Nat) (e : DirEnt) : State :=
  let st := mgetD s.dir (dirKey p a) .empty
  let st := ({ st with ways := mput st.ways w e } : CSet DirEnt).touch 16 w
  ({ s with dir := mput s.dir (dirKey p a) st }).arrWrite (64 + p / 8) (p % 8 + 8) (dirSet a * 16 + w)

/-- Remove the entry of a granule. -/
def State.dirErase (s : State) (a : Nat) : State :=
  match s.dirFind a with
  | none => s
  | some (p, w, _) =>
    let st := mgetD s.dir (dirKey p a) .empty
    { s with dir := mput s.dir (dirKey p a) { st with ways := merase st.ways w } }

/-- The cores that an entry names: one, or those of its clusters. -/
def DirState.cores (d : DirState) : List Nat :=
  match d with
  | .e c => [c]
  | .s v => (List.range 256).filter (fun c => v.getLsbD (c / 8))

/-- The cores whose L2 holds a granule, as its directory entry leads to them; a miss probes every cluster while directory
reports are outstanding (R433). -/
def State.holders (s : State) (a : Nat) : List Nat :=
  match s.dirFind a with
  | none => if s.board.dirScan.contains (sliceOf a) then (List.range 256).filter (fun c => (s.l2Find c (a / 64)).isSome) else []
  | some (_, _, e) => e.st.cores.filter (fun c => (s.l2Find c (a / 64)).isSome)

/-- The L2 copy of a core goes; modified data goes into the LLC (R236, R237). -/
def State.recallCopy (s : State) (c a : Nat) : State :=
  match s.l2Find c (a / 64) with
  | none => s
  | some (_, e) =>
    let s := s.l2Drop c (a / 64)
    if e.dirty then s.llcDirty a c ⟨e.data, true, e.poison, e.tid, e.codec, e.y⟩ else s

/-- The L2 copy of a core becomes clean; modified data goes into the LLC. -/
def State.cleanCopy (s : State) (c a : Nat) : State :=
  match s.l2Find c (a / 64) with
  | none => s
  | some (w, e) =>
    if e.dirty then
      (s.l2Put c w { e with dirty := false, tid := 0, codec := 0, y := false }).llcDirty a c
        ⟨e.data, true, e.poison, e.tid, e.codec, e.y⟩
    else s

/-- Every L2 copy of a granule but a core's goes; a locked line stays, clean (R116, R236). -/
def State.recallOthers (s : State) (a : Nat) (keep : Option Nat) : State :=
  ((s.holders a).filter (fun c => some c ≠ keep)).foldl (fun s c =>
    match s.l2Find c (a / 64) with
    | some (_, e) => if e.locked then s.cleanCopy c a else s.recallCopy c a
    | none => s) s

/-- A full directory set evicts its not-recently-used entry that is not pinned (R237). -/
def State.dirEvict (s : State) (p a w : Nat) : State :=
  match mget (mgetD s.dir (dirKey p a) .empty).ways w with
  | none => s
  | some e =>
    let b := e.gran * 64
    let s := (e.st.cores.foldl (fun s c => s.recallCopy c b) s).dirErase b
    s.bump .MAP_DIRBICNT

/-- The entry of a granule is set to a state; a new entry takes a way of its set (R236, R237). -/
def State.dirSetTo (s : State) (a : Nat) (st : DirState) (pin : Bool) : State :=
  match s.dirFind a with
  | some (p, w, e) => s.dirPut p a w ⟨a / 64, st, e.pinned || pin⟩
  | none =>
    match s.allocHome (sliceOf a) with
    | none => s
    | some p =>
      let set := mgetD s.dir (dirKey p a) .empty
      let ok (i : Nat) : Bool := match mget set.ways i with | some e => !e.pinned | none => true
      match set.nruVictim 16 ok with
      | none => s
      | some w => (s.dirEvict p a w).dirPut p a w ⟨a / 64, st, pin⟩

/-- A granule whose directory entry a failed slice held gets one from what the L2s report (R433). -/
def State.dirReport (s : State) (a : Nat) : State :=
  match s.dirFind a with
  | some _ => s
  | none =>
    let hs := s.holders a
    let mod := hs.any (fun c => match s.l2Find c (a / 64) with | some (_, e) => e.dirty | none => false)
    let pin := hs.any (fun c => match s.l2Find c (a / 64) with | some (_, e) => e.locked | none => false)
    match hs with
    | [] => s
    | c :: rest =>
      if mod && rest.isEmpty then s.dirSetTo a (.e c) pin
      else s.dirSetTo a (.s (hs.foldl (fun v c => v ||| (1#32 <<< (c / 8))) 0)) pin

/-- A core no longer holds a granule: its entry goes, or its cluster leaves the vector where no core of it holds it. -/
def State.dirLeave (s : State) (a c : Nat) : State :=
  match s.dirFind a with
  | none => s
  | some (p, w, e) =>
    match e.st with
    | .e o => if o = c then s.dirErase a else s
    | .s v =>
      if (List.range 8).any (fun i => (s.l2Find (c / 8 * 8 + i) (a / 64)).isSome) then s
      else
        let v := v &&& ~~~(1#32 <<< (c / 8))
        if v = 0 then s.dirErase a else s.dirPut p a w { e with st := .s v }

/-- A line leaves a core's L2 to make room (R234). -/
def State.l2Evict (s : State) (c set w : Nat) : State :=
  match mget (mgetD (s.core c).l2 set .empty).ways w with
  | none => s
  | some e => (s.recallCopy c (e.gran * 64)).dirLeave (e.gran * 64) c

/-- A line comes into a core's L2; among the ways that are not locked the tree names the victim (R104, R116). -/
def State.l2Fill (s : State) (c : Nat) (e : L2Line) : State :=
  let set := l2Set e.gran
  let st := mgetD (s.core c).l2 set .empty
  let w := st.plruVictim 4 (fun i => match mget st.ways i with | some x => !x.locked | none => true)
  let s := s.l2Evict c set w
  (s.l2Put c w e).granWritten (coreTarget c) (coreSub c 2) (l2Word e.gran w)

/-! ### Accesses of cores -/

/-- Why a granule cannot be had. -/
inductive GranFail where
  | noMemory | withdrawn | wait
deriving DecidableEq, Repr

/-- Another core's reservation hold runs on a granule (R78): a request from a core waits; a Sorrel thread's own region
does not. -/
def State.heldByOther (s : State) (c gran : Nat) (own : Bool) : Bool :=
  !own && s.threads.any (fun e => decide (e.1 < 512 ∧ coreOf e.1 ≠ c) && e.2.hold && e.2.resv == some gran)

/-- The data of a granule that a core does not hold: from a modified copy, which goes into the LLC and becomes clean, from
the LLC, or from memory, whose other sectors fill the LLC too (R233, R234, R236). -/
def State.fetchGran (s : State) (a tid : Nat) (y : Bool) (src : ReqSrc) (age : Nat) : Sum GranFail (Granule × Bool) × State :=
  let s := (s.holders a).foldl (fun s c => s.cleanCopy c a) s
  match s.llcRead a tid with
  | (some x, s) => (.inr (x.data, x.poison), (if age = 1 then s.llcAge0 a else s).charge tid 5 1 false)
  | (none, s) =>
    match s.mapAddr a with
    | none => (.inl .noMemory, s)
    | some l =>
      let j := a / 64 % 4
      match s.memRead l (mkReq l (1#4 <<< j) 0 0 tid false y 0 src (stopOfSrc src a)) with
      | (.done f, s) =>
        (.inr (granOf f.data j, f.ue.getLsbD j), (s.llcFill a age f).charge tid 5 (sectList f.got).length false)
      | (.noMemory, s) => (.inl .noMemory, s)
      | (.withdrawn, s) => (.inl .withdrawn, s)
      | (.held, s) => (.inl .wait, s)

/-- A core's L2 line of a granule in state E takes over what the LLC holds of it (R235, R236). -/
def State.takeDirty (s : State) (c a : Nat) : State :=
  match s.llcTake a with
  | (some x, s) => match s.l2Find c (a / 64) with
    | some (w, e) =>
      if x.dirty then s.l2Put c w { e with dirty := true, tid := x.tid, codec := x.codec, y := x.y, poison := e.poison || x.poison }
      else s
    | none => s
  | (none, s) => s

/-- A core gets a granule into its L2 (R109, R234, R236): for a store it obtains E, and the other copies go. Replacement
state changes when the access commits, not here (R104). -/
def State.obtain (s : State) (c a tid : Nat) (y excl own : Bool) (src : ReqSrc) (age : Nat) : Option GranFail × State :=
  let gran := a / 64
  let s := s.dirReport a
  match s.l2Find c gran with
  | some (w, e) =>
    let (bad, d, s) := s.granRead (coreTarget c) (coreSub c 2) (l2Word gran w) tid e.dirty e.data
    if bad && !e.dirty then
      -- a clean line is invalidated and fetched again (R415)
      match (s.l2Drop c gran).fetchGran a tid y src age with
      | (.inl f, s) => (some f, s)
      | (.inr (d, po), s) => (none, s.l2Fill c { e with data := d, poison := po })
    else
      let s := s.l2Put c w { e with data := d, poison := e.poison || bad }
      match s.dirFind a with
      | some (_, _, ⟨_, .e _, _⟩) => (none, s)
      | _ =>
        if !excl then (none, s)
        else if s.heldByOther c gran own then (some .wait, s)
        else (none, ((s.recallOthers a (some c)).dirSetTo a (.e c) false).takeDirty c a)
  | none =>
    if s.heldByOther c gran own then (some .wait, s)
    else
      let s := if excl then s.recallOthers a (some c) else s
      match s.fetchGran a tid y src age with
      | (.inl f, s) => (some f, s)
      | (.inr (d, po), s) =>
        let s := s.l2Fill c ⟨gran, d, false, po, 0, 0, false, false⟩
        let v : BitVec 32 := match s.dirFind a with
          | some (_, _, ⟨_, .s v, _⟩) => v
          | some (_, _, ⟨_, .e o, _⟩) => 1#32 <<< (o / 8)
          | none => 0
        let s := s.dirSetTo a (if excl then .e c else .s (v ||| (1#32 <<< (c / 8)))) false
        (none, if excl then s.takeDirty c a else s)

/-- A load reads a granule that its core's L1D holds: the array's code checks it, and dirty data that is uncorrectable is
poisoned (R415). A Sorrel thread bypasses L1D (R115). -/
def State.l1dCheck (s : State) (c gran : Nat) (sorrel : Bool) : State :=
  if sorrel then s
  else
    match (mgetD (s.core c).l1d (l1dSet gran) .empty).find (fun g => g == gran) with
    | none => s
    | some (w, _) =>
      let dirty := match s.l2Find c gran with | some (_, e) => e.dirty | none => false
      let (bad, _, s) := s.granRead (coreTarget c) (coreSub c 1) ((l1dSet gran * 8 + w) * 8) 0 dirty 0
      match bad && dirty, s.l2Find c gran with
      | true, some (w, e) => s.l2Put c w { e with poison := true }
      | _, _ => s

/-- An access to a granule in L2 commits (R104, R108, R115): a hit in L1D changes L1D's replacement state alone; otherwise
L2's changes, and the line comes into L1D, which a Sorrel thread bypasses. -/
def State.lineUsed (s : State) (c gran : Nat) (sorrel : Bool) : State :=
  let l2 (s : State) : State := match s.l2Find c gran with | some (w, _) => s.l2Touch c gran w | none => s
  if sorrel then l2 s
  else
    let x := s.core c
    let st := mgetD x.l1d (l1dSet gran) .empty
    match st.find (fun g => g == gran) with
    | none => (l2 s).l1dFill c gran
    | some (w, _) => s.setCore c { x with l1d := mput x.l1d (l1dSet gran) (st.plru 3 w) }

/-- A granule is in a core's L1D. -/
def State.l1dHas (s : State) (c gran : Nat) : Bool :=
  ((mgetD (s.core c).l1d (l1dSet gran) .empty).find (fun g => g == gran)).isSome

/-- The cores whose L2 holds a granule locked (R116). -/
def State.lockedCores (s : State) (a : Nat) : List Nat :=
  (s.holders a).filter (fun o => match s.l2Find o (a / 64) with | some (_, e) => e.locked | none => false)

/-- Another core than c holds a granule locked. -/
def State.lockedElse (s : State) (c a : Nat) : Bool := (s.lockedCores a).any (fun o => o != c)

/-- Every reservation on a granule clears but, where asked, the storing thread's (R78). -/
def State.storeResv (s : State) (gran : Nat) : State :=
  (s.threads.map (fun e => e.1)).foldl (fun s t => if (s.thread t).resv = some gran then s.clearResv t else s) s

/-- The number by which a reservation names a granule of a pair's memory. -/
def ramGran (t o : Nat) : Nat := 2 ^ 60 + t * 2 ^ 40 + o / 64

/-- Bytes put over a granule's line, with the record of the store (R254, R285); a rewrite of the whole granule clears
poison (R416). -/
def L2Line.stored (e : L2Line) (tid : Nat) (codec : BitVec 4) (y po : Bool) (mask data : Granule) : L2Line :=
  { e with data := (data &&& mask) ||| (e.data &&& ~~~mask), dirty := true, tid := tid, codec := codec, y := y,
           poison := po || (e.poison && decide (mask ≠ BitVec.allOnes 512)) }

/-- A line of a core's L2 is rewritten. -/
def State.l2Rewrite (s : State) (c w : Nat) (e : L2Line) : State :=
  (s.l2Put c w e).granWritten (coreTarget c) (coreSub c 2) (l2Word e.gran w)

/-- Bytes of a granule of core c's L2 are stored. -/
def State.l2Store (s : State) (c a tid : Nat) (codec : BitVec 4) (y po : Bool) (mask data : Granule) : State :=
  match s.l2Find c (a / 64) with
  | none => s
  | some (w, e) => s.l2Rewrite c w (e.stored tid codec y po mask data)

/-- A store to a granule that cores hold locked updates it in place (R116, R236): the copies that are not locked go; one
locked copy takes state E and the data; where several cores hold it locked, each copy is updated and stays clean in state
S, and the data is dirty in the LLC. -/
def State.lockedStore (s : State) (a tid : Nat) (codec : BitVec 4) (y po : Bool) (mask data : Granule) : State :=
  let s := (s.recallOthers a none).storeResv (a / 64)
  match s.lockedCores a with
  | [o] => ((s.dirSetTo a (.e o) false).takeDirty o a).l2Store o a tid codec y po mask data
  | os =>
    let new := os.findSome? (fun o => (s.l2Find o (a / 64)).map (fun e => e.2.stored tid codec y po mask data))
    match new with
    | none => s
    | some n =>
      let s := os.foldl (fun s o => match s.l2Find o (a / 64) with
        | some (w, e) => s.l2Rewrite o w { e with data := n.data, poison := n.poison, dirty := false }
        | none => s) s
      s.llcDirty a (os.headD 0) ⟨n.data, true, n.poison, tid, codec, y⟩

/-- A core stores bytes of one granule of local cacheable memory (R71, R236): one that other cores hold locked is updated
in place (R116), after another core's reservation hold on it (R78). -/
def State.coreStore (s : State) (c a tid : Nat) (codec : BitVec 4) (y own : Bool) (src : ReqSrc) (mask data : Granule) :
    Option GranFail × State :=
  if s.lockedElse c a then
    if s.heldByOther c (a / 64) own then (some .wait, s) else (none, s.lockedStore a tid codec y false mask data)
  else
    match s.obtain c a tid y true own src 1 with
    | (some f, s) => (some f, s)
    | (none, s) => (none, (s.storeResv (a / 64)).l2Store c a tid codec y false mask data)

/-- A core reads a granule of local cacheable memory: its data and poison. -/
def State.coreRead (s : State) (c a tid : Nat) (y sorrel own excl : Bool) (src : ReqSrc) :
    Sum GranFail (Granule × Bool) × State :=
  match s.obtain c a tid y excl own src 1 with
  | (some f, s) => (.inl f, s)
  | (none, s) =>
    let s := s.l1dCheck c (a / 64) sorrel
    match s.l2Find c (a / 64) with
    | some (_, e) => (.inr (e.data, e.poison), s)
    | none => (.inr (0, false), s)

/-! ### Accesses of other masters (R235) -/

/-- The modified L2 copy of a granule, where a core has one, as its array gives it (R235, R71, R415). -/
def State.modified (s : State) (a tid : Nat) : Option (Granule × Bool) × State :=
  match (s.holders a).findSome? (fun c => match s.l2Find c (a / 64) with
    | some (w, e) => if e.dirty then some (c, w, e) else none
    | none => none) with
  | none => (none, s)
  | some (c, w, e) =>
    let (bad, d, s) := s.granRead (coreTarget c) (coreSub c 2) (l2Word (a / 64) w) tid true e.data
    (some (d, e.poison || bad), if bad then s.l2Put c w { e with poison := true } else s)

/-- A master other than a core reads sectors of a superline (R235): from the LLC, a modified L2 copy, or memory. -/
def State.ncRead (s : State) (a : Nat) (l : Loc) (sect : BitVec 4) (tid : Nat) (c0 : Bool) (src : ReqSrc) :
    DramOut × State :=
  let base := a / 256 * 256
  let (have_, s) := (sectList sect).foldl (fun (acc : Fetch × State) j =>
    let (f, s) := acc
    let put (d : Granule) (po : Bool) : Fetch :=
      { data := f.data ||| granAt d j, got := f.got ||| (1#4 <<< j), ue := if po then f.ue ||| (1#4 <<< j) else f.ue }
    match s.llcRead (base + 64 * j) tid with
    | (some x, s) => (put x.data x.poison, s.chargeSrc src tid 5 1 c0)
    | (none, s) => match s.modified (base + 64 * j) tid with
      | (some (d, po), s) => (put d po, s)
      | (none, s) => (f, s)) ((⟨0, 0, 0⟩ : Fetch), s)
  let need := sect &&& ~~~have_.got
  if need = 0 then (.done have_, s)
  else
    match s.memRead l (mkReq l need 0 0 tid c0 false 0 src (stopOfSrc src a)) with
    | (.done f, s) =>
      (.done ⟨(sectList need).foldl (fun d j => d ||| granAt (granOf f.data j) j) have_.data, sect,
              have_.ue ||| (f.ue &&& need)⟩, s)
    | (r, s) => (r, s)

/-- The L2 copies of a granule are invalidated for a write of another master (R235): of a write of the whole sector a
modified copy is dropped, of a partial one it is first written into the LLC sector. -/
def State.invalidate (s : State) (a : Nat) (whole : Bool) : State :=
  (if whole then (s.holders a).foldl (fun s c => s.l2Drop c (a / 64)) s else s.recallOthers a none).dirErase a

/-- A master other than a core writes bytes of a superline (R235, R254): L2 copies go, valid LLC sectors take their bytes,
and memory takes the rest in one operation, with CODEC 0 and Y = 0. -/
def State.ncWrite (s : State) (a : Nat) (l : Loc) (mask : BitVec 256) (data : Superline) (pois : BitVec 4) (tid : Nat)
    (c0 : Bool) (src : ReqSrc) : DramOut × State :=
  let base := a / 256 * 256
  let (rest, s) := (covered mask).foldl (fun (acc : BitVec 256 × State) j =>
    let (rest, s) := acc
    let b := base + 64 * j
    let gm := granMask mask j
    let g := granOf data j
    let po := pois.getLsbD j
    let whole := decide (sectMask mask j = BitVec.allOnes 64)
    let less := rest &&& ~~~((BitVec.allOnes 64).setWidth 256 <<< (64 * j))
    if !(s.lockedCores b).isEmpty then (less, s.lockedStore b tid 0 false po gm g)
    else
      let s := (s.invalidate b whole).storeResv (b / 64)
      match s.llcFind b with
      | none => (rest, s)
      | some (p, w, e) => match mget e.sec j with
        | none => (rest, s)
        | some x =>
          (less, (s.chargeSrc src tid 5 1 c0).llcSector p b w e ⟨(g &&& gm) ||| (x.data &&& ~~~gm), true, po || (x.poison && !whole), tid, 0, false⟩)) (mask, s)
  if rest = 0 then (.done ⟨0, 0, 0⟩, s)
  else s.memWrite l (mkReq l (sectBits (covered rest)) rest data tid c0 false 0 src (stopOfSrc src a)) pois

end Sys2Proof.Machine
end

