-- ==== Sys2Proof/Machine/Thread.lean ====
section
/-! DEFINITION. An AKZ thread's registers, tags and CSRs, when it may issue, how an instruction retires, and the taking of
and return from a trap (R51 to R55, R90 to R100, R102, R112, R123, R147). -/
namespace Sys2Proof.Machine

/-- The register width of a thread's profile. -/
def wid (t : Nat) : Nat := if akz32 t then 32 else 64

/-- A word cut to a profile's width. -/
def cutTo (t : Nat) (v : Word) : Word := if akz32 t then (v.setWidth 32).setWidth 64 else v

/-! ### Registers -/

/-- A general register; g0 reads as zero (R52). -/
def Thread.reg (x : Thread) (r : Nat) : Word := if r = 0 then 0 else mgetD x.g r 0

/-- The Yarrow tag of a general register (R112). -/
def Thread.regY (x : Thread) (r : Nat) : Bool := decide (r ≠ 0) && x.gy.getLsbD r

/-- Write a general register with its tag; a write to g0 is discarded (R52). -/
def Thread.setReg (x : Thread) (r : Nat) (v : Word) (y : Bool) : Thread :=
  if r = 0 then x
  else { x with g := mset x.g r v 0, gy := if y then x.gy ||| (1#32 <<< r) else x.gy &&& ~~~(1#32 <<< r) }

def Thread.setCsr (x : Thread) (n : Nat) (v : Word) : Thread := { x with csr := mset x.csr n v (if n = 1 then 0x100 else 0) }

/-- The level of a thread's TID; AKZ32 accesses carry TID 0 (R449). -/
def Thread.tid (x : Thread) : Nat := getBits (x.csrv 0x801) 9 0

/-- UMODE.YARROW (R127). -/
def Thread.yarrow (x : Thread) : Bool := bitOf (x.csrv 0x030) 0

/-- HCORE.SORREL (R128). -/
def Thread.sorrel (x : Thread) : Bool := bitOf (x.csrv 0x830) 0

/-- FPTAG's bit of an f register: binary64 (R83). -/
def Thread.fdbl (x : Thread) (r : Nat) : Bool := bitOf (x.csrv 2) r

/-- An f register's 64 bits. -/
def Thread.freg (x : Thread) (r : Nat) : Word := mgetD x.f r 0

def Thread.fregY (x : Thread) (r : Nat) : Bool := x.fy.getLsbD r

/-- Write an f register with its format tag and its Yarrow tag; a binary32 value leaves bits [63:32] zero (R83). -/
def Thread.setFreg (x : Thread) (r : Nat) (dbl : Bool) (v : Word) (y : Bool) : Thread :=
  let x := x.setCsr 2 (setBit (x.csrv 2) r dbl)
  { x with f := mset x.f r (if dbl then v else (v.setWidth 32).setWidth 64) 0,
           fy := if y then x.fy ||| (1#32 <<< r) else x.fy &&& ~~~(1#32 <<< r) }

/-- Privilege codes (R94) and their order (R54). -/
def Priv.code (p : Priv) : Nat := match p with | .u => 0 | .s => 1 | .h => 2

def Priv.ofCode (n : Nat) : Priv := match n with | 0 => .u | 1 => .s | _ => .h

/-! ### When a thread may issue -/

/-- A TID is held by Thistle (R399). -/
def State.held (s : State) (tid : Nat) : Bool := bitOf (s.rd .THS_HOLDMAP 0 (tid / 64)) (tid % 64)

/-- A thread is fetch-gated: at U or S, its TID holds or its balance is negative, or the device gate applies
(R365, R368, R399). -/
def State.fetchGated (s : State) (t : Nat) : Bool :=
  let x := s.thread t
  !akz32 t && decide (x.priv ≠ .h) && (s.negative x.tid || s.held x.tid)

/-- The core of a compute thread is awake and serves. -/
def State.coreUp (s : State) (t : Nat) : Bool :=
  s.domOn (clDom (t / 16)) && !(s.core (coreOf t)).failed && (s.rd .ERR_CORESTAT 0 (t / 16)).getLsbD (t % 16 / 2) && s.fld F.CL_SLPCTL_STATE (t / 16) (t % 16 / 2) == 0

/-- A thread is at a commit point (R102, R125, R376, R460): it runs, waits for no access, is not within an interrupt entry,
and its core is up. -/
def State.atCommit (s : State) (t : Nat) : Bool :=
  let x := s.thread t
  s.live && decide (x.run = .running) && x.await.isNone && (mget s.entering t).isNone && (akz32 t || s.coreUp t)

/-- A thread can issue: it is at a commit point and not fetch-gated. -/
def State.canIssue (s : State) (t : Nat) : Bool := s.atCommit t && !s.fetchGated t

/-- The vector that a thread takes next (R121, R122): while it is fetch-gated, one that targets H (R365). -/
def State.nextVec (s : State) (t : Nat) (ie : Bool) : Option EntrySel :=
  if s.fetchGated t then s.bestVec t ie (fun v => (s.vecCfg t v).2) else s.bestVec t ie

/-! ### The L1 TLBs (R137) -/

/-- A list of entries with recently-used bits takes a committed access to e: not-recently-used order among n. -/
def nruList (n : Nat) (l : List (TlbEnt × Bool)) (e : TlbEnt) : List (TlbEnt × Bool) :=
  let l := l.filter (fun p => decide (p.1 ≠ e))
  let l := if l.length < n then l else l.eraseIdx ((l.findIdx? (fun p => !p.2)).getD 0)
  if l.all (fun p => p.2) && decide (l.length + 1 = n) then l.map (fun p => (p.1, false)) ++ [(e, true)] else l ++ [(e, true)]

/-- An access through an entry of L2 commits: an L1 miss copies the entry, and both levels note the use. An entry that has
left L2 since is not copied. -/
def State.tlbUse (s : State) (c : Nat) (u : TlbUse) : State :=
  let x := s.core c
  let e := u.ent
  if mget (mgetD x.l2tlb u.set .empty).ways u.way ≠ some e then s
  else
    let hit := (if u.fetch then x.itlb else x.dtlb).any (fun p => decide (p.1 = e))
    let x : Core := if u.fetch then { x with itlb := nruList 64 x.itlb e } else { x with dtlb := nruList 96 x.dtlb e }
    let x : Core := if hit then x else { x with l2tlb := mput x.l2tlb u.set ((mgetD x.l2tlb u.set .empty).touch 4 u.way) }
    s.setCore c x

/-! ### Retiring -/

/-- The performance level of a thread's cluster, which scales the energy of its core (R357). -/
def State.levelOf (s : State) (t : Nat) : Nat := s.fld F.ENL_PLVL_CUR 0 (t / 16)

/-- Activity of a thread's core is charged to its TID (R358); a pair has no TID CSR and carries TID 0 (R449), at 1.00 V. -/
def State.chargeCore (s : State) (t k n : Nat) : State :=
  if akz32 t then s.charge 0 k n false else s.charge (s.thread t).tid k n false (s.levelOf t)

/-- What the instruction's accesses change when it commits: the TLBs (R137), and SRLOUT (R119). -/
def State.commitUses (s : State) (t : Nat) : State :=
  let x := s.thread t
  let s := x.touch.foldl (fun s u => s.tlbUse (coreOf t) u) s
  s.setThread t { (if x.gone then x.setCsr 0x204 (x.csrv 0x204 + 1) else x) with touch := [], gone := false }

/-- An instruction commits: its effect f on the thread, the next pc, and INSTRET (R53, R90). -/
def State.retireTo (s : State) (t : Nat) (pc : Word) (f : Thread → Thread) : State :=
  let s := s.commitUses t
  let x := f (s.thread t)
  (s.setThread t { x.setCsr 0x201 (x.csrv 0x201 + 1) with pc := cutTo t pc }).chargeCore t 0 1

/-- An instruction commits and the next one follows it. -/
def State.retire (s : State) (t : Nat) (f : Thread → Thread) : State := s.retireTo t ((s.thread t).pc + 4) f

/-! ### Wrong paths (R108, R110, R111) -/

/-- The younger instructions of a thread are squashed: its entries of the fill buffer go (R108). -/
def State.dropAhead (s : State) (t : Nat) : State :=
  let c := s.core (coreOf t)
  (s.setCore (coreOf t) { c with fillBuf := c.fillBuf.filter (fun e => e.slot != t % 2) }).setThread t
    { s.thread t with ahead := [] }

/-- The wrong path after a mispredicted branch or a trap is squashed: WPATH counts the squashed instructions that made a
lookup, and the ledger their work. Beside the loads that a command has shown, how many there were the model leaves open,
up to the 512 that the reorder buffer holds (entry 136). A Sorrel thread runs no wrong path (R115). -/
def State.squash (s : State) (t : Nat) : State :=
  if akz32 t || s.sorrel t then s
  else
    let (w, s) := s.draw
    let x := s.thread t
    let n := x.ahead.length + w.toNat % 512
    let l2 := (s.core (coreOf t)).fillBuf.countP (fun e => e.slot == t % 2)
    let s := (s.setThread t (x.setCsr 0x203 (x.csrv 0x203 + BitVec.ofNat 64 n))).dropAhead t
    (s.chargeCore t 2 n).chargeCore t 3 l2

/-! ### Traps (R92 to R98) -/

/-- What a synchronous trap delivers (R93). -/
structure Trap where
  cause : Nat
  inst  : Nat
  addr  : Word
  info  : Nat
deriving DecidableEq, Repr

/-- The frame of an entry into a level and the change of status and privilege (R96, R147): everything but the pc. -/
def Thread.enterLevel (x : Thread) (h : Bool) (cause inst addr info : Word) : Thread :=
  let b := lvlBase h
  let st := x.csrv b
  let status : Nat := x.priv.code + b2n (bitOf st 0) * 4 + getBits (x.csrv 0x420) 3 0 * 256
  let x := ((((((x.setCsr (b + 0x10) x.pc).setCsr (b + 0x11) cause).setCsr (b + 0x12) inst).setCsr (b + 0x13) addr).setCsr
    (b + 0x14) (BitVec.ofNat 64 status)).setCsr (b + 0x15) info).setCsr b (setBits st 1 0 2)
  let x := if h then x else x.setCsr 0x434 (if bitOf (x.csrv 0x434) 0 then 2 else 0)
  { x with priv := if h then .h else .s, resv := none, hold := false }

/-- XVEC. -/
def Thread.vec (x : Thread) (h : Bool) : Word := x.csrv (lvlBase h + 8)

/-- A trap is entered at a level (R96). -/
def State.trapAt (s : State) (t : Nat) (h : Bool) (k : Trap) : State :=
  let x := s.thread t
  let y := x.enterLevel h (BitVec.ofNat 64 k.cause) (BitVec.ofNat 64 k.inst) k.addr (BitVec.ofNat 64 k.info)
  s.setThread t { y with pc := cutTo t (x.vec h + BitVec.ofNat 64 (64 * k.cause)) }

/-- A trap to H meets HSTATUS.INTRAP: the thread stops, and the core raises a RAS event (R97). -/
def State.stopAtH (s : State) (t : Nat) : State :=
  (s.setThread t { s.thread t with run := .stopped }).record
    { kind := 0x0D, target := 32 + t / 16, sub := t % 16 / 2, sev := 3, tid := (s.thread t).tid }

/-- The target level of a synchronous trap is H (R95). -/
def Thread.toH (x : Thread) (cause : Nat) : Bool :=
  decide (x.priv = .h) || cause == 0x01 || cause == 0x0E || cause == 0x10 || cause == 0x11 || !bitOf (x.csrv 0x802) cause

/-- A thread takes a synchronous trap (R95, R96, R97). -/
def State.trap (s : State) (t : Nat) (k : Trap) : State :=
  let s := s.squash t
  let x := s.thread t
  if akz32 t then
    if x.intrap false then s.lockstepFail (t == 512) 1 else s.trapAt t false k
  else if x.toH k.cause then
    if x.intrap true then s.stopAtH t else s.trapAt t true k
  else if x.intrap false then
    if x.intrap true then s.stopAtH t else s.trapAt t true { k with cause := 0x10, info := k.cause }
  else s.trapAt t false k

/-- Poison is consumed: a record, which names the global address, and a precise MACHINE-CHECK that names the record (R416,
R425). -/
def State.machineCheck (s : State) (t inst : Nat) (addr ga : Word) : State :=
  let i := s.fld F.ERR_LOGHEAD_NEXT
  let (tg, sub) : Nat × Nat := if t = 512 then (148, 0) else if t = 513 then (149, 0) else (32 + t / 16, t % 16 / 2)
  (s.record { kind := 0x04, target := tg, sub := sub, sev := 2, tid := if akz32 t then 0 else (s.thread t).tid, addr := ga }).trap t
    ⟨0x11, inst, addr, i⟩

/-- Return from a trap at the current level (R98, R123, R147). -/
def Thread.tretAt (x : Thread) (h : Bool) : Thread :=
  let b := lvlBase h
  let st := x.csrv (b + 0x14)
  let x := (x.setCsr b (if bitOf st 2 then 1 else 0)).setCsr 0x420 (BitVec.ofNat 64 (getBits st 11 8))
  let x := if h then x else x.setCsr 0x434 (if bitOf (x.csrv 0x434) 1 then 3 else 0)
  { x with priv := Priv.ofCode (getBits st 1 0), resv := none, hold := false }

/-! ### What an access completes -/

/-- A loaded value of `size` bytes, extended to the register width (R67). -/
def extend (t size : Nat) (signed : Bool) (v : Word) : Word :=
  let n := v.toNat % 2 ^ (8 * size)
  cutTo t (BitVec.ofNat 64 (if signed then encInt 64 (sexNat (8 * size) n) else n))

/-- The walk cache takes a word (R149): the not-recently-used entry goes when all 512 are taken. -/
def State.walkPut (s : State) (c : Nat) (e : WalkEnt) : State :=
  let x := s.core c
  let w := x.walk
  let w := if w.length < 512 then w else w.eraseIdx ((w.findIdx? (fun p => !p.2)).getD 0)
  let full := w.all (fun p => p.2) && decide (w.length = 511)
  let w := if full then w.map (fun p => (p.1, false)) else w
  (s.setCore c { x with walk := w ++ [(e, true)] }).arrWrite (coreTarget c) (coreSub c 4) w.length

/-- A thread's fabric store fails after it committed; the first failure is kept until FENCE.F (R74). -/
def State.storeFailed (s : State) (t : Nat) (addr : Word) (reason : Nat) : State :=
  let x := s.thread t
  if x.storeFail.isSome then s else s.setThread t { x with storeFail := some (addr, BitVec.ofNat 3 reason) }

/-! ### A thread's start (R54, R100, R448) -/

/-- A thread starts afresh at a pc. -/
def State.startAt (s : State) (t : Nat) (pc : Word) : State :=
  ({ s with entering := merase s.entering t }).setThread t { Thread.initial t with pc := pc, run := .running }

end Sys2Proof.Machine
end

