-- ==== Sys2Proof/Machine/Tlb.lean ====
section
/-! DEFINITION. Translation contexts, the TLBs, permissions and the walk cache (R134 to R150). -/
namespace Sys2Proof.Machine

/-! ### Entries -/

/-- The page-size exponent s of an entry (R157). -/
def TlbEnt.size (e : TlbEnt) : Nat := getBits e.attr 5 0
def TlbEnt.glb (e : TlbEnt) : Bool := bitOf e.attr 10
def TlbEnt.lvl (e : TlbEnt) : Bool := bitOf e.attr 11
def TlbEnt.locked (e : TlbEnt) : Bool := bitOf e.attr 12
def TlbEnt.asid (e : TlbEnt) : Nat := getBits e.attr 47 32

/-- The band of a page size and the lowest bit of its set index (R136). -/
def tlbBand (s : Nat) : Nat × Nat :=
  if s ≤ 12 then (0, 12) else if s ≤ 14 then (1, 14) else if s ≤ 16 then (2, 16) else if s ≤ 18 then (3, 18)
  else if s ≤ 21 then (4, 21) else if s ≤ 25 then (5, 25) else if s ≤ 30 then (6, 30) else (7, 40)

/-- The key in Core.l2tlb of the set of a virtual address in the band of size s. -/
def tlbKey (s : Nat) (va : Word) : Nat :=
  let (b, lo) := tlbBand s
  128 * b + getBits va (lo + 6) lo

/-- An entry's range holds an address (R137). -/
def TlbEnt.covers (e : TlbEnt) (va : Word) : Bool := e.va.toNat / 2 ^ e.size == va.toNat / 2 ^ e.size

/-! ### Contexts (R134) -/

/-- The translation contexts. -/
inductive Ctx where
  | tenant | bare | hyper
deriving DecidableEq, Repr

/-- The context of a thread. -/
def Thread.ctx (x : Thread) : Ctx :=
  if x.priv = .h then (if bitOf (x.csrv 0x834) 0 then .hyper else .bare) else .tenant

/-- A thread's SASID.ASID. -/
def Thread.asid (x : Thread) : Nat := getBits (x.csrv 0x433) 15 0

/-- An entry belongs to a thread's context. -/
def TlbEnt.inCtx (e : TlbEnt) (x : Thread) : Bool :=
  match x.ctx with
  | .bare => false
  | .hyper => e.lvl
  | .tenant => !e.lvl && e.tid.toNat == x.tid && (e.glb || e.asid == x.asid)

/-- The eight sets that a lookup probes. -/
def tlbProbe (va : Word) : List Nat := [12, 14, 16, 18, 21, 25, 30, 40].map (fun s => tlbKey s va)

/-- The entries that translate an address for a thread: set, way, entry. -/
def Core.tlbHits (c : Core) (x : Thread) (va : Word) : List (Nat × Nat × TlbEnt) :=
  (tlbProbe va).flatMap (fun k =>
    ((mgetD c.l2tlb k .empty).ways.filter (fun e => e.2.covers va && e.2.inCtx x)).map (fun e => (k, e.1, e.2)))

/-- The one with the smallest page is used (R137). -/
def Core.tlbFind (c : Core) (x : Thread) (va : Word) : Option (Nat × Nat × TlbEnt) :=
  (c.tlbHits x va).foldl (fun b e => match b with
    | none => some e
    | some f => if e.2.2.size < f.2.2.size then some e else some f) none

/-- The global address an entry gives (R135, R137). -/
def TlbEnt.global (e : TlbEnt) (va : Word) : Word :=
  BitVec.ofNat 64 (e.pa.toNat / 2 ^ e.size * 2 ^ e.size + va.toNat % 2 ^ e.size)

/-! ### Entries that leave (R139, R141) -/

/-- An entry leaves the TLBs of a core, with its L1 copies (R141). -/
def Core.tlbDrop (x : Core) (k w : Nat) : Core :=
  let st := mgetD x.l2tlb k .empty
  match mget st.ways w with
  | none => x
  | some e =>
    { x with l2tlb := mput x.l2tlb k { st with ways := merase st.ways w }, itlb := x.itlb.filter (fun p => decide (p.1 ≠ e)),
             dtlb := x.dtlb.filter (fun p => decide (p.1 ≠ e)) }

/-- Every entry of a core that meets p leaves (R139). -/
def Core.tlbRemove (x : Core) (p : TlbEnt → Bool) : Core :=
  { x with l2tlb := x.l2tlb.map (fun e => (e.1, { e.2 with ways := e.2.ways.filter (fun w => !p w.2) })),
           itlb := x.itlb.filter (fun e => !p e.1), dtlb := x.dtlb.filter (fun e => !p e.1) }

/-- The array word of an L2 TLB entry (R421). -/
def tlbWord (k w : Nat) : Nat := 4 * k + w

/-! ### Translating (R134, R143, R145, R146) -/

/-- What an access asks of an entry. -/
inductive Acc where
  | fetch | load | store | atomic
deriving DecidableEq, Repr

def Acc.code (a : Acc) : Nat := match a with | .fetch => 0 | .load => 1 | .store => 2 | .atomic => 3

/-- What translation gives: the global address, the Yarrow attribute, the CODEC, and the entry used. -/
structure Xlat where
  ga    : Word
  y     : Bool
  codec : BitVec 4
  ent   : Option (Nat × Nat × TlbEnt)
deriving DecidableEq, Repr

/-- XTF_INFO of PROTECTION and GUARD (R146). -/
def protInfo (a : Acc) (reason : Nat) : Nat := a.code + 16 * reason

/-- The decision table of R145: the cause and the reason of a refusal. -/
def permit (x : Thread) (e : TlbEnt) (a : Acc) (needR needW : Bool) : Option (Nat × Nat) :=
  let u := bitOf e.attr 9
  if x.priv = .u ∧ !u then some (0x07, 4)
  else if x.priv = .s ∧ u ∧ a = .fetch then some (0x08, 1)
  else if x.priv = .s ∧ u ∧ !bitOf (x.csrv 0x434) 0 then some (0x08, 2)
  else if a = .fetch ∧ !bitOf e.attr 8 then some (0x07, 3)
  else if needR ∧ !bitOf e.attr 6 then some (0x07, 1)
  else if needW ∧ !bitOf e.attr 7 then some (0x07, 2)
  else none

/-- An access of a compute thread is translated: the global address, or the cause and info of a trap. An entry that the
array's code finds uncorrectable is invalidated, so the access misses (R415); a miscorrected one reads as free values. -/
def State.translate (s : State) (t : Nat) (va : Word) (a : Acc) (needR needW : Bool) : Sum (Nat × Nat) Xlat × State :=
  let x := s.thread t
  let c := coreOf t
  if x.ctx = .bare then (.inr ⟨va, false, 0, none⟩, s)
  else
    match (s.core c).tlbFind x va with
    | none => (.inl (if a = .fetch then 0x05 else 0x06, 0), s)
    | some (k, w, e) =>
      let (r, s) := s.arrJudge (coreTarget c) (coreSub c 3) (tlbWord k w)
      if r = .uncorrectable then
        let s := s.setCore c ((s.core c).tlbDrop k w)
        (.inl (if a = .fetch then 0x05 else 0x06, 0), s.arrUncorr 0x02 (coreTarget c) (coreSub c 3) (tlbWord k w) x.tid)
      else
        let s := if r = .corrected then s.arrCorrect (coreTarget c) (coreSub c 3) (tlbWord k w) x.tid else s
        let (read, s) := if r = .beyond then
            let (pa, s) := s.draw
            let (attr, s) := s.draw
            ({ e with pa, attr }, s)
          else (e, s)
        match permit x read a needR needW with
        | some (cause, reason) => (.inl (cause, protInfo a reason), s)
        | none => (.inr ⟨read.global va, bitOf read.attr 13, BitVec.ofNat 4 (getBits read.attr 17 14), some (k, w, e)⟩, s)

/-! ### TLBW (R140 to R142) -/

/-- A reserved CODEC encoding (R157). -/
def codecReserved (c : Nat) : Bool := decide (c % 4 = 3 ∨ (c / 4 = 0 ∧ c ≠ 0))

/-- Range k of the HPR registers holds lo to hi and grants what is asked (R142). -/
def Thread.hprCovers (x : Thread) (lo hi : Nat) (w ex : Bool) : Bool :=
  (List.range 8).any (fun k =>
    let b := x.csrv (0x840 + k)
    let l := x.csrv (0x848 + k)
    bitOf b 0 && decide (getBits b 63 12 * 4096 ≤ lo ∧ hi ≤ getBits l 63 12 * 4096 + 4095) &&
      (!w || bitOf b 1) && (!ex || bitOf b 2))

/-- The entry that TLBW would write. -/
def Thread.tlbNew (x : Thread) : TlbEnt where
  va := x.csrv 0x430
  pa := x.csrv 0x431
  attr := x.csrv 0x432
  tid := BitVec.ofNat 10 x.tid

/-- The same entry, for a replacement in place (R141). -/
def TlbEnt.same (a b : TlbEnt) : Bool :=
  a.va == b.va && a.size == b.size && a.lvl == b.lvl && a.tid == b.tid && a.asid == b.asid

/-- The status checks of R140, in order. -/
def State.tlbStatus (s : State) (t : Nat) (e : TlbEnt) : Nat :=
  let x := s.thread t
  let n := e.size
  let codec := getBits e.attr 17 14
  let lo := e.pa.toNat
  let hi := e.pa.toNat + 2 ^ n - 1
  let st := mgetD (s.core (coreOf t)).l2tlb (tlbKey n e.va) .empty
  if n < 12 ∨ 40 < n ∨ e.va.toNat % 2 ^ n ≠ 0 ∨ e.pa.toNat % 2 ^ n ≠ 0 then 1
  else if bitOf e.attr 7 && !bitOf e.attr 6 then 2
  else if codecReserved codec || (bitOf e.attr 13 && codec != 0) then 3
  else if ctlBase ≤ localOf (BitVec.ofNat 64 hi) ∧ (!s.ownNode (nodeOf e.pa) ∨ codec ≠ 0) then 4
  else if e.lvl && decide (x.priv = .s) then 5
  else if decide (x.priv = .s) && !x.hprCovers lo hi (bitOf e.attr 7) (bitOf e.attr 8) then 6
  else if e.locked && decide (3 ≤ (st.ways.filter (fun w => w.2.locked && !w.2.same e)).length) then 7
  else 0

/-- The entry is placed (R141). -/
def State.tlbPlace (s : State) (c : Nat) (e : TlbEnt) : State :=
  let k := tlbKey e.size e.va
  let x := s.core c
  let st := mgetD x.l2tlb k .empty
  let w := match st.find (fun o => o.same e) with
    | some (w, _) => w
    | none => (st.nruVictim 4 (fun i => match mget st.ways i with | some o => !o.locked | none => true)).getD 0
  let x := x.tlbDrop k w
  let st := mgetD x.l2tlb k .empty
  let st := ({ st with ways := mput st.ways w e } : CSet TlbEnt).touch 4 w
  (s.setCore c { x with l2tlb := mput x.l2tlb k st }).arrWrite (coreTarget c) (coreSub c 3) (tlbWord k w)

/-! ### The walk cache (R149) -/

/-- The walk-cache entry of a key. -/
def Core.walkFind (x : Core) (base index : Word) (tid : Nat) : Option (Nat × WalkEnt) :=
  match x.walk.findIdx? (fun p => decide (p.1.base = base ∧ p.1.index = index ∧ p.1.tid.toNat = tid)) with
  | none => none
  | some i => match x.walk[i]? with | some p => some (i, p.1) | none => none

/-- Entries of the walk cache that meet p go (R139). -/
def Core.walkRemove (x : Core) (p : WalkEnt → Bool) : Core := { x with walk := x.walk.filter (fun e => !p e.1) }

end Sys2Proof.Machine
end

