-- ==== Sys2Proof/Machine/Interrupt.lean ====
section
/-! DEFINITION. Interrupts (R120 to R125), sleep of cores (R376 to R378) and the Sorrel region (R115, R116). -/
namespace Sys2Proof.Machine

/-! ### Entry (R123, R124) -/

/-- A pending bit is cleared. -/
def State.unpend (s : State) (t v : Nat) : State :=
  if t = 512 then s.wr .KPR_IPEND (setBit (s.rd .KPR_IPEND) v false)
  else if t = 513 then s.wr .CAD_IPEND (setBit (s.rd .CAD_IPEND) v false)
  else
    let n := 4 * (t % 16) + v / 64
    s.wr .CL_IPEND (setBit (s.rd .CL_IPEND (t / 16) n) (v % 64) false) (t / 16) n

/-- The latch at the end of cycle 16: the pending bit clears, the frame is written, IPRIO takes the priority, and the
handler's address is the next to issue. -/
def State.enterVec (s : State) (t : Nat) (e : EntrySel) : State :=
  let s := s.unpend t e.vec
  let x := s.thread t
  let cause : Word := cutTo t (BitVec.ofNat 64 (0x20 + e.vec * 256 + 2 ^ 63))
  let y := (x.enterLevel e.toH cause 0 0 0).setCsr 0x420 (BitVec.ofNat 64 e.prio)
  ({ s with entering := merase s.entering t }).setThread t { y with pc := cutTo t (x.vec e.toH + BitVec.ofNat 64 (0x4000 + 64 * e.vec)) }

/-- Cycle 0: a vector is selected at a commit point, and what the thread has run ahead is squashed. AKZ32 has no selection
window, so it is entered. -/
def State.selectVec (s : State) (t : Nat) (e : EntrySel) : State :=
  if akz32 t then s.enterVec t e else { s.dropAhead t with entering := mput s.entering t e }

/-- INTERRUPT_ENTRY (R122 to R124): at the latch, the vector selected or the last to take over is entered, with the
CL_IVCFG it was selected under. -/
def execInterruptEntry (t : Th) (ph : EntryPhase) (s : State) : Host.Outcome State Fault Refusal :=
  let n := t.val
  .next <| match ph with
  | .select => if !s.atCommit n then s else match s.nextVec n false with
    | none => s
    | some e => s.selectVec n e
  | .latch => match mget s.entering n with
    | none => s
    | some e => s.enterVec n e

/-- A write to CL_IRAISE (R120, R132). -/
def State.actRaise (s : State) (cl : Nat) (v : Word) : State :=
  s.pendVector cl (F.CL_IRAISE_THREAD.of v) (F.CL_IRAISE_VECTOR.of v)

/-- RAISE_INTERRUPT (R120). -/
def execRaiseInterrupt (m : Master) (cl : Fin 32) (v : BitVec 32) (s : State) : Host.Outcome State Fault Refusal :=
  .next (s.ctlW m .CL_IRAISE cl.val 0 (fun s => s.actRaise cl.val (v.setWidth 64)))

/-! ### WFI and sleep (R125, R376 to R378) -/

/-- A waiting thread's wait ends: it takes the interrupt that is deliverable, or issues the next instruction. -/
def State.wakeThread (s : State) (t : Nat) : State :=
  let x := s.thread t
  if x.run = .waiting ∧ (s.nextVec t true).isSome then
    let s := s.setThread t { x with run := .running }
    match s.nextVec t false with
    | some e => s.selectVec t e
    | none => s
  else s

/-- The core of a thread sleeps, or is entering or leaving sleep. -/
def State.sleeping (s : State) (c : Nat) : Bool :=
  s.fld F.CL_SLPCTL_STATE (c / 8) (c % 8) != 0 || s.flag F.CL_SLPCTL_ENTERING (c / 8) (c % 8)

/-- WFI_WAKE (R125): a sleeping core wakes first (R376). -/
def execWfiWake (t : Th) (s : State) : Host.Outcome State Fault Refusal :=
  .next (if s.live && (akz32 t.val || !s.sleeping (coreOf t.val)) then s.wakeThread t.val else s)

/-- SLEEP_ENTRY (R376): a core whose Sorrel region is READY enters S2 in place of S3. -/
def execSleepEntry (c : Fin 256) (s : State) : Host.Outcome State Fault Refusal :=
  let n := c.val
  let d := s.fld F.CL_SLPCTL_DEPTH (n / 8) (n % 8)
  let both := [thOf n 0, thOf n 1].all (fun t => decide ((s.thread t).run = .waiting))
  .next <|
    if s.live && s.domOn (clDom (n / 8)) && both && d != 0 && !s.sleeping n then
      let deep := if d = 3 && s.flag F.CL_SRLCTL_READY (n / 8) (n % 8) then 2 else d
      (s.setFld F.CL_SLPCTL_ENTERING 1 (n / 8) (n % 8)).setCore n { s.core n with sleepTo := deep, wakePending := false }
    else s

/-- Every line of a core's L2 leaves; dirty ones go to the LLC (R376). -/
def State.l2Empty (s : State) (c : Nat) : State :=
  ((s.core c).l2.flatMap (fun e => e.2.ways.map (fun w => w.2.gran))).foldl (fun s g =>
    (s.recallCopy c (g * 64)).dirLeave (g * 64) c) s

/-- What a core loses in a sleep state (R376). -/
def State.sleepLose (s : State) (c depth : Nat) : State :=
  if depth ≤ 1 then s
  else
    let s := [thOf c 0, thOf c 1].foldl State.clearResv s
    if depth = 2 then
      let s := [thOf c 0, thOf c 1].foldl (fun s t => s.setThread t { s.thread t with ras := [], fetched := [] }) s
      s.setCore c { s.core c with l1i := [], l1d := [], itlb := [], dtlb := [], dirPred := [], indPred := [], fillBuf := [], train := [], walk := [] }
    else
      let s := s.l2Empty c
      let s := s.setCore c { Core.initial with wakePending := (s.core c).wakePending }
      [thOf c 0, thOf c 1].foldl (fun s t =>
        s.setThread t { Thread.initial t with run := if (s.thread t).run = .halted then .halted else .waiting }) s

/-- SLEEP_ENTRY_DONE (R378): a wake that came during the entry starts now. -/
def execSleepEntryDone (c : Fin 256) (s : State) : Host.Outcome State Fault Refusal :=
  let n := c.val
  .next <|
    if s.flag F.CL_SLPCTL_ENTERING (n / 8) (n % 8) then
      let d := (s.core n).sleepTo
      let s := ((s.sleepLose n d).setFld F.CL_SLPCTL_ENTERING 0 (n / 8) (n % 8)).setFld F.CL_SLPCTL_STATE d (n / 8) (n % 8)
      if (s.core n).wakePending then
        (s.setCore n { s.core n with wakePending := false }).setFld F.CL_SLPCTL_WAKING 1 (n / 8) (n % 8)
      else s
    else s

/-- The wake condition of R377 for a core whose sleep state is, or will be, d. -/
def State.wakeCond (s : State) (c d : Nat) : Bool :=
  [thOf c 0, thOf c 1].any (fun t =>
    decide ((s.thread t).run = .halted) ||
    (if d = 3 then (List.range 256).any (fun v => s.vecPending t v && (let (p, h) := s.vecCfg t v; h && p != 0))
     else (s.nextVec t true).isSome))

/-- A core starts to wake, or will when its entry ends (R378). -/
def State.wakeCore (s : State) (c : Nat) : State :=
  if s.flag F.CL_SLPCTL_ENTERING (c / 8) (c % 8) then s.setCore c { s.core c with wakePending := true }
  else if s.fld F.CL_SLPCTL_STATE (c / 8) (c % 8) ≠ 0 then s.setFld F.CL_SLPCTL_WAKING 1 (c / 8) (c % 8)
  else s

/-- SLEEP_WAKE_EVENT (R377). -/
def execSleepWakeEvent (c : Fin 256) (s : State) : Host.Outcome State Fault Refusal :=
  let n := c.val
  let d := if s.flag F.CL_SLPCTL_ENTERING (n / 8) (n % 8) then (s.core n).sleepTo else s.fld F.CL_SLPCTL_STATE (n / 8) (n % 8)
  .next (if s.live && s.sleeping n && s.wakeCond n d then s.wakeCore n else s)

/-- A thread starts at the PC of its CL_STARTPC (R377, R448). -/
def State.startPc (s : State) (t : Nat) : Word := s.rd .CL_STARTPC (t / 16) (t % 16) &&& ~~~3#64

/-- SLEEP_WAKE_DONE (R376, R377): from S3 both threads start afresh, and the vector stays pending. -/
def execSleepWakeDone (c : Fin 256) (s : State) : Host.Outcome State Fault Refusal :=
  let n := c.val
  let d := s.fld F.CL_SLPCTL_STATE (n / 8) (n % 8)
  .next <|
    if s.flag F.CL_SLPCTL_WAKING (n / 8) (n % 8) then
      let s := (s.setFld F.CL_SLPCTL_WAKING 0 (n / 8) (n % 8)).setFld F.CL_SLPCTL_STATE 0 (n / 8) (n % 8)
      [thOf n 0, thOf n 1].foldl (fun s t =>
        if d = 3 then
          let h := decide ((s.thread t).run = .halted)
          let s := s.startAt t (s.startPc t)
          if h then s.setThread t { s.thread t with run := .halted } else s
        else s.wakeThread t) s
    else s

/-! ### The Sorrel region (R115, R116) -/

/-- The region of a core: its first byte and its length. -/
def State.sorrelRegion (s : State) (c : Nat) : Nat × Nat :=
  (s.fld F.CL_SRLCTL_BASE (c / 8) (c % 8) * 2 ^ 17, s.fld F.CL_SRLCTL_WAYS (c / 8) (c % 8) * 2 ^ 17)

/-- A local address lies in a core's region, which is READY. -/
def State.inRegion (s : State) (c a : Nat) : Bool :=
  let (b, n) := s.sorrelRegion c
  s.flag F.CL_SRLCTL_READY (c / 8) (c % 8) && decide (b ≤ a ∧ a < b + n)

/-- Every granule of a range is local memory: its first and last bytes lie in enabled ranges, and so does each GiB
between. -/
def State.rangeLocal (s : State) (a n : Nat) : Bool :=
  decide (a + n ≤ ctlBase) &&
    (List.range ((a + n - 1) / 2 ^ 17 + 1 - a / 2 ^ 17)).all (fun k => (s.mapAddr ((a / 2 ^ 17 + k) * 2 ^ 17)).isSome)

/-- The locked lines of a core are released: they stay cached, and an entry stays pinned that another core's region holds
(R116, R237). -/
def State.releaseRegion (s : State) (c : Nat) : State :=
  let x := s.core c
  let grans := x.l2.flatMap (fun e => (e.2.ways.filter (fun w => w.2.locked)).map (fun w => w.2.gran))
  let s := s.setCore c { x with
    l2 := x.l2.map (fun e => (e.1, { e.2 with ways := e.2.ways.map (fun w => (w.1, { w.2 with locked := false })) })),
    srlLoading := false }
  let s := grans.foldl (fun s g => match s.dirFind (g * 64) with
    | some (p, w, e) => if (s.lockedCores (g * 64)).isEmpty then s.dirPut p (g * 64) w { e with pinned := false } else s
    | none => s) s
  (s.setFld F.CL_SRLCTL_READY 0 (c / 8) (c % 8)).setFld F.CL_SRLCTL_WAYS 0 (c / 8) (c % 8)

/-- A write to CL_SRLCTL (R115, R116, R131): WAYS 9 to 15 are reserved; a thread in Sorrel mode or a region that is not
local memory discards the write; during a load, the write starts the load of its own range (entry 138). -/
def State.actSrlctl (s : State) (m : Master) (c : Nat) (v : Word) : State :=
  let w := F.CL_SRLCTL_WAYS.of v
  let b := F.CL_SRLCTL_BASE.of v
  let off := Reg.CL_SRLCTL.off (c / 8) (c % 8)
  if 8 < w then s.ctlErr m true .reserved off
  else if s.sorrel (thOf c 0) || s.sorrel (thOf c 1) then s.ctlErr m true .stateRule off
  else if w = 0 then (s.releaseRegion c).setFld F.CL_SRLCTL_BASE b (c / 8) (c % 8)
  else if !s.rangeLocal (b * 2 ^ 17) (w * 2 ^ 17) then s.ctlErr m true .stateRule off
  else
    let s := s.releaseRegion c
    let s := (s.setFld F.CL_SRLCTL_WAYS w (c / 8) (c % 8)).setFld F.CL_SRLCTL_BASE b (c / 8) (c % 8)
    s.setCore c { s.core c with srlLoading := true }

/-- SORREL_REGION_LOAD (R116): WAYS 1 to 8. -/
def execSorrelRegionLoad (m : Master) (c : Fin 256) (v : Word) (s : State) : Host.Outcome State Fault Refusal :=
  .next (s.ctlW m .CL_SRLCTL (c.val / 8) (c.val % 8) (fun s => s.actSrlctl m c.val v))

/-- SORREL_REGION_RELEASE (R116): WAYS 0. -/
def execSorrelRegionRelease (m : Master) (c : Fin 256) (v : Word) (s : State) : Host.Outcome State Fault Refusal :=
  .next (s.ctlW m .CL_SRLCTL (c.val / 8) (c.val % 8) (fun s => s.actSrlctl m c.val v))

/-- How the locking of a granule ends: done, stopped, or to go on when a frozen channel answers. -/
inductive LockOut where
  | locked | stopped | waits
deriving DecidableEq, Repr

/-- One granule of the region comes into L2, locked, its directory entry pinned; a thirteenth pinned entry of a directory
set stops the load (R116, R237). The read carries TID 0; one that fails stops the load (entry 138). -/
def State.lockGran (s : State) (c a : Nat) : LockOut × State :=
  match s.obtain c a 0 false false true (.core (Fin.ofNat 514 (thOf c 0))) 1 with
  | (some .wait, s) => (.waits, s)
  | (some _, s) => (.stopped, s)
  | (none, s) =>
    match s.l2Find c (a / 64), s.dirFind a with
    | some (w, e), some (p, dw, d) =>
      let pins := (mgetD s.dir (dirKey p a) .empty).ways.countP (fun x => x.2.pinned)
      if !d.pinned && decide (12 ≤ pins) then (.stopped, s)
      else (.locked, (s.l2Put c w { e with locked := true }).dirPut p a dw { d with pinned := true })
    | _, _ => (.stopped, s)

/-- Granules are locked one after the other until one cannot be. -/
def State.lockGrans (s : State) (c a n : Nat) : LockOut × State :=
  match n with
  | 0 => (.locked, s)
  | n + 1 =>
    match s.lockGran c a with
    | (.locked, s) => s.lockGrans c (a + 64) n
    | (o, s) => (o, s)

/-- SORREL_REGION_READY (R116, R237): the load is complete and READY is set, or it has stopped, its ways are released and
a control-access error is logged, at the core's stop and as a state rule (entry 138); a read that a frozen channel holds
leaves the load in progress (R289). -/
def execSorrelRegionReady (c : Fin 256) (s : State) : Host.Outcome State Fault Refusal :=
  let n := c.val
  .next <|
    if (s.core n).srlLoading then
      let (b, len) := s.sorrelRegion n
      match s.lockGrans n b (len / 64) with
      | (.waits, s) => s
      | (.locked, s) => (s.setCore n { s.core n with srlLoading := false }).setFld F.CL_SRLCTL_READY 1 (n / 8) (n % 8)
      | (.stopped, s) => (s.releaseRegion n).ctlErrAt (coreStop (2 * n)) true .stateRule (Reg.CL_SRLCTL.off (n / 8) (n % 8))
    else s

/-- A thread slot's load runs ahead of an older unresolved instruction (R108 to R110): a hit in L1D changes nothing; one
that misses it and hits L2 takes an entry of the fill buffer, for which it waits while all 16 are taken; one that misses
L2 sends no request. The lookup is counted if the load is squashed (R111). -/
def State.lookAhead (s : State) (c slot gran : Nat) : State :=
  let t := thOf c slot
  let x := s.core c
  let seen (s : State) : State := s.setThread t { s.thread t with ahead := (s.thread t).ahead ++ [gran] }
  if s.sorrel t ∨ !s.canIssue t then s
  else if s.l1dHas c gran || x.fillBuf.contains ⟨slot, gran⟩ || (s.l2Find c gran).isNone then seen s
  else if x.fillBuf.length < 16 then seen (s.setCore c { x with fillBuf := x.fillBuf ++ [⟨slot, gran⟩] })
  else s

/-- A prefetcher asks for a line: one near an access that it has trained on (R104, R113; entry 137). -/
def Core.asks (x : Core) (gran : Nat) : Bool := x.train.any (fun g => decide (g ≤ gran + 64 ∧ gran ≤ g + 64))

/-- A line comes into a core's L2, and into L1D where `l1` says so. -/
def State.fillLine (s : State) (c slot a age : Nat) (l1 : Bool) : State :=
  let t := thOf c slot
  let tid := (s.thread t).tid
  match s.obtain c a tid false false false (.core (Fin.ofNat 514 t)) age with
  | (some .noMemory, s) => s.noMemory tid (s.globalOf a)
  | (some _, s) => s
  | (none, s) => if l1 && !s.l1dHas c (a / 64) then s.l1dFill c (a / 64) else s

/-- CORE_MISS_FILL (R104, R108, R233, R234): data for a demand miss of a thread, or for a prefetcher's line, fills the LLC
sectors, L2 and L1D; a stream's LLC lines take age 3, and its lines stop at L2. -/
def execCoreMissFill (c : Fin 256) (a : Word) (kind : FillKind) (s : State) : Host.Outcome State Fault Refusal :=
  let n := c.val
  let gran := a.toNat / 64
  .next <|
    if s.live && s.domOn (clDom (n / 8)) && !(s.core n).failed && (s.rd .ERR_CORESTAT 0 (n / 8)).getLsbD (n % 8) && decide (a.toNat < ctlBase) then
      match kind with
      | .demand h => s.fillLine n h.val a.toNat 1 (!s.sorrel (thOf n h.val))
      | .stride => if (s.core n).asks gran then s.fillLine n 0 a.toNat 1 true else s
      | .stream => if (s.core n).asks gran then s.fillLine n 0 a.toNat 3 false else s
      | .early h => s.lookAhead n h.val gran
    else s

end Sys2Proof.Machine
end

