-- ==== Sys2Proof/Machine/Await.lean ====
section
/-! DEFINITION. The completion of an access that an instruction of an AKZ thread waits for (R53, R67, R74, R76, R99, R119, R149,
R289, R317). -/
namespace Sys2Proof.Machine

/-- A fetch that lies outside the Sorrel region of a Sorrel thread counts in SRLOUT (R119). -/
def Thread.fetchOut (x : Thread) : Thread := x.setCsr 0x204 (x.csrv 0x204 + 1)

/-- A line of words is at hand. A Sorrel thread's buffer holds two lines: the one it runs in and the next (R118). -/
def Thread.lineIn (x : Thread) (line : Nat) (sorrel : Bool) : Thread :=
  { x with fetched := if sorrel then (line :: x.fetched.filter (fun l => l != line && (l + 1 == line || line + 1 == l))).take 2
                      else [line] }

/-- An instruction's data is there, and it commits: a load, a fetch-and-op, a table word, a store of a pair; or a line of
words is fetched, or a committed store is acknowledged. -/
def State.finish (s : State) (t : Nat) (k : AwaitKind) (v : Word) : State :=
  match k with
  | .load rd size signed fp y =>
    if fp then s.retire t (fun x => x.setFreg rd (size == 8) v y)
    else s.retire t (fun x => x.setReg rd (extend t size signed v) y)
  | .atomic rd size y => s.retire t (fun x => x.setReg rd (extend t size true v) y)
  | .walk rd base index alloc y =>
    let s := s.retire t (fun x => x.setReg rd v y)
    if alloc then s.walkPut (coreOf t) ⟨base, index, BitVec.ofNat 10 (s.thread t).tid, v⟩ else s
  | .fetch line =>
    let x := (s.thread t).lineIn line (s.sorrel t)
    s.setThread t (if s.sorrel t then x.fetchOut else x)
  | .stored rd v y => s.retire t (fun x => x.setReg rd v y)
  | .ack => s

/-- Whether an enabled interrupt that is pending is taken before the instruction that waits (R99): not where its access
was made at commit, nor where what it asked for has been performed. -/
def Await.yields (a : Await) (failed : Bool) : Bool :=
  !a.atCommit && (match a.what with
    | .load _ _ _ _ _ => true
    | .walk _ _ _ _ _ => true
    | .fetch _ => failed
    | .atomic _ _ _ => failed
    | .stored _ _ _ => failed
    | .ack => false)

/-- The access that a thread waits for is over, and its instruction reaches commit: an interrupt that is taken first, or
what f does. -/
def State.awaitOver (s : State) (t : Nat) (failed : Bool) (f : State → Await → State) : State :=
  let x := s.thread t
  match x.await with
  | none => s
  | some a =>
    let s := s.setThread t { x with await := none }
    match (if a.yields failed && decide (x.run = .running) then s.nextVec t false else none) with
    | some e => s.selectVec t e
    | none => f s a

/-- Data arrives for the access a thread waits for; poisoned data is a MACHINE-CHECK. -/
def State.awaitDone (s : State) (t : Nat) (v : Word) (poison : Bool) : State :=
  s.awaitOver t false (fun s a => if poison then s.machineCheck t a.inst.toNat a.addr a.ga else s.finish t a.what v)

/-- The access a thread waits for fails: the instruction traps. -/
def State.awaitTrap (s : State) (t cause info : Nat) : State :=
  s.awaitOver t true (fun s a => s.trap t ⟨cause, a.inst.toNat, a.addr, info⟩)

/-- The access a thread waits for ends in a MACHINE-CHECK (R317). -/
def State.awaitCheck (s : State) (t : Nat) : State :=
  s.awaitOver t true (fun s a => s.machineCheck t a.inst.toNat a.addr a.ga)

/-- A Sorrel thread's fabric store is acknowledged once no request of the thread is left (R119). -/
def State.ackStore (s : State) (t : Nat) (busy : Bool) : State :=
  match (s.thread t).await with
  | some ⟨_, _, _, .ack, _⟩ => if busy then s else s.setThread t { s.thread t with await := none }
  | _ => s

end Sys2Proof.Machine
end

