-- ==== Sys2Proof/Machine/PortOps.lean ====
section
/-! DEFINITION. Ports, bonds and the link state machine's shared operations (R296 to R311). -/
namespace Sys2Proof.Machine

/-- The states of R307. -/
inductive LinkState where
  | down | signal | advert | train | delay | keyx | active | mgmt
deriving DecidableEq, Repr

def LinkState.code (l : LinkState) : Nat :=
  match l with
  | .down => 0 | .signal => 1 | .advert => 2 | .train => 3 | .delay => 4 | .keyx => 5 | .active => 6 | .mgmt => 7

/-- A field of a port's register: port p is thread p mod 4 of engine p / 4 (R296). -/
def State.pfld (s : State) (f : Fld) (p : Nat) : Nat := s.fld f (p / 4) (p % 4)

/-- Set a field of a port's register. -/
def State.setPfld (s : State) (f : Fld) (p v : Nat) : State := s.setFld f v (p / 4) (p % 4)

/-- The lanes that a port's BOND field asks for (R328). -/
def State.bondLanes (s : State) (p : Nat) : Nat := 2 ^ s.pfld F.LE_PORTCFG_BOND p

/-- A bond of b lanes may start at port q (R300). -/
def bondStart (b q : Nat) : Bool :=
  decide (q % b = 0) && (decide (b ≠ 8) || decide (q % 12 ≤ 4))

/-- Lane 0 of the bond that holds port p, or p itself (R300). -/
def State.lane0 (s : State) (p : Nat) : Nat :=
  let cand (b : Nat) : Option Nat :=
    if bondStart b (p - p % b) && decide (s.bondLanes (p - p % b) = b) then some (p - p % b) else none
  ((cand 8).orElse (fun _ => (cand 4).orElse (fun _ => cand 2))).getD p

/-- The state of the link whose lane 0 is p. -/
def State.linkSt (s : State) (p : Nat) : Nat := s.pfld F.LE_PORTSTAT_STATE p

/-- The link whose lane 0 is p is in a state of R307. -/
def State.linkIs (s : State) (p : Nat) (l : LinkState) : Bool := s.linkSt p == l.code

/-- Port p belongs to an enabled PCI Express or CXL link (R301, R315). -/
def State.pciePort (s : State) (p : Nat) : Bool :=
  decide (p < 64) &&
    (decide (s.fld F.LE_PCIECFG_MODE (2 * (p / 8)) ≠ 0)
      || (decide (p / 8 % 2 = 1) && decide (s.fld F.LE_PCIECFG_MODE (2 * (p / 8 - 1)) ≠ 0)
          && s.flag F.LE_PCIECFG_X16 (2 * (p / 8 - 1))))

/-- ADV_MIN of this device (R304): KPR_IFVER.GOHAL_MIN is 2; GFLOOR is bits [2:0] of Keep word 1. -/
def State.advMin (s : State) : Nat := max 2 (s.keepFld 1 2 0)

/-- ADV_MAX of a port (R304): KPR_IFVER.GOHAL_MAX is 4. -/
def State.advMax (s : State) (p : Nat) : Nat :=
  if s.pfld F.LE_PORTCFG_VCAP p = 0 then 4 else s.pfld F.LE_PORTCFG_VCAP p

/-- KPR_LINKPOL.ENCREQ (R326). -/
def State.encReq (s : State) : Bool := s.keepFld 1 3 3 == 1

/-- FEAT as advertised (R303, R305): the six features of this device, LINKENC wherever ENCREQ is 1. -/
def State.advFeat (s : State) (p : Nat) : Nat :=
  (s.pfld F.LE_PORTCFG_FEAT p % 64) ||| (if s.encReq then 2 else 0)

/-- The least version of each feature (R303). -/
def featLeast (b : Nat) : Nat := if b < 4 then 3 else 4

/-- The features active at version v when two sides advertise a and b (R303). -/
def featActive (a b v : Nat) : Nat :=
  (List.range 6).foldl (fun acc k => if a.testBit k && b.testBit k && decide (featLeast k ≤ v) then acc + 2 ^ k else acc) 0

/-- A feature is active on the link whose lane 0 is p. -/
def State.featOn (s : State) (p k : Nat) : Bool := (s.pfld F.LE_PORTSTAT_FEATACT p).testBit k

/-- The SerDes reference of port p is missing (R473). -/
def State.sdMissing (s : State) (p : Nat) : Bool := s.board.sdMissing.getLsbD (p / 36)

/-- The ports of the bond whose lane 0 is p (R300). -/
def State.lanes (s : State) (p : Nat) : List Nat := (List.range (s.bondLanes p)).map (fun k => p + k)

/-- Every lane of a bond may run: none belongs to a PCI Express or CXL link (R301), stands on a halted engine (R322) or
misses its SerDes reference (R473). -/
def State.lanesFit (s : State) (p : Nat) : Bool :=
  (s.lanes p).all (fun q => !s.pciePort q && !s.flag F.LE_STAT_HALTED (q / 4) && !s.sdMissing q)

/-- A microcode switch holds the traffic of a link (R324): an engine of one of its lanes takes no work. -/
def State.portHeld (s : State) (p : Nat) : Bool := (s.lanes p).any (fun q => (s.le (q / 4)).holding)

/-- A link in DOWN starts if it is enabled and nothing keeps it down (R304, R307). -/
def State.kick (s : State) (p : Nat) : State :=
  if s.linkIs p .down && decide (s.lane0 p = p) && decide (s.pfld F.LE_PORTCFG_EN p = 1)
      && decide (s.pfld F.LE_PORTCFG_PERS p = 1) && s.domOn (71 + p / 12) && s.lanesFit p && !(s.port p).backoff && s.live then
    if s.advMax p < s.advMin then s.setPfld F.LE_PORTSTAT_REASON p 5
    else (s.setPfld F.LE_PORTSTAT_REASON p 0).setPfld F.LE_PORTSTAT_STATE p LinkState.signal.code
  else s

/-- The link whose lane 0 is p enters DOWN (R307): an entry from another state is counted, what was negotiated goes,
and its keys with it (R386). The link starts again at once where no backoff runs. -/
def State.linkDown (s : State) (p : Nat) (backoff : Bool) : State :=
  if s.linkIs p .down then s
  else
    let s := s.wr .LE_PORTSTAT 0 (p / 4) (p % 4)
    let s := s.bump .LE_PORTDOWNCNT (p / 4) (p % 4)
    let s := s.setPort p { Port.initial with backoff := backoff, sak := (s.port p).sak }
    s.kick p

/-- The link enters DOWN at the next local tick (R311). -/
def State.downAtTick (s : State) (p : Nat) : State := s.setPort p { s.port p with downDue := true }

/-- A new link policy acts on the links (R311). -/
def State.linkPolicy (s : State) (old new : BitVec 32) : State :=
  let floor := getBits (new.setWidth 64) 2 0
  let raised := decide (getBits (old.setWidth 64) 2 0 < floor)
  let enc := new.getLsbD 3 && !old.getLsbD 3
  (List.range 144).foldl (fun s p =>
    let st := s.linkSt p
    if raised && decide (3 ≤ st ∧ s.pfld F.LE_PORTSTAT_VER p < floor) then s.downAtTick p
    else if enc && s.linkIs p .active && !s.featOn p 1 then s.downAtTick p
    else s) s

/-- The management-only state with a reason (R305, R310). -/
def State.toMgmt (s : State) (p reason : Nat) : State :=
  let s := s.wr .LE_PORTSTAT 0 (p / 4) (p % 4)
  let s := s.setPfld F.LE_PORTSTAT_STATE p LinkState.mgmt.code
  let s := (s.setPfld F.LE_PORTSTAT_VER p 2).setPfld F.LE_PORTSTAT_REASON p reason
  s.setPort p { s.port p with width := 1, keys := none, v := 2 }

/-- The link becomes ACTIVE (R307). Where ENCREQ was set after the version decision and LINKENC is not active, it goes to
DOWN and renegotiates (R305, entry 154). -/
def State.toActive (s : State) (p : Nat) : State :=
  if s.encReq && !s.featOn p 1 then s.linkDown p false
  else (s.setPfld F.LE_PORTSTAT_STATE p LinkState.active.code).setPort p { s.port p with keyFrame := s.frame }

/-- The SAKs of an Ethernet link that goes down are lost (R386). -/
def State.dropSak (s : State) (p : Nat) : State := s.setPort p { s.port p with sak := [] }

/-- A link goes down with its keys, whatever its personality (R307, R386). -/
def State.linkOff (s : State) (p : Nat) : State := (s.linkDown p false).dropSak p

/-- The logarithm of a width of 1, 2, 4 or 8 lanes. -/
def log2w (n : Nat) : Nat := if n ≥ 8 then 3 else if n ≥ 4 then 2 else if n ≥ 2 then 1 else 0

/-- What LE_PORTSTAT shows: a member shows the link's state while its lane is in use (R300, R306, R310, R328). -/
def State.portStat (s : State) (p : Nat) : Word :=
  let q := s.lane0 p
  if q = p then s.rd .LE_PORTSTAT (p / 4) (p % 4)
  else
    let unused := decide ((s.port q).width ≠ 0 ∧ (s.port q).width ≤ p - q)
    BitVec.ofNat 64 ((if unused then 0 else s.linkSt q) + 2 ^ 26 + b2n unused * 2 ^ 27)

/-- The link engine halts: its threads stop and its ports go to DOWN (R322). -/
def State.haltLe (s : State) (n : Nat) : State :=
  let s := s.setFld F.LE_STAT_HALTED 1 n
  let s := (List.range 4).foldl (fun s t => s.linkOff (s.lane0 (4 * n + t))) s
  s.record { kind := 0x09, target := 112 + n, sev := 3 }

/-! ### The link policy's advertisement, and the checks of packets and frames -/

/-- What this side advertises on a port (R304). -/
def State.advertise (s : State) (p : Nat) : Adv where
  minV := BitVec.ofNat 4 s.advMin
  maxV := BitVec.ofNat 4 (s.advMax p)
  feat := BitVec.ofNat 16 (s.advFeat p)
  maxRate := BitVec.ofNat 2 (s.pfld F.LE_PORTCFG_RATE p)
  bond := BitVec.ofNat 2 (s.pfld F.LE_PORTCFG_BOND p)
  encReq := s.encReq
  node := BitVec.ofNat 12 (s.fld F.MAP_NODE_NODEID)
  msgMin := (Config.msgRange s.board.slot).1
  msgMax := (Config.msgRange s.board.slot).2

/-- One bit of CRC-32 as IEEE 802.3 has it, least significant bit first (entry 155). -/
def crcBit (c : Nat) (b : Bool) : Nat :=
  let x := c / 2
  if (c % 2 = 1) = b then x else x ^^^ 0xEDB88320

/-- CRC-32 over the low bits of a number, from bit 0 on (entry 155). -/
def crc32 (bits x : Nat) : Nat :=
  (List.range bits).foldl (fun c i => crcBit c (x.testBit i)) 0xFFFFFFFF ^^^ 0xFFFFFFFF

end Sys2Proof.Machine
end

