-- ==== Sys2Proof/Machine/Links.lean ====
section
/-! DEFINITION. Ports and Gohal links: configuration, negotiation, delay, keys, loss (R296 to R311, R392, R393, R473). -/
namespace Sys2Proof.Machine

/-- A value that LE_PORTCFG reserves (R301, R328, R300). -/
def portCfgReserved (p : Nat) (v : Word) : Bool :=
  let pers := F.LE_PORTCFG_PERS.of v
  let rate := F.LE_PORTCFG_RATE.of v
  let vcap := F.LE_PORTCFG_VCAP.of v
  let lanes := 2 ^ F.LE_PORTCFG_BOND.of v
  decide (pers = 3 ∨ rate = 3 ∨ (pers = 1 ∧ rate = 2 ∧ vcap = 2) ∨ (pers = 2 ∧ rate = 0)
    ∨ (vcap ≠ 0 ∧ (vcap < 2 ∨ 4 < vcap))) || !bondStart lanes p

/-- Every lane of the bond that a port's configuration asks for is in DOWN. -/
def State.bondDown (s : State) (p : Nat) : Bool :=
  (s.lanes p).all (fun q => s.linkSt q == 0)

/-- The bits of LE_PORTCFG that may change only while the port is disabled and DOWN: PERS, RATE, BOND, FEAT (R301). -/
def portCfgFixed : Word := 0xFF_FF7B

/-- RENEG (R307, R311): the link goes to DOWN, once no microcode switch is armed on an engine of its. -/
def State.actReneg (s : State) (p : Nat) : State :=
  if (s.lanes p).any (fun q => s.flag F.LE_UCSWSTAT_ARMED (q / 4)) then s.setPort p { s.port p with renegDue := true }
  else s.linkDown p false

/-- A write to LE_PORTCFG (R9, R300, R301, R307). -/
def State.actPortCfg (s : State) (m : Master) (p : Nat) (v : Word) : State :=
  let off := Reg.LE_PORTCFG.off (p / 4) (p % 4)
  let old := s.rd .LE_PORTCFG (p / 4) (p % 4)
  let new := v &&& Reg.LE_PORTCFG.row.rw
  let en := decide (F.LE_PORTCFG_EN.of v = 1)
  let was := decide (F.LE_PORTCFG_EN.of old = 1)
  if portCfgReserved p v then s.ctlErr m true .reserved off
  else if s.lane0 p ≠ p then s.ctlErr m true .stateRule off
  else if (new ^^^ old) &&& portCfgFixed ≠ 0 && (was || !s.bondDown p) then s.ctlErr m true .reserved off
  else if en && !was && (List.range (2 ^ F.LE_PORTCFG_BOND.of v)).any (fun k => s.pciePort (p + k)) then
    s.ctlErr m true .stateRule off
  else
    let s := s.wr .LE_PORTCFG new (p / 4) (p % 4)
    let s : State := if was && !en then s.linkOff p else s
    let s : State := if F.LE_PORTCFG_RENEG.of v = 1 then s.actReneg p else s
    s.kick p

/-- PORT_CONFIG_WRITE (R301). -/
def execPortConfigWrite (m : Master) (p : Fin 144) (v : Word) (s : State) : Host.Outcome State Fault Refusal :=
  .next (s.ctlW m .LE_PORTCFG (p.val / 4) (p.val % 4) (fun s => s.actPortCfg m p.val v))

/-- RENEG (R307): the write of LE_PORTCFG with its other fields as they are. -/
def execReneg (m : Master) (p : Fin 144) (s : State) : Host.Outcome State Fault Refusal :=
  .next (s.ctlW m .LE_PORTCFG (p.val / 4) (p.val % 4) (fun s =>
    s.actPortCfg m p.val (s.rd .LE_PORTCFG (p.val / 4) (p.val % 4) ||| 0x80)))

/-- LINK_BACKOFF_EXPIRY (R307). -/
def execLinkBackoffExpiry (p : Fin 144) (s : State) : Host.Outcome State Fault Refusal :=
  .next (if (s.port p.val).backoff then
    (s.setPort p.val { s.port p.val with backoff := false }).kick p.val else s)

/-- LINK_SIGNAL_DETECTED (R307): SIGNAL to ADVERT. -/
def execLinkSignalDetected (p : Fin 144) (s : State) : Host.Outcome State Fault Refusal :=
  .next (if s.linkIs p.val .signal then
    ((s.setPfld F.LE_PORTSTAT_STATE p.val LinkState.advert.code).setPort p.val
      { s.port p.val with adv := none, advCnt := 0 }).emit (.advert p.val (s.advertise p.val)) else s)

/-- LE_PORTADV as a partner's advertisement gives it (R328). -/
def advWord (a : Adv) : Word :=
  BitVec.ofNat 64 (a.minV.toNat + a.maxV.toNat * 2 ^ 4 + a.feat.toNat * 2 ^ 8 + a.maxRate.toNat * 2 ^ 24
    + a.bond.toNat * 2 ^ 26 + b2n a.encReq * 2 ^ 28 + a.node.toNat * 2 ^ 32 + a.msgMin.toNat * 2 ^ 48
    + a.msgMax.toNat * 2 ^ 52)

/-- The version decision of R305: management-only with a REASON, or the version to train. -/
def State.decideVersion (s : State) (p : Nat) (a : Adv) : Sum Nat Nat :=
  let lo := max s.advMin a.minV.toNat
  let hi := min (s.advMax p) a.maxV.toNat
  if hi < lo then (if a.maxV.toNat < s.advMin then .inl 1 else .inl 2)
  else if (s.encReq || a.encReq) && !(featActive (s.advFeat p) a.feat.toNat hi).testBit 1 then .inl 3
  else .inr hi

/-- ADVERTISEMENT_RECEIVE (R305, R307, R311): three identical ones in a row decide. -/
def execAdvertisementReceive (p : Fin 144) (adv : Adv) (s : State) : Host.Outcome State Fault Refusal :=
  let q := p.val
  let x := s.port q
  .next <|
    if !s.linkIs q .advert then s
    else
      let cnt := if x.adv = some adv then x.advCnt + 1 else 1
      let s := s.setPort q { x with adv := some adv, advCnt := cnt }
      if cnt < 3 then s
      else
        let s := s.wr .LE_PORTADV (advWord adv) (q / 4) (q % 4)
        match s.decideVersion q adv with
        | .inl r => s.toMgmt q r
        | .inr v =>
          let s := s.setPfld F.LE_PORTSTAT_STATE q LinkState.train.code
          let s := s.setPfld F.LE_PORTSTAT_VER q v
          let s := s.setPfld F.LE_PORTSTAT_FEATACT q (featActive (s.advFeat q) adv.feat.toNat v)
          s.setPort q { s.port q with v := v, width := min (s.bondLanes q) (2 ^ adv.bond.toNat) }

/-- The trained lane rate, encoded as RATE (R306). -/
def State.trainRate (s : State) (p : Nat) : Nat :=
  let theirs := match (s.port p).adv with | some a => a.maxRate.toNat | none => 0
  let cap := if s.pfld F.LE_PORTSTAT_VER p = 2 || !s.featOn p 2 then 1 else 2
  min (min (s.pfld F.LE_PORTCFG_RATE p) theirs) cap

/-- TRAINING_DONE (R306, R307). -/
def execTrainingDone (p : Fin 144) (s : State) : Host.Outcome State Fault Refusal :=
  let q := p.val
  .next <|
    if !s.linkIs q .train then s
    else
      let s := (s.setPfld F.LE_PORTSTAT_LRATE q (s.trainRate q)).setPfld F.LE_PORTSTAT_LBOND q (log2w (s.port q).width)
      if 3 ≤ s.pfld F.LE_PORTSTAT_VER q then
        ((s.setPfld F.LE_PORTSTAT_STATE q LinkState.delay.code).setPort q
          { s.port q with probes := 0, best := none }).emit (.probe q)
      else s.toActive q

/-- The one-way delay that one probe measures, truncated to a whole unit of 0.5 ns (R309). -/
def probeDelay (t1 t2 t3 t4 : Nat) : Int := (((t4 : Int) - t1) - ((t3 : Int) - t2)).tdiv 2

/-- DELAY_PROBE (R309): the partner's probe is echoed with its two times; the echo of this side's, of which there are
sixteen, gives a delay, and the next probe goes out. -/
def execDelayProbe (p : Fin 144) (t1 : Option Nat) (t2 t3 t4 : Nat) (s : State) : Host.Outcome State Fault Refusal :=
  let n := p.val
  let x := s.port n
  .next <|
    if s.linkIs n .delay then
      match t1 with
      | none => s.emit (.echo n t2 t3)
      | some t1 =>
        if x.probes < 16 then
          let d := probeDelay t1 t2 t3 t4
          let s := s.setPort n { x with probes := x.probes + 1, best := some (match x.best with | some b => min b d | none => d) }
          if x.probes < 15 then s.emit (.probe n) else s
        else s
    else s

/-- DELAY_DONE (R307, R309): sixteen probes are in. -/
def execDelayDone (p : Fin 144) (s : State) : Host.Outcome State Fault Refusal :=
  let q := p.val
  .next <|
    if s.linkIs q .delay && decide (16 ≤ (s.port q).probes) then
      let d := match (s.port q).best with | some b => encInt 24 b | none => 0
      let s := (s.setPfld F.LE_PORTDLY_DLY q d).setPfld F.LE_PORTDLY_FRAME q s.frame.toNat
      if s.featOn q 1 then s.setPfld F.LE_PORTSTAT_STATE q LinkState.keyx.code else s.toActive q
    else s

/-- The keys that an exchange gives: the side with the lower node ID names its transmit key first (R392). -/
def State.newKeys (s : State) (p : Nat) (w : Word) : LinkKeys :=
  let theirs := match (s.port p).adv with | some a => a.node.toNat | none => 0
  let low := decide (s.fld F.MAP_NODE_NODEID < theirs)
  ⟨Config.linkKey p w.toNat low, Config.linkKey p w.toNat (!low)⟩

/-- KEY_AGREEMENT_DONE (R392, R410): the partners' HMACs are checked outside; without a rack key, or with the TRNG
stopped, agreement fails. -/
def execKeyAgreementDone (p : Fin 144) (ok : Bool) (s : State) : Host.Outcome State Fault Refusal :=
  let q := p.val
  .next <|
    if !s.linkIs q .keyx then s
    else if ok && s.sec.rack.isSome && !s.flag F.THS_STAT_TRNGFAIL then
      let (w, s) := s.trng64
      (s.setPort q { s.port q with keys := some (s.newKeys q w), txCount := 0, rxCount := 0 }).toActive q
    else s.toMgmt q 4

/-- The largest power of two not above n, for n from 1 to 8. -/
def pow2Floor (n : Nat) : Nat := if n ≥ 8 then 8 else if n ≥ 4 then 4 else if n ≥ 2 then 2 else n

/-- LINK_STATE_TIMEOUT (R307, R308); after TRAIN the backoff of the other failures is taken (entry 19). -/
def execLinkStateTimeout (p : Fin 144) (locked : Nat) (s : State) : Host.Outcome State Fault Refusal :=
  let q := p.val
  .next <|
    if s.linkIs q .signal || s.linkIs q .advert || s.linkIs q .delay then s.linkDown q true
    else if s.linkIs q .train then
      let w := pow2Floor (min locked ((s.port q).width - 1))
      if w = 0 then s.linkDown q true else s.setPort q { s.port q with width := w }
    else if s.linkIs q .keyx then s.toMgmt q 4
    else s

/-- FEC_LOCK_LOST (R307). -/
def execFecLockLost (p : Fin 144) (s : State) : Host.Outcome State Fault Refusal :=
  .next (if s.linkIs p.val .active || s.linkIs p.val .mgmt then s.linkDown p.val false else s)

/-- MANAGEMENT_MESSAGE_RECEIVE (R310, R392, R393): the message goes to Keeper firmware, after a microcode switch that holds
the port (R324). -/
def execManagementMessageReceive (p : Fin 144) (msg : List Byte) (s : State) : Host.Outcome State Fault Refusal :=
  .next (if s.linkIs p.val .mgmt || s.linkIs p.val .keyx || (s.linkIs p.val .active && s.featOn p.val 1) then
    (if s.portHeld p.val then s.setPort p.val { s.port p.val with inMsg := (s.port p.val).inMsg ++ [msg] }
     else s.emit (.linkMsg p.val msg)) else s)

/-- A rekey is due (R393): a packet counter has reached 2^40, or 2^26 frames have passed since the last agreement. -/
def State.rekeyDue (s : State) (p : Nat) : Bool :=
  let x := s.port p
  decide (2 ^ 40 ≤ x.txCount.toNat ∨ 2 ^ 40 ≤ x.rxCount.toNat ∨ x.keyFrame.toNat + 2 ^ 26 ≤ s.frame.toNat)

/-- LINK_REKEY (R393, R410): both sides switch keys at the tick of the frame named, at least 4 ahead; without a rack key
or with the TRNG stopped there is no exchange. -/
def execLinkRekey (p : Fin 144) (frame : Word) (s : State) : Host.Outcome State Fault Refusal :=
  .next (if s.linkIs p.val .active && s.featOn p.val 1 && s.rekeyDue p.val && s.sec.rack.isSome && !s.flag F.THS_STAT_TRNGFAIL
      && (s.port p.val).rekeyAt.isNone && decide (s.frame.toNat + 4 ≤ frame.toNat) then
    s.setPort p.val { s.port p.val with rekeyAt := some frame } else s)

/-- LINK_REKEY_FAILURE (R393): the exchange was not complete in 64 frames, or an HMAC failed. -/
def execLinkRekeyFailure (p : Fin 144) (s : State) : Host.Outcome State Fault Refusal :=
  .next (if s.linkIs p.val .active && s.featOn p.val 1 then s.linkDown p.val false else s)

/-- What a local tick does to link keys (R393): at the tick of F the new keys serve, at F + 2 the old ones go. -/
def State.rekeyTick (s : State) (p : Nat) : State :=
  let x := s.port p
  match x.rekeyAt with
  | none => s
  | some f =>
    if s.frame = f then
      let (w, s) := s.trng64
      s.setPort p { x with
        oldKeys := x.keys, keys := some (s.newKeys p w), keyFrame := s.frame, txCount := 0, rxCount := 0 }
    else if s.frame = f + 2 then s.setPort p { x with oldKeys := none, rekeyAt := none }
    else s

/-- SDREF_MISSING (R473): the ports of PQ(3k) to PQ(3k + 2) go to DOWN and their PCI Express links leave L0. -/
def execSdrefMissing (k : Fin 4) (s : State) : Host.Outcome State Fault Refusal :=
  let s := s.setBoard { s.board with sdMissing := s.board.sdMissing ||| (1#4 <<< k.val) }
  let s := s.setFld F.KPR_SUPSTAT_SDREF_OK (s.fld F.KPR_SUPSTAT_SDREF_OK % 16 &&& (15 - 2 ^ k.val))
  let s := (List.range 36).foldl (fun s i => s.linkOff (s.lane0 (36 * k.val + i))) s
  .next ((List.range 8).foldl (fun s l =>
    if decide (36 * k.val < 8 * l + 8 ∧ 8 * l < 36 * k.val + 36) then s.setLink l { s.link l with l0 := false } else s) s)

/-- SDREF_RESTORED (R473): the ports renegotiate. -/
def execSdrefRestored (k : Fin 4) (s : State) : Host.Outcome State Fault Refusal :=
  let s := s.setBoard { s.board with sdMissing := s.board.sdMissing &&& ~~~(1#4 <<< k.val) }
  let s := s.setFld F.KPR_SUPSTAT_SDREF_OK (s.fld F.KPR_SUPSTAT_SDREF_OK ||| 2 ^ k.val)
  .next ((List.range 36).foldl (fun s i => s.kick (36 * k.val + i)) s)

/-- PCIE_LINK_STATE_CHANGE (R316, R319): a link whose MODE is not 0b00, and that containment does not hold, enters L0 at a
rate of at most MAXGEN and a width of at most its lanes; or a link leaves L0, for L1, or with its presence detection. -/
def execPcieLinkStateChange (k : Fin 8) (st : PcieState) (s : State) : Host.Outcome State Fault Refusal :=
  let b := 2 * k.val
  let x := s.link k.val
  .next <|
    match st with
    | .l0 gen lanes =>
      if s.fld F.LE_PCIECFG_MODE b = 0 ∨ !s.domOn (71 + 8 * k.val / 12) ∨ Config.rootContains x.root then s
      else
        let gen := min gen (s.fld F.LE_PCIECFG_MAXGEN b)
        let lanes := min lanes (if s.flag F.LE_PCIECFG_X16 b then 16 else 8)
        s.setLink k.val { x with l0 := true, root := { x.root with l1 := false, present := true, gen, lanes } }
    | .l1 => s.setLink k.val { x with l0 := false, root := { x.root with l1 := x.l0 } }
    | .down present => s.setLink k.val { x with l0 := false, root := { x.root with l1 := false, present } }

end Sys2Proof.Machine
end

