-- ==== Sys2Proof/Machine/Microcode.lean ====
section
/-! DEFINITION. Link-engine control stores, microcode threads and the live microcode switch (R320 to R327). -/
namespace Sys2Proof.Machine

/-- A microword of the active bank, or of the shadow bank; an unwritten one reads zero (R320, R414). -/
def LinkEng.word (x : LinkEng) (bank : Nat) (i : Nat) : MicroW :=
  mgetD (if bank = 0 then x.bank0 else x.bank1) i ⟨0, 0⟩

/-- Put a microword into a bank. -/
def LinkEng.put (x : LinkEng) (bank : Nat) (i : Nat) (w : MicroW) : LinkEng :=
  if bank = 0 then { x with bank0 := mset x.bank0 i w ⟨0, 0⟩ } else { x with bank1 := mset x.bank1 i w ⟨0, 0⟩ }

/-- The active bank of an engine (R328). -/
def State.leBank (s : State) (n : Nat) : Nat := s.fld F.LE_STAT_BANK n

/-- A microword is written into a bank of engine n: an injection armed on that bank corrupts it (R320, R421). -/
def State.ucPut (s : State) (n bank i : Nat) (w : BitVec 128) : State :=
  let sub := if bank = s.leBank n then 0 else 1
  let t := 112 + n
  if s.flag F.ERR_FLIPMASK_ARM 0 t && s.fld F.ERR_FLIPMASK_SUB 0 t == sub then
    let bad := popcount 64 (s.rd .ERR_FLIPDATA 0 t).toNat + popcount 9 (s.fld F.ERR_FLIPMASK_CHECK 0 t)
    let s := s.setFld F.ERR_FLIPMASK_ARM 0 0 t
    s.setLe n ((s.le n).put bank i ⟨w, bad⟩)
  else s.setLe n ((s.le n).put bank i ⟨w, 0⟩)

/-- A write of half a microword through the shadow aperture (R320, R323, R327): Keeper only; the second half commits. A
second half without its first leaves bits [63:0] open: a free value (entry 6). -/
def State.actShadow (s : State) (m : Master) (n i : Nat) (v : Word) : State :=
  let off := Win.le.base n + 0x10_0000 + 8 * i
  if m ≠ .keeper then s.ctlErr m true .master off
  else if s.flag F.LE_UCSWSTAT_ARMED n then s.ctlErr m true .stateRule off
  else if i % 2 = 0 then s.setLe n { s.le n with staged := some (i / 2, v) }
  else
    let (lo, s) := match (s.le n).staged with
      | some (j, lo) => if j = i / 2 then (lo, s) else s.draw
      | none => s.draw
    let s := s.setLe n { s.le n with staged := none }
    (s.ucPut n (1 - s.leBank n) (i / 2) (v ++ lo)).setFld F.LE_STAT_MIRRORED 0 n

/-- SHADOW_MICROWORD_WRITE (R327). -/
def execShadowMicrowordWrite (m : Master) (le : Fin 36) (i : Fin 32768) (v : Word) (s : State) :
    Host.Outcome State Fault Refusal :=
  .next (s.gate m (Win.le.base le.val + 0x10_0000 + 8 * i.val) (fun s =>
    if s.winOn .le le.val then s.actShadow m le.val i.val v
    else s.ctlErr m true .noRegister (Win.le.base le.val + 0x10_0000 + 8 * i.val)))

/-- A write of LE_CTL.COPY (R322); the shadow bank takes no write while a switch is armed (R323). -/
def State.actCopy (s : State) (m : Master) (n : Nat) : State :=
  if s.flag F.LE_UCSWSTAT_ARMED n then s.ctlErr m true .stateRule (Reg.LE_CTL.off n 0)
  else s.setFld F.LE_STAT_COPYBUSY 1 n

/-- CONTROL_STORE_COPY (R322). -/
def execControlStoreCopy (m : Master) (le : Fin 36) (s : State) : Host.Outcome State Fault Refusal :=
  .next (s.ctlW m .LE_CTL le.val 0 (fun s => s.actCopy m le.val))

/-- What the check of a fetched microword gives (R322). -/
inductive UcFetch where
  | word (w : BitVec 128)
  | halt
deriving DecidableEq, Repr

/-- The fetch of a microword of the active bank (R322). A word with three or more wrong bits is beyond the code: a free
value (entry 6). -/
def State.ucFetch (s : State) (n i : Nat) : UcFetch × State :=
  let a := s.leBank n
  let x := (s.le n).word a i
  let y := (s.le n).word (1 - a) i
  if x.bad = 0 then (.word x.w, s)
  else if x.bad = 1 then (.word x.w, (s.ucPut n a i x.w).bump .LE_CSCECNT n)
  else if x.bad = 2 then
    if s.flag F.LE_STAT_MIRRORED n && decide (y.bad ≤ 1) then
      let (d, s) := ((s.ucPut n a i y.w).bump .LE_CSUECNT n).draw
      (.word y.w, s.record { kind := 0x19, target := 112 + n, sev := 1, addr := BitVec.ofNat 64 i,
                             detail := d.toNat % 2 ^ 32 })
    else (.halt, s.haltLe n)
  else
    let (a, s) := s.draw
    let (b, s) := s.draw
    (.word (a ++ b), s)

/-- CONTROL_STORE_COPY_DONE (R322): the active bank is copied, each word checked as it is fetched. -/
def execControlStoreCopyDone (le : Fin 36) (s : State) : Host.Outcome State Fault Refusal :=
  let n := le.val
  .next <|
    if !s.flag F.LE_STAT_COPYBUSY n then s
    else
      let s := s.setFld F.LE_STAT_COPYBUSY 0 n
      let a := s.leBank n
      let bad := ((if a = 0 then (s.le n).bank0 else (s.le n).bank1).filter (fun e => e.2.bad != 0)).map (fun e => e.1)
      let s := bad.foldl (fun s i => if s.flag F.LE_STAT_HALTED n then s else (s.ucFetch n i).2) s
      if s.flag F.LE_STAT_HALTED n then s
      else
        let x := s.le n
        let src := if a = 0 then x.bank0 else x.bank1
        (s.setLe n (if a = 0 then { x with bank1 := src } else { x with bank0 := src })).setFld F.LE_STAT_MIRRORED 1 n

/-- Whether thread t of engine n is parked (R298). -/
def State.ucParked (s : State) (n t : Nat) : Bool := s.pciePort (4 * n + t)

/-- A field of a microword (R321). -/
def ucBits (w : BitVec 128) (hi lo : Nat) : Nat := w.toNat / 2 ^ lo % 2 ^ (hi + 1 - lo)

/-- The sequencing of a microword on a thread (R321, R324): `cond` is whether its condition holds, `disp` the target
of a dispatch. A return with nothing on the stack continues at an address the manual leaves open: `open_`. -/
def MThread.sequence (x : MThread) (w : BitVec 128) (holding cond : Bool) (disp open_ : Nat) : MThread :=
  let next := (x.addr + 1) % 16384
  let target := ucBits w 121 108
  let x := { x with turns := ucBits w 127 126 + 1, waiting := false }
  match (Config.ucSeq (BitVec.ofNat 4 (ucBits w 125 122))).val with
  | 0 => { x with addr := next }
  | 1 => { x with addr := target }
  | 2 => { x with addr := if cond then target else next }
  | 3 => { x with addr := target, stack := next :: x.stack }
  | 4 => match x.stack with
    | [] => { x with addr := open_ % 16384 }
    | r :: rest => { x with addr := r, stack := rest }
  | 5 => { x with addr := disp }
  | 6 => if cond then { x with addr := next } else { x with waiting := true }
  | 7 => if holding then { x with holding := true } else { x with addr := next }
  | 8 => { x with addr := next, released := true }
  | _ => x

/-- Every thread of engine n that is not parked meets p. -/
def State.ucAll (s : State) (n : Nat) (p : MThread → Bool) : Bool :=
  (List.range 4).all (fun t => s.ucParked n t || match mget (s.le n).thr t with | some x => p x | none => false)

/-- A write to LE_UCSW (R323). -/
def State.actUcsw (s : State) (m : Master) (n : Nat) (v : Word) : State :=
  if s.flag F.LE_UCSWSTAT_ARMED n || decide (v.toNat < s.frame.toNat + 2) then
    s.ctlErr m true .stateRule (Reg.LE_UCSW.off n 0)
  else (s.wr .LE_UCSW v n).setFld F.LE_UCSWSTAT_ARMED 1 n

/-- ARM_MICROCODE_SWITCH (R323). -/
def execArmMicrocodeSwitch (m : Master) (le : Fin 36) (v : Word) (s : State) : Host.Outcome State Fault Refusal :=
  .next (s.ctlW m .LE_UCSW le.val 0 (fun s => s.actUcsw m le.val v))

/-- The banks of engine n swap and every thread that is not parked starts at microword 0 (R324). -/
def State.swapBanks (s : State) (n : Nat) : State :=
  let x := s.le n
  let thr := (List.range 4).map (fun t => (t, if s.ucParked n t then (mgetD x.thr t ⟨0, [], false, false, false, 0⟩)
                                             else (⟨0, [], false, false, false, 0⟩ : MThread)))
  (s.setLe n { x with thr := thr }).setFld F.LE_STAT_BANK (1 - s.leBank n) n

/-- The links that have a lane on engine n, by their lane 0 (R300). -/
def State.leLinks (s : State) (n : Nat) : List Nat := ((List.range 4).map (fun t => s.lane0 (4 * n + t))).eraseDups

/-- MICROCODE_BANK_SWAP (R324, R311). -/
def execMicrocodeBankSwap (le : Fin 36) (s : State) : Host.Outcome State Fault Refusal :=
  let n := le.val
  .next <|
    if (s.le n).holding && !(s.le n).swapped && s.ucAll n (fun x => x.holding) then
      let s := (s.swapBanks n).setFld F.LE_STAT_MIRRORED 0 n
      let s := s.setLe n { s.le n with swapped := true }
      (s.leLinks n).foldl (fun s p =>
        let st := s.linkSt p
        if 3 ≤ st ∧ st ≤ 5 then s.linkDown p false else s) s
    else s

/-- The tick of F + 2 takes a bond of 8 lanes down whose two engines ended a switch of one frame differently (R325). -/
def State.bondSwitchTick (s : State) (n : Nat) : State :=
  match (s.le n).lastEnd, (s.le (n + 1)).lastEnd with
  | some (f, a), some (g, b) =>
    if f = g ∧ a ≠ b ∧ s.frame = f + 2 ∧ s.bondLanes (4 * n) = 8 ∧ s.lane0 (4 * n + 4) = 4 * n then
      s.linkDown (4 * n) false
    else s
  | _, _ => s

/-! ### Ports that PCI Express takes and gives back (R298, R301) -/

/-- A port joins a PCI Express or CXL link: its own link goes down, and its thread keeps no state for it. -/
def State.parkPort (s : State) (p : Nat) : State :=
  let s := (s.linkDown (s.lane0 p) false).setPort p .initial
  let s := [Reg.LE_PORTSTAT, .LE_PORTADV, .LE_PORTDLY].foldl (fun s r => s.wr r 0 (p / 4) (p % 4)) s
  let n := p / 4
  s.setLe n { s.le n with thr := mput (s.le n).thr (p % 4) ⟨0, [], false, false, false, 0⟩ }

/-- A write to LE_PCIECFG takes effect (R298, R301, R315): ports that belong to the link now are parked, ports that are
free again start, and a link that is off has left L0. -/
def State.setPcieCfg (s : State) (b : Nat) (v : Word) : State :=
  let old := s
  let s := s.wr .LE_PCIECFG v b
  let s : State := if F.LE_PCIECFG_MODE.of v = 0 then s.setLink (b / 2) .initial else s
  let s := (List.range 64).foldl (fun s p => if s.pciePort p && !old.pciePort p then s.parkPort p else s) s
  (List.range 64).foldl (fun s p => if !s.pciePort p && old.pciePort p then s.kick (s.lane0 p) else s) s

end Sys2Proof.Machine
end

