-- ==== Sys2Proof/Machine/FabricOut.lean ====
section
/-! DEFINITION. Requests that leave this node: their class, the route, the verdict of the source gateway and the egress queue
of a link (R329, R330, R336, R342 to R348). -/
namespace Sys2Proof.Machine

/-! ### Flows and classes (R330, R336) -/

/-- A descriptor is valid and of a class, a TID and a destination. -/
def State.flowIs (s : State) (f cls tid dst : Nat) : Bool :=
  s.flag F.MAP_FLOW_V 0 f && s.fld F.MAP_FLOW_CLASS 0 f == cls && s.fld F.MAP_FLOW_TID 0 f == tid
    && s.fld F.MAP_FLOW_DST 0 f == dst

/-- The lowest-numbered flow that matches; the valid descriptors are among the registers that are not at reset. -/
def State.flowFor (s : State) (cls tid dst : Nat) : Option Nat :=
  ((s.regs.filter (fun e => decide (Reg.MAP_FLOW.off 0 1 ≤ e.1 ∧ e.1 ≤ Reg.MAP_FLOW.off 0 4095))).map
    (fun e => (e.1 - Reg.MAP_FLOW.off 0 0) / 8)).find? (fun f => s.flowIs f cls tid dst)

/-- The lease messages (R330, R338). -/
def isLease (o : FabOp) : Bool :=
  match o with | .leaseGrant => true | .recallNotice => true | .drained => true | .confirm => true | _ => false

/-- The code of an operation (R338). -/
def opCode (o : FabOp) : Nat :=
  match o with
  | .write => 1 | .readReq => 2 | .readData => 3 | .fetchOp => 4 | .response => 5 | .leaseGrant => 0x10
  | .recallNotice => 0x11 | .drained => 0x12 | .confirm => 0x13 | .reserved v => v.toNat

/-- A request that C0 may carry (R330, R337). -/
def State.c0Flow (s : State) (r : FabReq) : Option Nat :=
  let dma := match r.src with | .dma _ _ => r.c0job && decide (r.op = .write) | _ => false
  match s.flowFor 0 (if isLease r.op then 0 else r.tid.val) r.dst.toNat with
  | none => none
  | some f => if isLease r.op || (dma && decide (r.len.toNat ≤ s.fld F.MAP_FLOW_MSGMAX 0 f)) then some f else none

/-- The class of a request and its flow, 0 for none (R330). A C2 or C3 request is on a flow where a descriptor of that class
matches (R267, R336). -/
def State.classify (s : State) (r : FabReq) : Fin 4 × Nat :=
  match s.c0Flow r with
  | some f => (0, f)
  | none =>
    match s.flowFor 1 r.tid.val r.dst.toNat with
    | some f => (1, f)
    | none =>
      let c : Fin 4 := if s.flag F.MAP_TQUOTA_SCAV 0 r.tid.val then 3 else 2
      (c, (s.flowFor c.val r.tid.val r.dst.toNat).getD 0)

/-! ### Slot tables and routes (R331 to R334, R347) -/

/-- A slot entry of the plan in force (R334). -/
def State.slotWord (s : State) (p k : Nat) : Word :=
  if s.planBad (0x10_0000 + 8 * (64 * p + k)) then 0 else s.planWord (0x10_0000 + 8 * (64 * p + k))

/-- The port whose slot table holds a flow's entry for an input port, 255 for this node (R341, R347). -/
def State.slotPort (s : State) (flow kind inp : Nat) : Option Nat :=
  let bank := if s.tick.effectDue then s.was else s.cur
  ((bank.filter (fun e => decide (0x2_0000 ≤ e.1 ∧ e.1 < 0x2_0000 + 144 * 64))).find? (fun e =>
    getBits e.2 1 0 == kind && getBits e.2 15 4 == flow && getBits e.2 23 16 == inp
      && !s.planBad (8 * e.1))).map (fun e => (e.1 - 0x2_0000) / 64)

/-- The slot length L in link-engine cycles (R331), and the bytes of one slot on a link (R332). -/
def State.slotLen (s : State) : Nat := s.tf * 20 / 64

/-- The lane rate codes (R328): 56, 112 and 224 Gb/s. -/
def rateGb (c : Nat) : Nat := match c with | 0 => 56 | 1 => 112 | _ => 224

def State.slotBytes (s : State) (l p : Nat) : Nat :=
  l * rateGb (s.pfld F.LE_PORTSTAT_LRATE p) * 2 ^ s.pfld F.LE_PORTSTAT_LBOND p * 514 / 8704

/-- A port's link is ACTIVE, with lane 0 at the port. -/
def State.linkUp (s : State) (p : Nat) : Bool := decide (p < 144) && decide (s.lane0 p = p) && s.linkIs p .active

/-- A port is marked leaving (R353). -/
def State.portLeaving (s : State) (p : Nat) : Bool := s.fabric.leaving.contains (2, p)

/-- Routes that name a leaving port use ALT: from the frame after the one in which it is marked (R354). -/
def State.routeAway (s : State) (p : Nat) : Bool :=
  s.portLeaving p && (match s.fabric.svc with | some x => decide (x.frame.toNat + 2 ≤ s.frame.toNat) | none => false)

/-- The route to a node (R347): PORT where it is ACTIVE and not leaving (R354), otherwise ALT. -/
def State.routeTo (s : State) (d : Nat) : Option Nat :=
  if !s.flag F.MAP_ROUTE_V 0 d then none
  else
    let p := s.fld F.MAP_ROUTE_PORT 0 d
    let a := s.fld F.MAP_ROUTE_ALT 0 d
    if s.linkUp p && !s.routeAway p then some p else if s.linkUp a then some a else none

/-- The bytes per frame of a C1 flow's reserved slots for an input on a port (R332, R347). -/
def State.reservedBytes (s : State) (flow inp p : Nat) : Nat :=
  ((List.range 64).countP (fun k => let w := s.slotWord p k
    getBits w 1 0 == 2 && getBits w 15 4 == flow && getBits w 23 16 == inp)) * s.slotBytes s.slotLen p

/-- The key of a flow and an input in Fabric.c1used. -/
def c1Key (flow inp : Nat) : Nat := 256 * flow + inp

/-- What the crossbar reads of traffic to choose its output (R347): class, flow, destination, input port, bytes on the
link, and the 256-byte line it is for. -/
structure Traffic where
  cls   : Nat
  flow  : Nat
  dst   : Nat
  inp   : Nat
  bytes : Nat
  line  : Nat
deriving DecidableEq, Repr

/-- Traffic of the same flow, input and 256-byte line waits or is being sent at a port (R239). -/
def State.follows (s : State) (x : Traffic) (p : Nat) : Bool :=
  ((s.port p).egress ++ (s.port p).sending.map (fun z => z.item)).any (fun w =>
    w.inp == x.inp && decide (w.pkt.cls.val = x.cls) && w.pkt.flow.toNat == x.flow && w.pkt.dst.toNat == x.dst
      && w.pkt.addr.toNat / 256 == x.line && decide (w.pkt.resp = 0))

/-- The output port of traffic, and whether it is C1 beyond its reservation, which follows the route (R347). C1 to a line
whose earlier traffic still waits goes its way, so that it does not overtake it (R239). -/
def State.way (s : State) (x : Traffic) : Option (Nat × Bool) :=
  let routed (b : Bool) : Option (Nat × Bool) := (s.routeTo x.dst).map (fun p => (p, b))
  match x.cls with
  | 0 => if x.flow ≠ 0 then (s.slotPort x.flow 1 x.inp).map (fun p => (p, false)) else routed false
  | 1 => match (if x.flow ≠ 0 then s.slotPort x.flow 2 x.inp else none) with
    | none => routed true
    | some p =>
      if s.follows x p then some (p, false)
      else if (match s.routeTo x.dst with | some q => s.follows x q | none => false) then routed true
      else if mgetD s.fabric.c1used (c1Key x.flow x.inp) 0 + x.bytes ≤ s.reservedBytes x.flow x.inp p then some (p, false)
      else routed true
  | _ => routed false

/-- The output port of traffic. -/
def State.outPort (s : State) (x : Traffic) : Option Nat := (s.way x).map (fun w => w.1)

/-! ### The verdict of the source gateway (R344) -/

inductive Verdict where
  | accept (port : Nat) (beyond : Bool)
  | credit (port : Nat)
  | defer (reason : Nat)
  | refuse (reason : Nat)
deriving DecidableEq, Repr

/-- Bytes a request puts on the link: header and payload (R338). -/
def reqBytes (r : FabReq) : Nat := 32 + (if r.op = .readReq then 0 else r.len.toNat)

def pktBytes (p : Packet) : Nat := 32 + (if p.op = .readReq then 0 else p.len.toNat)

/-- Bytes per frame that a TID's quota for a class allows; none: no limit (R344, R356). -/
def State.quota (s : State) (cls tid flow : Nat) : Option Nat :=
  let q (f : Fld) : Option Nat := if s.fld f 0 tid = 0xFFFF then none else some (256 * s.fld f 0 tid)
  match cls with
  | 1 =>
    let reserved := match s.slotPort flow 2 255 with
      | none => 0
      | some p => s.reservedBytes flow 255 p
    (q F.MAP_TQUOTA_Q1).map (fun n => n + reserved)
  | 2 => q F.MAP_TQUOTA_Q2
  | 3 => q F.MAP_TQUOTA_Q3
  | _ => none

/-- The key of a TID and class in Fabric.used. -/
def usedKey (tid cls : Nat) : Nat := 4 * tid + cls

/-- The bytes of a class that wait at a link. -/
def Port.queued (p : Port) (cls : Fin 4) : Nat :=
  (p.egress.filter (fun w => decide (w.pkt.cls = cls))).foldl (fun n w => n + pktBytes w.pkt) 0

/-- The partner's input holds 64 KiB of each class: what has been sent and not credited, and more bytes, fit (R348). -/
def Port.room (p : Port) (cls : Fin 4) (bytes : Nat) : Bool := decide (mgetD p.unpaid cls.val 0 + bytes ≤ 65536)

/-- The bytes, the flow and the line of a request of this node, as the crossbar reads them. -/
def trafficOf (r : FabReq) (cls flow : Nat) : Traffic := ⟨cls, flow, r.dst.toNat, 255, reqBytes r, r.addr.toNat / 256⟩

/-- The borrowed range that an access reaches (R350, R351). -/
def State.borrowOf (s : State) (dst a : Nat) : Option Nat :=
  firstIdx 64 (fun j => s.flag F.MAP_BORROWA_V 0 j && s.fld F.MAP_BORROWA_LNODE 0 j == dst
    && a / 2 ^ s.fld F.MAP_BORROWA_SIZE 0 j == s.fld F.MAP_BORROWB_BASE 0 j * 4096 / 2 ^ s.fld F.MAP_BORROWA_SIZE 0 j)

/-- The next link lacks what a class or operation needs (R344). -/
def State.linkLacks (s : State) (p : Nat) (cls flow : Nat) (op : FabOp) : Bool :=
  !s.linkUp p || (decide (cls ≤ 1) && decide (flow ≠ 0) && !s.featOn p 0) || (isLease op && !s.featOn p 5)

/-- The judgement of the source gateway, in the order of R344; first what holds at it whatever the class, lease messages apart: a
held TID (R399) and a borrowed range that drains (R351). A request without credit waits for it until the seal deadline. -/
def State.judgeSource (s : State) (r : FabReq) (cls : Fin 4) (flow : Nat) : Verdict :=
  let tid := r.tid.val
  let draining := match s.borrowOf r.dst.toNat r.addr.toNat with
    | some j => decide (2 ≤ s.fld F.MAP_BORROWA_STATE 0 j)
    | none => false
  if !isLease r.op && (s.held tid || draining) then .refuse 4
  else
    match s.way (trafficOf r cls.val flow) with
    | none => .refuse 6
    | some (p, beyond) =>
      if cls = 0 then (if s.linkLacks p 0 flow r.op then .refuse 6 else .accept p beyond)
      else if s.linkLacks p cls.val flow r.op then .refuse 5
      else
        let q := s.quota cls.val tid flow
        let used := mgetD s.fabric.used (usedKey tid cls.val) 0
        if cls ≠ 1 ∧ q = some 0 then .refuse 3
        else if (match q with | some n => decide (n < used + reqBytes r) | none => false) then .defer 3
        else if s.negative tid then (if cls = 3 then .refuse 2 else .defer 2)
        else if !(s.port p).room cls ((s.port p).queued cls + reqBytes r) then (if s.tick.sealClosed then .defer 1 else .credit p)
        else .accept p beyond

/-! ### Cowslip streams (R267) -/

/-- The whole blocks of a stream's payload are quantised; a final partial block is sent exact. -/
def cwPayload (codec : BitVec 4) (len : Nat) (ws : List Word) : List Word :=
  match cwOf codec with
  | none => ws
  | some (t, m) =>
    (List.range ws.length).map (fun i =>
      let blk := 2 * t.bits
      let chunk : Superline := BitVec.ofNat 2048 (packed 64 (((ws.drop (i / 32 * 32)).take 32).map (fun w => w.toNat)))
      if (8 * i / blk + 1) * blk ≤ len then ((cwApply t m chunk) >>> (64 * (i % 32))).setWidth 64 else (ws[i]?).getD 0)

/-! ### Issue -/

/-- Where a thread's access comes from. -/
def srcOf (t : Nat) : ReqSrc := .core (Fin.ofNat 514 t)

/-- A thread has fabric requests that no home node has answered. -/
def State.fabricBusy (s : State) (t : Nat) : Bool :=
  s.fabric.outs.any (fun o => o.req.src == srcOf t) || s.fabric.flowQ.any (fun q => q.2.any (fun r => r.src == srcOf t))

/-- A packet joins the egress queue of a link (R348), in the next group of words of the crossbar buffer (R413, R421). -/
def State.enqueue (s : State) (p : Nat) (w : Waiting) : State :=
  let x := s.port p
  let i := 8 * (s.fabric.xword % 589824)
  let s := s.setPort p { x with egress := x.egress ++ [{ w with word := i }] }
  { s with fabric := { s.fabric with xword := s.fabric.xword + 1 } }.arrWrite 152 0 i

/-- The own node as packets name it. -/
def State.nodeId (s : State) : BitVec 12 := BitVec.ofNat 12 (s.fld F.MAP_NODE_NODEID)

/-- The packet of a request (R338, R347). -/
def State.requestPacket (s : State) (r : FabReq) (cls : Fin 4) (flow : Nat) (tag : BitVec 16) : Packet where
  dst := r.dst
  src := s.nodeId
  cls := cls
  flow := BitVec.ofNat 12 flow
  tid := r.tid
  op := r.op
  tcode := 1
  codec := if cls = 0 then 0 else BitVec.ofNat 4 (s.fld F.MAP_FLOW_CODEC 0 flow)
  y := r.y
  addr := r.addr
  hops := BitVec.ofNat 4 (s.fld F.MAP_FABCTL_HOPMAX)
  len := r.len
  tag := tag
  resp := 0
  reason := 0
  deferK := 0
  bad := false
  dataOk := true
  aop := r.aop
  payload := if cls = 0 then r.payload else cwPayload (BitVec.ofNat 4 (s.fld F.MAP_FLOW_CODEC 0 flow)) r.len.toNat r.payload

/-- An outcome is counted for a TID (R346): r = 0 an ACCEPT, otherwise a DEFER or REFUSE of reason r. -/
def State.countFab (s : State) (tid r : Nat) (refused : Bool) : State :=
  let f := if refused then F.MAP_TFABCNT_REFUSALS else F.MAP_TFABCNT_DEFERS
  s.setFld f ((s.fld f 0 (8 * tid + r) + 1) % 2 ^ 32) 0 (8 * tid + r)

/-- An outstanding request takes its new standing, in its place in the order of issue. -/
def State.putOutst (s : State) (o : Outst) : State :=
  let outs := s.fabric.outs
  let outs := if outs.any (fun e => decide (e.tag = o.tag)) then outs.map (fun e => if e.tag = o.tag then o else e) else outs ++ [o]
  s.setFabric { s.fabric with outs }

/-- An outstanding request is over. -/
def State.dropOutst (s : State) (tag : BitVec 16) : State :=
  s.setFabric { s.fabric with outs := s.fabric.outs.filter (fun e => decide (e.tag ≠ tag)) }

/-- C1 of a flow and input counts against its reservation of the frame (R347). -/
def State.countC1 (s : State) (x : Traffic) (beyond : Bool) : State :=
  if x.cls = 1 ∧ x.flow ≠ 0 ∧ !beyond then
    let k := c1Key x.flow x.inp
    s.setFabric { s.fabric with c1used := mput s.fabric.c1used k (mgetD s.fabric.c1used k 0 + x.bytes) }
  else s

/-- A request is sent or resent: it is outstanding, its bytes count against the quota, its packet waits at the link. -/
def State.sendOut (s : State) (o : Outst) (p : Nat) (beyond : Bool) (admitted : Option (Word × Nat)) : State :=
  let k := usedKey o.req.tid.val o.cls.val
  let s := s.putOutst { o with stand := .sent, issued := s.frame }
  let s := s.setFabric { s.fabric with used := mput s.fabric.used k (mgetD s.fabric.used k 0 + reqBytes o.req) }
  let s := s.countC1 (trafficOf o.req o.cls.val o.flow.toNat) beyond
  s.enqueue p ⟨s.requestPacket o.req o.cls o.flow.toNat o.tag, 255, beyond, admitted, o.req.tid.val, 0⟩

/-- A request is put off by k frames, or refused where its deferrals add up to more than DEFMAX (R345). -/
def State.putOff (s : State) (o : Outst) (k reason : Nat) : Option Nat × State :=
  let s := s.countFab o.req.tid.val reason false
  if s.fld F.MAP_FABCTL_DEFMAX < o.defers + k then
    (some reason, (s.dropOutst o.tag).countFab o.req.tid.val reason true)
  else
    (none, s.putOutst { o with defers := o.defers + k, reason := BitVec.ofNat 3 reason, stand := .until_ (s.frame + BitVec.ofNat 64 k) })

/-- The C0 messages of a flow from an input that wait to be sent at a port. -/
def State.c0Waiting (s : State) (p flow inp : Nat) : Nat :=
  (s.port p).egress.countP (fun w => decide (w.pkt.cls = 0 ∧ w.pkt.resp = 0) && w.pkt.flow.toNat == flow && w.inp == inp)

/-- When a C0 message is enqueued at a port: within the slot that has begun there, at a cycle that is free (R337, entries 6
and 49). -/
def State.admitNow (s : State) (p : Nat) : (Word × Nat) × State :=
  let (d, s) := s.draw
  let l := s.slotLen
  let k := (s.port p).pos - 1
  ((s.frame, k * l + d.toNat % (if k < 64 then l + 1 else s.tf * 20 - 64 * l + 1)), s)

/-- A fresh tag. -/
def State.newTag (s : State) : BitVec 16 × State :=
  (s.fabric.nextTag, s.setFabric { s.fabric with nextTag := s.fabric.nextTag + 1 })

/-- A request is judged at the source gateway and sent, put off or refused: the reason where it is refused (R337, R344).
A C0 message is admitted when it is enqueued, or at the start `begun` of its predecessor's group. -/
def State.issueAs (s : State) (o : Outst) (begun : Option (Word × Nat) := none) : Option Nat × State :=
  match s.judgeSource o.req o.cls o.flow.toNat with
  | .refuse r => (some r, (s.dropOutst o.tag).countFab o.req.tid.val r true)
  | .defer r => s.putOff o 1 r
  | .credit p => (none, s.putOutst { o with stand := .credit p })
  | .accept p beyond =>
    if o.cls = 0 then
      if 0 < s.c0Waiting p o.flow.toNat 255 then
        let q := mgetD s.fabric.flowQ o.flow.toNat []
        (none, (s.dropOutst o.tag).setFabric
          { (s.dropOutst o.tag).fabric with flowQ := mput s.fabric.flowQ o.flow.toNat (q ++ [o.req]) })
      else
        match begun with
        | some a => (none, s.sendOut o p beyond (some a))
        | none =>
          let (a, s) := s.admitNow p
          (none, s.sendOut o p beyond (some a))
    else (none, s.sendOut o p beyond none)

/-- A request is classified, and judged (R330, R344). -/
def State.issueNow (s : State) (r : FabReq) (begun : Option (Word × Nat) := none) : Option Nat × State :=
  let (cls, flow) := s.classify r
  let (tag, s) := s.newTag
  s.issueAs ⟨tag, r, cls, BitVec.ofNat 12 flow, 0, 0, .sent, s.frame, gatewayOf r.dst.toNat r.addr.toNat⟩ begun

/-- Two requests of this node are for one 256-byte line, and so leave by one gateway (R239). -/
def sameLine (a b : FabReq) : Bool := decide (a.dst = b.dst) && a.addr.toNat / 256 == b.addr.toNat / 256

/-- A request to the line of r has not left its gateway. -/
def State.lineBusy (s : State) (r : FabReq) : Bool :=
  s.fabric.outs.any (fun o => decide (o.stand ≠ .sent) && sameLine o.req r) || s.fabric.flowQ.any (fun q => q.2.any (sameLine r))

/-- A request reaches its gateway (R239, R330, R344): it waits behind an earlier one to its 256-byte line, or is judged. -/
def State.issue (s : State) (r : FabReq) : Option Nat × State :=
  if s.lineBusy r then
    let (cls, flow) := s.classify r
    let (tag, s) := s.newTag
    (none, s.putOutst ⟨tag, r, cls, BitVec.ofNat 12 flow, 0, 0, .behind, s.frame, gatewayOf r.dst.toNat r.addr.toNat⟩)
  else s.issueNow r

/-- The response to a packet (R338). -/
def State.responsePacket (s : State) (k : Packet) (resp : BitVec 2) (reason : Nat) (op : FabOp) (bad : Bool)
    (payload : List Word) (len : Nat) : Packet :=
  { k with
    dst := k.src, src := s.nodeId, flow := 0, op := op, codec := 0, hops := BitVec.ofNat 4 (s.fld F.MAP_FABCTL_HOPMAX),
    len := BitVec.ofNat 13 len, resp := resp, reason := BitVec.ofNat 3 reason, deferK := 0, bad := bad, dataOk := true,
    tcode := 1, payload := payload }

/-- A response goes back to the node a packet came from, in the packet's class (R330); without a route it is lost, and the
requester learns by its own time limit. Its work is charged to a TID (R358). -/
def State.reply (s : State) (k : Packet) (resp : BitVec 2) (reason : Nat) (op : FabOp) (bad : Bool) (payload : List Word)
    (len : Nat) (tid : Nat := 0) : State :=
  match s.routeTo k.src.toNat with
  | none => s.bump .MAP_XBARDROPCNT
  | some p => s.enqueue p ⟨s.responsePacket k resp reason op bad payload len, 255, true, none, tid, 0⟩

/-- REFUSE with a reason. -/
def State.replyRefuse (s : State) (k : Packet) (reason : Nat) (tid : Nat := 0) : State :=
  s.reply k 3 reason .response false [] 0 tid

/-- ACCEPT. -/
def State.replyAccept (s : State) (k : Packet) (tid : Nat := 0) : State := s.reply k 1 0 .response false [] 0 tid

/-- A lease message to a node (R330, R344, R350, R351): a request of TID 0, which names the range by its base. Its outcome
is counted and nothing else waits for it (R346). -/
def State.sendLease (s : State) (op : FabOp) (node base : Nat) : State :=
  (s.issue ⟨.fabric 0 0, BitVec.ofNat 12 node, BitVec.ofNat 52 base, 0, op, false, false, 0, 0, 0, []⟩).2

end Sys2Proof.Machine
end

