-- ==== Sys2Proof/Machine/Engine.lean ====
section
/-! DEFINITION. A signal engine: its registers, memories, DRAM cache and events, and the start, end and abort of its jobs
(R160 to R180, R185, R189, R212, R415, R416, R461). Engine e of the device is engine e mod 8 of group e / 8. -/
namespace Sys2Proof.Machine

/-- The target and SUB of an engine's arrays (R413): kind 0 data memory, 1 and 2 the program banks, 3 the DRAM cache. -/
def seTarget (e : Nat) : Nat := 96 + e / 8
def seSub (e kind : Nat) : Nat := e % 8 + 8 * kind

/-! ### Local registers (R212, R213) -/

/-- Bits of a local register that exist; none for an index that R212 does not list. -/
def locMask (i : Nat) : Option Nat :=
  if i ≤ 2 ∨ (4 ≤ i ∧ i ≤ 6) then some 0x7FF
  else if 8 ≤ i ∧ i ≤ 10 then some 0xFF_FFFF
  else if i = 0x0C then some 7
  else if i = 0x0D then some 0xF
  else if i = 0x0E then some 3
  else if i = 0x0F then some 0xF_FFFF
  else if i = 0x10 ∨ i = 0x11 then some 0x7FF
  else if i = 0x12 ∨ (0x18 ≤ i ∧ i ≤ 0x1F) then some 0xFFFF_FFFF
  else none

/-- A local register's reset value. -/
def locReset (i : Nat) : BitVec 32 := if i = 0x0D then 4 else 0

def Engine.locRd (x : Engine) (i : Nat) : BitVec 32 := mgetD x.loc i (locReset i)

def Engine.locWr (x : Engine) (i : Nat) (v : BitVec 32) : Engine := { x with loc := mset x.loc i v (locReset i) }

/-- Bits [hi:lo] of a local register. -/
def Engine.locFld (x : Engine) (i hi lo : Nat) : Nat := getBits ((x.locRd i).setWidth 64) hi lo

/-! ### Registers -/

/-- A sample in its container: bits [31:24] copy bit 23 (R199). -/
def sample (v : Nat) : BitVec 32 := BitVec.ofNat 32 (encInt 32 (sexNat 24 v))

def Engine.rd_d (x : Engine) (r : Nat) : BitVec 32 := mgetD x.d (r % 32) 0
def Engine.rd_a (x : Engine) (r : Nat) : BitVec 56 := mgetD x.a (r % 8) 0
def Engine.rd_p (x : Engine) (r : Nat) : BitVec 32 := mgetD x.p (r % 16) 0
def Engine.rd_m (x : Engine) (r : Nat) : BitVec 32 := mgetD x.m (r % 16) 0

/-- The sample value of a d register (R199). -/
def Engine.smp (x : Engine) (r : Nat) : Int := sexNat 24 (x.rd_d r).toNat

/-- A result lands; one written to SFLAG clears the bits it has set but those raised in the same cycle (R11, R213). -/
def Engine.land (x : Engine) (raised : Nat) (f : Flight) : Engine :=
  match f.dest with
  | .d r => { x with d := mset x.d (r % 32) (sample f.val.toNat) 0 }
  | .a r => { x with a := mset x.a (r % 8) (f.val.setWidth 56) 0 }
  | .p r => { x with p := mset x.p (r % 16) (f.val.setWidth 32) 0 }
  | .m r => { x with m := mset x.m (r % 16) (f.val.setWidth 32) 0 }
  | .loc i =>
    if i = 0x0E then x.locWr i ((x.locRd i &&& ~~~(f.val.setWidth 32)) ||| BitVec.ofNat 32 raised)
    else x.locWr i (f.val.setWidth 32)

/-- One bundle issues: every result comes nearer, and those that are due land in the order of issue (R194, R197). -/
def Engine.advance (x : Engine) (raised : Nat) : Engine :=
  let fs := x.flight.map (fun f => { f with left := f.left - 1 })
  let x := (fs.filter (fun f => decide (f.left = 0) && f.wait.isNone)).foldl (fun x f => x.land raised f) x
  { x with flight := fs.filter (fun f => !(decide (f.left = 0) && f.wait.isNone)) }

/-- Every result in flight lands, but for loads whose line is still to come (R193). -/
def Engine.landAll (x : Engine) : Engine := [1, 2, 3].foldl (fun (x : Engine) _ => x.advance 0) x

/-- Every result in flight lands; the outstanding misses are abandoned (R176). -/
def Engine.abandon (x : Engine) : Engine :=
  { { x with flight := x.flight.filter (fun f => f.wait.isNone) }.landAll with flight := [], miss := [], owed := none }

/-! ### Data memory (R162, R414, R415) -/

/-- A 64-bit word of data memory as it is read: whether it is poisoned or uncorrectable, and the word. -/
def State.dmemRead (s : State) (e i tid : Nat) : Bool × Word × State :=
  let w := mgetD (s.engine e).dmem i ⟨0, false⟩
  if w.poison then (true, w.data, s)
  else
    match s.arrJudge (seTarget e) (seSub e 0) i with
    | (.clean, s) => (false, w.data, s)
    | (.corrected, s) => (false, w.data, s.arrCorrect (seTarget e) (seSub e 0) i tid)
    | (.uncorrectable, s) =>
      let x := s.engine e
      (true, w.data, (s.setEngine e { x with dmem := mput x.dmem i { w with poison := true } }).arrUncorr 0x03 (seTarget e) (seSub e 0) i tid)
    | (.beyond, s) =>
      let (v, s) := s.draw
      (false, v, s)

/-- A word of data memory is written whole: poison goes unless the data carries it. -/
def State.dmemWrite (s : State) (e i : Nat) (v : Word) (poison : Bool) : State :=
  let x := s.engine e
  (s.setEngine e { x with dmem := mset x.dmem i ⟨v, poison⟩ ⟨0, false⟩ }).arrWrite (seTarget e) (seSub e 0) i

/-- Half of a word is written; a poisoned or uncorrectable word stays poisoned (R415). -/
def State.dmemHalf (s : State) (e byte : Nat) (v : BitVec 32) (tid : Nat) : State :=
  let i := byte / 8
  let (bad, w, s) := s.dmemRead e i tid
  let w := if byte / 4 % 2 = 0 then setBits w 31 0 v.toNat else setBits w 63 32 v.toNat
  s.dmemWrite e i w bad

/-- A word of a program bank, kind 1 or 2, as it is read (R414, R415). -/
def State.progRead (s : State) (e kind i tid : Nat) : Bool × Word × State :=
  let x := s.engine e
  let w := mgetD (if kind = 1 then x.progA else x.progB) i ⟨0, false⟩
  if w.poison then (true, w.data, s)
  else match s.arrJudge (seTarget e) (seSub e kind) i with
    | (.clean, s) => (false, w.data, s)
    | (.corrected, s) => (false, w.data, s.arrCorrect (seTarget e) (seSub e kind) i tid)
    | (.uncorrectable, s) =>
      let put (m : SMap MemW) : SMap MemW := mput m i { w with poison := true }
      let x := if kind = 1 then { x with progA := put x.progA } else { x with progB := put x.progB }
      (true, w.data, (s.setEngine e x).arrUncorr 0x03 (seTarget e) (seSub e kind) i tid)
    | (.beyond, s) =>
      let (v, s) := s.draw
      (false, v, s)

/-! ### Events (R185) -/

/-- The capture units of a group whose FIFO holds entries and which are bound to an engine. -/
def State.capPending (s : State) (e : Nat) : Nat :=
  (List.range 8).foldl (fun n k =>
    if !(mgetD (s.group (e / 8)).fifo k []).isEmpty && s.fld F.SG_CAPCTL_ENGINE (e / 8) k == e % 8 then n + 2 ^ k else n) 0

/-- SE_EVPEND as it reads: CAP shows the FIFOs. -/
def State.evPend (s : State) (e : Nat) : Nat :=
  s.fld F.SE_EVPEND_TMR e + 256 * s.capPending e + 65536 * s.fld F.SE_EVPEND_DMA e

/-- A timer or DMA event becomes pending. -/
def State.setEvent (s : State) (e ev : Nat) : State := s.wr .SE_EVPEND (setBit (s.rd .SE_EVPEND e) ev true) e

def State.clearEvent (s : State) (e ev : Nat) : State := s.wr .SE_EVPEND (setBit (s.rd .SE_EVPEND e) ev false) e

/-! ### DMA channels (R168, R169, R189) -/

/-- A channel stops with an error code and sets its event. -/
def State.dmaStopWith (s : State) (e c code : Nat) : State :=
  let x := s.engine e
  let s := s.setEngine e { x with dma := merase x.dma c }
  (((s.setFld F.SE_DMACTL_BUSY 0 e c).setFld F.SE_DMACTL_ERR 1 e c).setFld F.SE_DMACTL_ERRCODE code e c).setEvent e (16 + c)

/-- Every busy channel of an engine stops with ERRCODE 5 (R169). -/
def State.dmaStopAll (s : State) (e : Nat) : State :=
  (List.range 4).foldl (fun s c => if s.flag F.SE_DMACTL_BUSY e c then s.dmaStopWith e c 5 else s) s

/-- No channel of an engine is busy. -/
def State.dmaIdle (s : State) (e : Nat) : Bool := (List.range 4).all (fun c => !s.flag F.SE_DMACTL_BUSY e c)

/-! ### The job list (R170) -/

/-- Word w of slot j of an engine in the plan in force. -/
def State.jobWord (s : State) (e j w : Nat) : Word := s.planWord (0x30_0000 + 64 * (4 * e + j) + 8 * w)

/-- The entry of a slot is uncorrectable (R417). -/
def State.jobBad (s : State) (e j : Nat) : Bool := (List.range 8).any (fun w => s.planBad (0x30_0000 + 64 * (4 * e + j) + 8 * w))

/-- KIND of a slot; an uncorrectable entry is empty. -/
def State.jobKind (s : State) (e j : Nat) : Nat := if s.jobBad e j then 0 else getBits (s.jobWord e j 0) 1 0

/-- The output buffers of a mask are STALE. -/
def State.stale (s : State) (e mask : Nat) : State :=
  (List.range 8).foldl (fun s k => if mask.testBit k then s.setFld F.SE_OBUFST_STALE 1 e k else s) s

/-- The result of a slot's job (R189). -/
def State.jobResult (s : State) (e j result : Nat) : State :=
  ((s.setFld F.SE_LASTJOB_RESULT result e).setFld F.SE_LASTJOB_SLOT j e).setFld F.SE_LASTJOB_FRAME (s.frame.toNat % 2 ^ 48) e

/-- A slot's job is not started: SKIPPED or REFUSED (R174, R176). -/
def State.notStarted (s : State) (e j result : Nat) : State :=
  ((s.stale e (getBits (s.jobWord e j 3) 7 0)).jobResult e j result).bump .SG_SKIPCNT (e / 8)

/-- Slots j to 3 that hold frame jobs are skipped (R176). -/
def State.skipFrom (s : State) (e j : Nat) : State :=
  let s := ((List.range 4).filter (fun i => decide (j ≤ i))).foldl (fun s i =>
    if s.jobBad e i then s.stale e (getBits (s.jobWord e i 3) 7 0)
    else if s.jobKind e i = 1 then s.notStarted e i 3 else s) s
  s.setEngine e { s.engine e with next := 4 }

/-! ### The end of a job -/

/-- The hold of a job is replaced by its metered energy (R366). -/
def State.settleJob (s : State) (j : Job) : State :=
  if j.c0 then s
  else
    let sum := j.used + mgetD s.ledger.rem j.tid 0
    let s := s.setLedger { s.ledger with rem := mput s.ledger.rem j.tid (sum % enUnit) }
    let s := if sum / enUnit = 0 ∧ j.hold = 0 then s else s.debit j.tid false (sum / enUnit) j.hold
    (if j.hold * enUnit < j.used then s.bump .ENL_OVERDECLCNT else s).frameCap

/-- An engine runs no job: idle, or halted where a halt is due or in force (R461). -/
def State.engineRest (s : State) (e : Nat) : State :=
  let x := s.engine e
  let st := if x.haltReq || s.fld F.SE_STAT_STATE e == 3 then 3 else 0
  ((s.setEngine e { x with job := none, haltReq := false, bundle := [], held := false, slots := 0, redirect := none,
                           annul := false }).setFld F.SE_STAT_STATE st e).setFld F.SE_STAT_SFJOB 0 e

/-- A job completes (R175); a load of its last bundle that missed lands when its line arrives. -/
def State.jobDone (s : State) (e : Nat) (j : Job) : State :=
  let x := s.engine e
  let s := s.setEngine e { x.landAll with owed := if x.miss.isEmpty then none else some j }
  let s := (List.range 8).foldl (fun s k =>
    if j.outmask.getLsbD k then (s.setFld F.SE_OBUFST_STALE 0 e k).setFld F.SE_OBUFST_FRAME (s.frame.toNat % 2 ^ 48) e k else s) s
  (((s.bump .SE_JOBCNT e).jobResult e j.slot 1).settleJob j).engineRest e

/-- A job is aborted with a result (R176): its channels stop, its outputs and those of the later slots are STALE, and those
slots are skipped. -/
def State.jobAbort (s : State) (e : Nat) (result : Nat) : State :=
  match (s.engine e).job with
  | none => s
  | some j =>
    let s := (s.setEngine e (s.engine e).abandon).dmaStopAll e
    let s := (s.stale e j.outmask.toNat).jobResult e j.slot result
    let s := if result = 2 then s.bump .SG_OVRCNT (e / 8) else s
    let s := (s.settleJob j).engineRest e
    if j.sf then s else s.skipFrom e (j.slot + 1)

/-- A program error of a slot of a bundle (R211, R215). -/
def State.progError (s : State) (e cause slot b : Nat) : State :=
  let v : Nat := cause + slot * 2 ^ 4 + b * 2 ^ 16 + s.frame.toNat % 2 ^ 32 * 2 ^ 32
  (s.wr .SE_FAULT (BitVec.ofNat 64 v) e).jobAbort e 5

/-! ### The start of a job (R173, R174, R177, R178) -/

/-- An engine takes a job's TID, entry and arguments. -/
def State.jobBegin (s : State) (e j : Nat) (sf : Bool) (hold : Nat) : State :=
  let w := s.jobWord e j 0
  let tid := getBits w 41 32
  let x := s.engine e
  let x := if x.lastTid ≠ some tid then
      { x with dmem := [], d := [], a := [], p := [], m := [], loc := [] }
    else (((x.locWr 0x0C 0).locWr 0x0D 4).locWr 0x0E 0).locWr 0x0F 0
  let arg := s.jobWord e j 2
  let x := { x with
    p := mset (mset x.p 0 (arg.setWidth 32) 0) 1 ((arg >>> 32).setWidth 32) 0,
    flight := [], bundle := [], held := false, pc := getBits w 26 16, slots := 0, redirect := none, annul := false,
    cache := [], miss := [], lbuf := [], lastTid := some tid, next := j + 1,
    span := if sf then some (s.frame + BitVec.ofNat 64 (getBits w 59 48 - getBits w 15 4)) else x.span,
    job := some { slot := j, sf := sf, c0 := bitOf w 2, yieldOk := bitOf w 3, tid := tid, endPos := getBits w 59 48,
                  outmask := BitVec.ofNat 8 (getBits (s.jobWord e j 3) 7 0), hold := hold, used := 0,
                  wins := (List.range 4).map (fun k => s.jobWord e j (4 + k)) } }
  let s : State := if x.dmem.isEmpty then
      { s with errs := mkeep s.errs (fun k => !decide (errKey (seTarget e) (seSub e 0) 0 ≤ k ∧ k < errKey (seTarget e) (seSub e 0) (2 ^ 32))) }
    else s
  ((((s.setEngine e x).setFld F.SE_STAT_STATE 1 e).setFld F.SE_STAT_SFJOB (b2n sf) e).setFld F.SE_STAT_SLOT j e).setFld
    F.SE_STAT_TID tid e

/-- A slot's job falls due (R174, R365, R399, R461): a halted engine skips it, a held TID or an account that cannot cover
ENERGY refuses it, otherwise it starts. -/
def State.jobDue (s : State) (e j : Nat) (sf : Bool) : State :=
  let w := s.jobWord e j 0
  let tid := getBits w 41 32
  let en := getBits (s.jobWord e j 1) 63 32
  let s1 := s.setEngine e { s.engine e with next := j + 1 }
  if s.fld F.SE_STAT_STATE e = 3 then s1.notStarted e j 3
  else if s.held tid then s1.notStarted e j 4
  else if bitOf w 2 then s1.jobBegin e j sf 0
  else if tid ≠ 0 ∧ (s.deviceGate ∨ s.balance tid < en) then s1.notStarted e j 4
  else (s1.setBalance tid (s1.balance tid - (en : Int))).jobBegin e j sf en

/-- An engine can look at its slots: its group is on and the frame runs. -/
def State.engineUp (s : State) (e : Nat) : Bool := s.live && s.domOn (sgDom (e / 8)) && s.flag F.CAD_STAT_RUN

/-- JOB_START (R173): the next slot that is not empty; an uncorrectable entry is empty, and its outputs are STALE (R417). It
waits for the results of the job before (R175). -/
def execJobStart (e : Fin 128) (s : State) : Host.Outcome State Fault Refusal :=
  let n := e.val
  .next <|
    if s.engineUp n && (s.engine n).job.isNone && (s.engine n).owed.isNone then
      let i := (s.engine n).next
      match ((List.range 4).filter (fun j => decide (i ≤ j))).find? (fun j => s.jobKind n j == 1) with
      | none => s
      | some j =>
        let s := ((List.range 4).filter (fun k => decide (i ≤ k ∧ k < j))).foldl (fun s k =>
          if s.jobBad n k then s.stale n (getBits (s.jobWord n k 3) 7 0) else s) s
        s.jobDue n j false
    else s

/-- SUPERFRAME_JOB_START (R178, R180): on a reused plan it is skipped. -/
def execSuperframeJobStart (e : Fin 128) (s : State) : Host.Outcome State Fault Refusal :=
  let n := e.val
  .next <|
    if s.engineUp n && (s.engine n).job.isNone && (s.engine n).owed.isNone && s.jobKind n 0 == 2 && (s.engine n).next == 0
        && (s.rd .CAD_SFPOS).toNat == getBits (s.jobWord n 0 0) 15 4 then
      if s.tick.fresh then s.jobDue n 0 true
      else (s.setEngine n { s.engine n with next := 1 }).notStarted n 0 3
    else s

/-- The timing change that is armed applies at the next tick (R21). -/
def State.changeNext (s : State) : Bool :=
  s.flag F.CAD_STAT_TIMING_ARMED && decide (s.rd .CAD_TIMING_AT = s.frame + 1)

/-- JOB_DEADLINE (R175, R176, R179): a superframe job ends at ENDPOS, or is CUT before a timing change. -/
def execJobDeadline (e : Fin 128) (s : State) : Host.Outcome State Fault Refusal :=
  let n := e.val
  .next <|
    if s.engineUp n then
      match (s.engine n).job with
      | none =>
        let s := if (s.engine n).owed.isSome then s.setEngine n (s.engine n).abandon else s
        s.skipFrom n (s.engine n).next
      | some j =>
        if !j.sf then s.jobAbort n 2
        else if (s.rd .CAD_SFPOS).toNat = j.endPos then s.jobAbort n 2
        else if s.changeNext then s.jobAbort n 6
        else s
    else s

/-! ### Debug (R461) -/

/-- A debug session's request to halt goes through; otherwise it is discarded and logged (R458). -/
def State.mayHalt (s : State) (bit off : Nat) (f : State → State) : State :=
  if !s.live then s else if s.scope bit then f s else s.ctlErr .debug true .master off

/-- HALT_ENGINE (R461). -/
def execHaltEngine (e : Fin 128) (s : State) : Host.Outcome State Fault Refusal :=
  let n := e.val
  .next <| s.mayHalt 3 (Reg.SE_STAT.off n 0) (fun s =>
    if !s.domOn (sgDom (n / 8)) then s
    else match (s.engine n).job with
      | none => s.setFld F.SE_STAT_STATE 3 n
      | some j => if j.c0 && !j.yieldOk then s.setEngine n { s.engine n with haltReq := true } else s.setFld F.SE_STAT_STATE 3 n)

/-- RELEASE_ENGINE (R461). -/
def execReleaseEngine (e : Fin 128) (s : State) : Host.Outcome State Fault Refusal :=
  let n := e.val
  .next <| s.mayHalt 3 (Reg.SE_STAT.off n 0) (fun s =>
    let s := s.setEngine n { s.engine n with haltReq := false }
    if s.fld F.SE_STAT_STATE n = 3 then s.setFld F.SE_STAT_STATE (b2n (s.engine n).job.isSome) n else s)

end Sys2Proof.Machine
end

