-- ==== Sys2Proof/Machine/SigOps.lean ====
section
/-! DEFINITION. The arithmetic and addressing of the signal engines (R199 to R204) and the check of a syllable (R190 to
R192, R198). -/
namespace Sys2Proof.Machine

/-! ### Accumulators (R200, R201) -/

/-- A result brought into 56 bits, and whether it saturated (ASAT). -/
def sat56 (x : Int) : Int × Bool :=
  if x < -(2 ^ 55) then (-(2 ^ 55), true) else if 2 ^ 55 - 1 < x then (2 ^ 55 - 1, true) else (x, false)

/-- An accumulator's integer. -/
def accInt (a : BitVec 56) : Int := sexNat 56 a.toNat

/-- The complex product (R201): X times Y, or X times the conjugate of Y. -/
def cmul (conj : Bool) (xr xi yr yi : Int) : Int × Int :=
  if conj then (xr * yr + xi * yi, xi * yr - xr * yi) else (xr * yr - xi * yi, xr * yi + xi * yr)

/-! ### Samples (R202) -/

/-- round(v / 2^k) under SMODE.RND: 0 nearest, ties to even; 1 nearest, ties toward +∞; otherwise toward −∞. -/
def roundShift (rnd : Nat) (v : Int) (k : Nat) : Int :=
  let q := v / 2 ^ k
  let r := v % 2 ^ k
  match rnd with
  | 0 => if 2 * r < 2 ^ k then q else if 2 ^ k < 2 * r then q + 1 else if q % 2 = 0 then q else q + 1
  | 1 => if 2 * r < 2 ^ k then q else q + 1
  | _ => q

/-- A result brought into the range of a sample: clamped with SAT = 1, and whether it was (DSAT). -/
def fitSample (sat : Bool) (r : Int) : Nat × Bool :=
  if sat then
    if r < -(2 ^ 23) then (encInt 24 (-(2 ^ 23)), true)
    else if 2 ^ 23 - 1 < r then (2 ^ 23 - 1, true)
    else (encInt 24 r, false)
  else (encInt 24 r, false)

/-! ### Pointers (R204) -/

/-- The low n bits of a number, reversed. -/
def revBits (n x : Nat) : Nat :=
  (List.range n).foldl (fun acc i => if x.testBit i then acc + 2 ^ (n - 1 - i) else acc) 0

/-- The pointer after an access in a mode. -/
def nextPtr (mode : Nat) (p m base len : BitVec 32) : BitVec 32 :=
  match mode with
  | 0 => p
  | 1 => p + m
  | 2 =>
    let q := p + m
    if (base + len).sle q then q - len else if q.slt base then q + len else q
  | _ =>
    let i := (revBits 15 (p.toNat / 8 % 2 ^ 15) + revBits 15 (m.toNat / 8 % 2 ^ 15)) % 2 ^ 15
    (p &&& ~~~(0x3FFF8#32)) ||| BitVec.ofNat 32 (revBits 15 i * 8)

/-! ### Syllables -/

/-- Bits [hi:lo] of a syllable. -/
def sylFld (w : Syl) (hi lo : Nat) : Nat := w.toNat / 2 ^ lo % 2 ^ (hi + 1 - lo)

/-- The order of the slots (R190). -/
def slotIdx (s : Slot) : Nat :=
  match s with | .ld0 => 0 | .ls1 => 1 | .m0 => 2 | .m1 => 3 | .m2 => 4 | .m3 => 5 | .a => 6 | .b => 7

/-- A memory syllable is refused (R191, R198, R204). -/
def memBad (op : Nat) (w : Syl) : Bool :=
  let r := sylFld w 25 21
  decide (sylFld w 8 0 ≠ 0) || (decide (sylFld w 12 11 ≠ 2) && decide (sylFld w 10 9 ≠ 0)) ||
    (match op with
     | 0x02 => decide (r % 2 ≠ 0) | 0x0A => decide (r % 2 ≠ 0)
     | 0x03 => decide (r % 4 ≠ 0) | 0x0B => decide (r % 4 ≠ 0)
     | 0x04 => decide (16 ≤ r) | 0x05 => decide (16 ≤ r) | 0x0C => decide (16 ≤ r) | 0x0D => decide (16 ≤ r)
     | _ => false)

/-- A multiply syllable is refused. -/
def macBad (op : Nat) (even : Bool) (w : Syl) : Bool :=
  let odd (hi lo : Nat) : Bool := decide (sylFld w hi lo % 2 ≠ 0)
  if op = 0x3F then even || decide (w ≠ 0)
  else decide (sylFld w 2 0 ≠ 0) ||
    (if op ≤ 3 then false
     else !even || odd 22 18 || odd 17 13 ||
       (if op = 7 then odd 12 8 || decide (sylFld w 25 23 ≠ 0) else odd 23 23))

/-- A syllable of slot A is refused. -/
def arBad (op : Nat) (w : Syl) : Bool :=
  match op with
  | 0x08 => decide (23 < sylFld w 4 0) | 0x09 => decide (23 < sylFld w 4 0)
  | 0x0D => decide (sylFld w 4 0 ≠ 0)
  | 0x0E => decide (sylFld w 4 0 ≠ 0) || decide (sylFld w 20 13 ≠ 0)
  | 0x10 => decide (8 < sylFld w 3 0)
  | 0x13 => decide (sylFld w 25 21 % 4 ≠ 0) || decide (sylFld w 20 16 % 2 ≠ 0) || decide (sylFld w 15 11 % 2 ≠ 0)
  | _ => false

/-- A syllable of slot B is refused. A p or m register of slot B is one of the sixteen. -/
def brBad (op : Nat) (w : Syl) : Bool :=
  let rd := sylFld w 25 21
  let src := sylFld w 20 11
  let z : Bool := decide (sylFld w 10 0 ≠ 0)
  match op with
  | 0x01 => decide (sylFld w 25 25 ≠ 0) || decide (sylFld w 14 11 ≠ 0)
  | 0x08 => decide (sylFld w 25 25 ≠ 0) || decide (sylFld w 19 11 ≠ 0)
  | 0x09 => decide (sylFld w 25 25 ≠ 0) || decide (sylFld w 12 11 ≠ 0)
  | 0x10 => decide (sylFld w 4 0 ≠ 0) || decide (15 < rd)
  | 0x11 => decide (sylFld w 4 0 ≠ 0) || decide (15 < rd)
  | 0x12 => decide (sylFld w 4 0 ≠ 0) || decide (15 < rd)
  | 0x13 => z || decide (15 < rd) || src.testBit 5 || src.testBit 0
  | 0x14 => z || decide (15 < rd) || decide (src % 16 ≠ 0)
  | 0x15 => z || decide (15 < rd) || decide (src % 16 ≠ 0)
  | 0x16 => z || decide (15 < rd) || decide (rd % 2 ≠ 0) || decide (128 ≤ src)
  | 0x17 => z || decide (15 < rd) || decide (rd % 2 ≠ 0) || decide (128 ≤ src)
  | 0x18 => decide (sylFld w 25 20 ≠ 0)
  | 0x19 => z || decide (src % 32 ≠ 0) || decide (src / 256 = 3) ||
      (if src / 256 = 1 then decide (rd % 2 ≠ 0) || decide (15 < rd)
       else decide (rd ≠ 0) || (decide (src / 256 = 2) && decide (3 < src / 32 % 8)))
  | 0x1A => decide (w ≠ 0)
  | 0x1B => decide (w ≠ 0)
  | _ => decide (sylFld w 14 11 ≠ 0)

/-- A syllable is a decode error in a slot (R192): a reserved opcode there, a non-zero zero field, a forbidden operand. -/
def sylBad (sl : Slot) (op : Nat) (w : Syl) : Bool :=
  match sl with
  | .ld0 => !(decide (1 ≤ op ∧ op ≤ 5)) || memBad op w
  | .ls1 => !(decide ((1 ≤ op ∧ op ≤ 5) ∨ (9 ≤ op ∧ op ≤ 13))) || memBad op w
  | .m0 => !(decide (1 ≤ op ∧ op ≤ 7)) || macBad op true w
  | .m2 => !(decide (1 ≤ op ∧ op ≤ 7)) || macBad op true w
  | .m1 => !(decide ((1 ≤ op ∧ op ≤ 3) ∨ op = 0x3F)) || macBad op false w
  | .m3 => !(decide ((1 ≤ op ∧ op ≤ 3) ∨ op = 0x3F)) || macBad op false w
  | .a => !(decide ((1 ≤ op ∧ op ≤ 14) ∨ (0x10 ≤ op ∧ op ≤ 0x13))) || arBad op w
  | .b => !(decide ((1 ≤ op ∧ op ≤ 9) ∨ (0x10 ≤ op ∧ op ≤ 0x1B))) || brBad op w

/-- A complex instruction of an even M slot (R201). -/
def isComplex (op : Nat) : Bool := decide (4 ≤ op ∧ op ≤ 7)

/-- A control syllable, which a delay slot may not hold (R205). -/
def isControl (op : Nat) : Bool := decide ((1 ≤ op ∧ op ≤ 9) ∨ op = 0x1A ∨ op = 0x1B)

end Sys2Proof.Machine
end

