-- ==== Sys2Proof/Machine/Dma.lean ====
section
/-! DEFINITION. The DMA channels of a signal engine (R168, R169, R171, R189, R345) and its DRAM cache (R166, R167). -/
namespace Sys2Proof.Machine

/-! ### Address ranges -/

/-- Cut n bytes from address a into pieces that end at multiples of g: fuel is their greatest number. -/
def cutPieces (fuel g a n : Nat) : List (Nat × Nat) :=
  match fuel with
  | 0 => []
  | k + 1 => if n = 0 then [] else
    let m := min n (g - a % g)
    (a, m) :: cutPieces k g (a + m) (n - m)

/-- The pieces of a range. -/
def piecesOf (g a n : Nat) : List (Nat × Nat) := cutPieces (n / g + 2) g a n

/-- The local address of an engine's data-memory aperture (R188). -/
def dmemAperture (e : Nat) : Nat := ctlBase + 0x3000_0000 + e / 8 * 0x0100_0000 + 0x10_0000 + 0x4_0000 * (e % 8)

/-- A transfer's shape: bytes per row, rows, steps in bytes. -/
def dmaShape (v : Word) : Nat × Nat × Nat × Nat :=
  (F.SE_DMASHAPE_LEN.of v, F.SE_DMASHAPE_ROWS.of v + 1, 8 * F.SE_DMASHAPE_SSTRIDE.of v, 8 * F.SE_DMASHAPE_DSTRIDE.of v)

/-- Every row of a side lies in the engine's aperture. -/
def State.inAperture (s : State) (e : Nat) (a : Word) (rows step len : Nat) : Bool :=
  s.ownNode (nodeOf a) && decide (dmemAperture e ≤ localOf a ∧ localOf a + (rows - 1) * step + len ≤ dmemAperture e + 0x4_0000)

/-- An access lies in a valid window, which it may write (R171). -/
def inWindow (wins : List Word) (a n : Nat) (write : Bool) : Bool :=
  wins.any (fun w =>
    let b := getBits w 51 0 * 4096
    bitOf w 59 && (!write || bitOf w 58) && decide (b ≤ a ∧ a + n ≤ b + 2 ^ getBits w 57 52))

/-- One piece of a transfer: its global address, its data-memory offset and its length. -/
abbrev DmaPiece := Nat × Nat × Nat

/-- The pieces of a transfer, cut at multiples of g of the memory side: whether memory is the source, and the pieces. -/
def State.dmaPieces (s : State) (e : Nat) (d : DmaRun) (g : Nat) : Bool × List DmaPiece :=
  let (len, rows, ss, ds) := dmaShape d.shape
  let src := d.src
  let dst := d.dst
  let memSrc := !s.inAperture e src rows ss len
  let (m, ms, d, dstep) := if memSrc then (src, ss, dst, ds) else (dst, ds, src, ss)
  (memSrc, (List.range rows).flatMap (fun r =>
    let a := m.toNat + r * ms
    let o := localOf d + r * dstep - dmemAperture e
    (piecesOf g a len).map (fun p => (p.1, o + (p.1 - a), p.2))))

/-! ### Data between data memory and elsewhere -/

/-- Bytes of data memory from an 8-byte boundary: the data, and the offsets / 64 of granules that hold a poisoned word. -/
def State.dmemGet (s : State) (e o n tid : Nat) : List (Bool × Word) × State :=
  (List.range (n / 8)).foldl (fun (acc : List (Bool × Word) × State) i =>
    let (p, w, s) := acc.2.dmemRead e (o / 8 + i) tid
    (acc.1 ++ [(p, w)], s)) ([], s)

/-- Words put into data memory. -/
def State.dmemPut (s : State) (e o : Nat) (ws : List (Bool × Word)) : State :=
  (ws.foldl (fun (acc : Nat × State) w => (acc.1 + 1, acc.2.dmemWrite e acc.1 w.2 w.1)) (o / 8, s)).2

/-- A channel's finish: its event (R168). -/
def State.dmaFinish (s : State) (e c : Nat) : State :=
  let x := s.engine e
  ((s.setEngine e { x with dma := merase x.dma c }).setFld F.SE_DMACTL_BUSY 0 e c).setEvent e (16 + c)

/-- One piece moves between data memory and local memory; the error code, or none. A request that a frozen channel holds
leaves the transfer to go on later. -/
inductive DmaStep where
  | moved
  | failed (code : Nat)
  | held
deriving DecidableEq, Repr

def State.dmaMove (s : State) (e c : Nat) (d : DmaRun) (memSrc : Bool) (p : DmaPiece) : DmaStep × State :=
  let (a, o, n) := p
  if !inWindow d.wins a n (!memSrc) then (.failed 1, s)
  else
    match s.space (BitVec.ofNat 64 a) with
    | .mem la l =>
      let src : ReqSrc := .dma (Fin.ofNat 128 e) (Fin.ofNat 4 c)
      let off := la % 256
      let sects := (List.range 4).filter (fun j => decide (off / 64 ≤ j ∧ j ≤ (off + n - 1) / 64))
      let moved (s : State) : DmaStep × State := (.moved, s.chargeSrc src d.tid 12 (n / 8) d.c0)
      if memSrc then
        match s.ncRead la l (sectBits sects) d.tid d.c0 src with
        | (.done f, s) =>
          let ws := (List.range (n / 8)).map (fun i =>
            let b := off + 8 * i
            (f.ue.getLsbD (b / 64), (f.data >>> (8 * b)).setWidth 64))
          moved (s.dmemPut e o ws)
        | (.noMemory, s) => (.failed 2, s.noMemory d.tid (BitVec.ofNat 64 a))
        | (.withdrawn, s) => (.failed 3, s)
        | (.held, s) => (.held, s)
      else
        let (ws, s) := s.dmemGet e o n d.tid
        let data : Superline := BitVec.ofNat 2048 (packed 64 (ws.map (fun w => w.2.toNat))) <<< (8 * off)
        let mask : BitVec 256 := ((BitVec.allOnes n).setWidth 256) <<< off
        let pois := sectBits (sects.filter (fun j => ws.zipIdx.any (fun w => w.1.1 && (off + 8 * w.2) / 64 == j)))
        match s.ncWrite la l mask data pois d.tid d.c0 src with
        | (.done _, s) => moved s
        | (.noMemory, s) => (.failed 2, s.noMemory d.tid (BitVec.ofNat 64 a))
        | (.withdrawn, s) => (.failed 3, s)
        | (.held, s) => (.held, s)
    | .ctl _ => (.failed 2, s)
    | .fabric _ _ => (.moved, s)
    | .nothing => (.failed 2, s.noMemory d.tid (BitVec.ofNat 64 a))

/-- Pieces move in order until one does not. -/
def State.dmaMoves (s : State) (e c : Nat) (d : DmaRun) (memSrc : Bool) (ps : List DmaPiece) : DmaStep × State :=
  match ps with
  | [] => (.moved, s)
  | p :: rest =>
    match s.dmaMove e c d memSrc p with
    | (.moved, s) => s.dmaMoves e c d memSrc rest
    | r => r

/-! ### Fabric transfers (R239, R345) -/

/-- The requests of a fabric transfer, 64 bytes each, are issued in order until one is refused. -/
def State.dmaIssue (s : State) (e c : Nat) (d : DmaRun) (memSrc : Bool) (ps : List DmaPiece) : DmaStep × State :=
  match ps with
  | [] => (.moved, s)
  | (a, o, n) :: rest =>
    if !inWindow d.wins a n (!memSrc) then (.failed 1, s)
    else
      let (ws, s) := if memSrc then ([], s)
        else (s.chargeJob e d.tid 12 (n / 8) d.c0).dmemGet e o n d.tid
      let r : FabReq := ⟨.dma (Fin.ofNat 128 e) (Fin.ofNat 4 c), BitVec.ofNat 12 (a / 2 ^ 52), BitVec.ofNat 52 a,
        Fin.ofNat 1024 d.tid, if memSrc then .readReq else .write, d.c0, false, 0, BitVec.ofNat 13 n, 0, ws.map (fun w => w.2)⟩
      match s.issue r with
      | (some 4, s) => (.failed 3, s)
      | (some _, s) => (.failed 4, s)
      | (none, s) => s.dmaIssue e c d memSrc rest

/-- A response brings data for a fabric read of a channel: it goes where each row that holds its address goes. -/
def State.dmaData (s : State) (e c : Nat) (a : Nat) (payload : List Word) (poison : Bool) : State :=
  match mget (s.engine e).dma c with
  | none => s
  | some d =>
    let (memSrc, ps) := s.dmaPieces e d 64
    if memSrc then
      (ps.filter (fun p => decide (p.1 % 2 ^ 52 = a))).foldl (fun s p => (s.chargeJob e d.tid 12 payload.length d.c0).dmemPut e p.2.1 (payload.map (fun w => (poison, w)))) s
    else s

/-- Requests of a channel are still outstanding. -/
def State.dmaOuts (s : State) (e c : Nat) : Bool :=
  let mine (r : FabReq) : Bool := decide (r.src = .dma (Fin.ofNat 128 e) (Fin.ofNat 4 c))
  s.fabric.outs.any (fun o => mine o.req) || s.fabric.flowQ.any (fun q => q.2.any mine)

/-! ### GO and STOP (R168, R189) -/

/-- GO: the endpoints (ERRCODE 6), the alignment (7), then the transfer starts under the job's TID and windows. With no job
there is no window, so it stops with ERRCODE 1. -/
def State.dmaStart (s : State) (e c : Nat) : State :=
  let (len, rows, ss, ds) := dmaShape (s.rd .SE_DMASHAPE e c)
  let src := s.rd .SE_DMASRC e c
  let dst := s.rd .SE_DMADST e c
  let ap1 := s.inAperture e src rows ss len
  let ap2 := s.inAperture e dst rows ds len
  let isCtl (a : Word) : Bool := match s.space a with | .ctl _ => true | _ => false
  let s := match (s.engine e).job with | some j => s.setFld F.SE_DMACTL_TID j.tid e c | none => s
  if ap1 == ap2 || isCtl (if ap1 then dst else src) then s.dmaStopWith e c 6
  else if len % 8 ≠ 0 ∨ src.toNat % 8 ≠ 0 ∨ dst.toNat % 8 ≠ 0 then s.dmaStopWith e c 7
  else
    match (s.engine e).job with
    | none => s.dmaStopWith e c 1
    | some j =>
      let d : DmaRun := ⟨j.tid, j.c0, j.wins, src, dst, s.rd .SE_DMASHAPE e c⟩
      let x := s.engine e
      let s := ((s.setEngine e { x with dma := mput x.dma c d }).setFld F.SE_DMACTL_BUSY 1 e c)
      let fab := match s.space (if ap1 then dst else src) with | .fabric _ _ => true | _ => false
      if !fab then s
      else
        let (memSrc, ps) := s.dmaPieces e d 64
        match s.dmaIssue e c d memSrc ps with
        | (.failed code, s) => s.dmaStopWith e c code
        | (_, s) => s

/-- A write to SE_DMACTL (R189): ERR clears, GO starts, STOP stops with ERRCODE 5; GO while BUSY is discarded and logged. -/
def State.actDmaCtl (s : State) (stop e c : Nat) (v : Word) : State :=
  let busy := s.flag F.SE_DMACTL_BUSY e c
  if bitOf v 0 && busy then s.ctlErrAt stop true .stateRule (Reg.SE_DMACTL.off e c)
  else
    let s := if bitOf v 2 then s.setFld F.SE_DMACTL_ERR 0 e c else s
    let s := if bitOf v 3 && busy then s.dmaStopWith e c 5 else s
    if bitOf v 0 then s.dmaStart e c else s

/-! ### The DRAM cache (R166, R167) -/

/-- The set of a line (R166). -/
def ecSet (line : Nat) : Nat := line % 64

/-- A line in an engine's cache. -/
def Engine.ecFind (x : Engine) (line : Nat) : Option ECLine := (mgetD x.cache (ecSet line) []).find? (fun l => l.line == line)

/-- A hit moves its line to the front of its set. -/
def Engine.ecTouch (x : Engine) (l : ECLine) : Engine :=
  let st := mgetD x.cache (ecSet l.line) []
  { x with cache := mput x.cache (ecSet l.line) (l :: st.filter (fun m => decide (m.way ≠ l.way))) }

/-- A line comes into an invalid way, the lowest first, or the least recently used one. -/
def Engine.ecFill (x : Engine) (line : Nat) (data : BitVec 1024) (poison : BitVec 2) : Engine :=
  let st := mgetD x.cache (ecSet line) []
  let w := match firstIdx 4 (fun i => !st.any (fun l => l.way == i)) with
    | some w => w
    | none => match st.getLast? with | some l => l.way | none => 0
  x.ecTouch ⟨w, line, data, poison⟩

/-- The array word of an 8-byte granule of a cache line. -/
def ecWord (l : ECLine) (i : Nat) : Nat := (ecSet l.line * 4 + l.way) * 16 + i

/-- A word of a line as a load reads it. An uncorrectable word invalidates the line (R415). -/
inductive EcRead where
  | hit (v : BitVec 32)
  | poisoned
  | miss
deriving DecidableEq, Repr

/-- A 4-byte word at a global address through the cache. -/
def State.ecRead (s : State) (e a tid : Nat) : EcRead × State :=
  let x := s.engine e
  match x.ecFind (a / 128) with
  | none => (.miss, s)
  | some l =>
    let s := s.setEngine e (x.ecTouch l)
    let i := a % 128 / 8
    match s.arrJudge (seTarget e) (seSub e 3) (ecWord l i) with
    | (.uncorrectable, s) =>
      let x := s.engine e
      let s := s.setEngine e { x with cache := mput x.cache (ecSet l.line) ((mgetD x.cache (ecSet l.line) []).filter (fun m => m.line != l.line)) }
      (.miss, s.arrUncorr 0x02 (seTarget e) (seSub e 3) (ecWord l i) tid)
    | (.beyond, s) =>
      let (v, s) := s.draw
      (.hit (v.setWidth 32), s)
    | (r, s) =>
      let s := if r = .corrected then s.arrCorrect (seTarget e) (seSub e 3) (ecWord l i) tid else s
      if l.poison.getLsbD (a % 128 / 64) then (.poisoned, s) else (.hit ((l.data >>> (8 * (a % 128))).setWidth 32), s)

/-- A missed line cannot be had: the job is aborted; the loads of one that has completed leave their registers unchanged. -/
def State.missFailed (s : State) (e : Nat) : State :=
  if (s.engine e).job.isSome then s.jobAbort e 7 else s.setEngine e (s.engine e).abandon

/-- A missed line names no local memory: cause 7 of the load's slot and bundle (R211, R215). -/
def State.missError (s : State) (e slot b : Nat) : State :=
  if (s.engine e).job.isSome then s.progError e 7 slot b else s.setEngine e (s.engine e).abandon

/-- The loads of a completed job whose lines have come land at once (R175). -/
def Engine.repaid (x : Engine) : Engine :=
  if x.owed.isNone then x else { x.landAll with owed := if x.miss.isEmpty then none else x.owed }

/-- The words that wait for a line take their values; poison ends the job (R416). -/
def State.ecResolve (s : State) (e line : Nat) : State :=
  let x := s.engine e
  match x.ecFind line with
  | none => s
  | some l =>
    let mine (f : Flight) : Bool := match f.wait with | some a => a / 128 == line | none => false
    match x.flight.find? (fun f => mine f && l.poison.getLsbD ((f.wait.getD 0) % 128 / 64)) with
    | some _ => s.missFailed e
    | none =>
      s.setEngine e ({ x with
        flight := x.flight.map (fun f => if mine f then
          { f with val := ((l.data >>> (8 * ((f.wait.getD 0) % 128))).setWidth 32).setWidth 64, wait := none } else f),
        miss := x.miss.filter (fun m => decide (m.line ≠ line)) }).repaid

/-- DRAM_CACHE_FILL (R167): the first missed line arrives; a line that cannot be had ends the job (R169, R218, R291). -/
def execDramCacheFill (e : Fin 128) (s : State) : Host.Outcome State Fault Refusal :=
  let n := e.val
  .next <|
    match (s.engine n).job.orElse (fun _ => (s.engine n).owed), (s.engine n).miss with
    | some j, ⟨line, slot, b⟩ :: _ =>
      match s.space (BitVec.ofNat 64 (line * 128)) with
      | .mem la l =>
        let k := la / 128 % 2
        match s.ncRead la l (3#4 <<< (2 * k)) j.tid j.c0 (.engineCache e) with
        | (.done f, s) =>
          let x := s.engine n
          let d : BitVec 1024 := (f.data >>> (1024 * k)).setWidth 1024
          let s := s.setEngine n (x.ecFill line d ((f.ue >>> (2 * k)).setWidth 2))
          let l := ((s.engine n).ecFind line).getD ⟨0, line, 0, 0⟩
          ((List.range 16).foldl (fun s i => s.arrWrite (seTarget n) (seSub n 3) (ecWord l i)) s).ecResolve n line
        | (.noMemory, s) => (s.noMemory j.tid (BitVec.ofNat 64 (line * 128))).missError n slot b
        | (.withdrawn, s) => s.missFailed n
        | (.held, s) => s
      | .nothing => (s.noMemory j.tid (BitVec.ofNat 64 (line * 128))).missError n slot b
      | _ => s.missError n slot b
    | _, _ => s

end Sys2Proof.Machine
end

