-- ==== Sys2Proof/Machine/Ethernet.lean ====
section
/-! DEFINITION. Ethernet ports: their queues and descriptors (R312 to R314). -/
namespace Sys2Proof.Machine

/-- An enabled Ethernet link whose lane 0 is p (R301, R312). -/
def State.ethPort (s : State) (p : Nat) : Bool :=
  s.live && s.domOn (71 + p / 12) && decide (s.lane0 p = p) && s.pfld F.LE_PORTCFG_PERS p == 2 && s.pfld F.LE_PORTCFG_EN p == 1
    && s.lanesFit p

/-- The index of queue q of a port among its link engine's queues. -/
def ethIdx (p q : Nat) : Nat := 16 * (p % 4) + q

/-- The descriptors of a ring. -/
def State.ethRing (s : State) (p q : Nat) : Nat := 2 ^ (s.fld F.LE_ETHQCTL_LOGN (p / 4) (ethIdx p q) + 6)

def State.ethTid (s : State) (p q : Nat) : Nat := s.fld F.LE_ETHQCTL_TID (p / 4) (ethIdx p q)

/-- A queue is enabled and the hardware owns a descriptor of it. -/
def State.ethOwns (s : State) (p q : Nat) : Bool :=
  s.flag F.LE_ETHQCTL_EN (p / 4) (ethIdx p q) && !s.held (s.ethTid p q)
    && decide (s.fld F.LE_ETHQPTR_HEAD (p / 4) (ethIdx p q) ≠ s.fld F.LE_ETHQPTR_TAIL (p / 4) (ethIdx p q))

/-- The address of the head descriptor. -/
def State.ethDesc (s : State) (p q : Nat) : Nat :=
  s.fld F.LE_ETHQBASE_BASE (p / 4) (ethIdx p q) * 4096 + 32 * (s.fld F.LE_ETHQPTR_HEAD (p / 4) (ethIdx p q) % s.ethRing p q)

/-- The head descriptor of a queue goes into work. -/
def State.ethTake (s : State) (p q : Nat) : EthWork := ⟨q, s.ethDesc p q, s.ethTid p q⟩

/-- Port data of n bytes of a queue's frame is charged (R357, R358). -/
def State.chargePort (s : State) (tid n : Nat) : State := s.charge tid 13 ((n + 63) / 64) false

/-- The speed of a link in Gb/s: its lane rate of 100 or 200 Gb/s, times its lanes (R312). -/
def State.ethGb (s : State) (p : Nat) : Nat := 100 * s.pfld F.LE_PORTCFG_RATE p * s.bondLanes p

/-- HEAD moves on. -/
def State.ethAdvance (s : State) (p q : Nat) : State :=
  s.setFld F.LE_ETHQPTR_HEAD ((s.fld F.LE_ETHQPTR_HEAD (p / 4) (ethIdx p q) + 1) % s.ethRing p q) (p / 4) (ethIdx p q)

/-! ### Memory accesses of a queue -/

/-- The words a port has read for its receive or transmit work. -/
def State.ethGot (s : State) (p : Nat) (tx : Bool) : SMap (Option Word) := if tx then (s.port p).txGot else (s.port p).rxGot

def State.setEthGot (s : State) (p : Nat) (tx : Bool) (g : SMap (Option Word)) : State :=
  s.setPort p (if tx then { s.port p with txGot := g } else { s.port p with rxGot := g })

/-- Eight words from a granule's address, or its failure. -/
def State.ethKeep (s : State) (p : Nat) (tx : Bool) (ga : Nat) (ws : Option (List Word)) : State :=
  s.setEthGot p tx ((List.range 8).foldl (fun g i => mput g (ga / 64 * 8 + i) (ws.map (fun l => (l[i]?).getD 0))) (s.ethGot p tx))

/-- A read of the granule is under way over the fabric. -/
def State.ethAsked (s : State) (p : Nat) (tx : Bool) (ga : Nat) : Bool :=
  let mine (r : FabReq) : Bool :=
    decide (r.src = .eth (Fin.ofNat 144 p) tx ∧ r.op = .readReq) && r.dst.toNat * 2 ^ 52 + r.addr.toNat == ga / 64 * 64
  s.fabric.outs.any (fun o => mine o.req)

/-- The granule of an address is read, from local memory at once, from fabric memory by a request. -/
def State.ethFetch (s : State) (p : Nat) (tx : Bool) (tid ga : Nat) : State :=
  let g := ga / 64 * 64
  let src : ReqSrc := .eth (Fin.ofNat 144 p) tx
  match s.space (BitVec.ofNat 64 g) with
  | .mem la l =>
    let j := la / 64 % 4
    match s.ncRead la l (1#4 <<< j) tid false src with
    | (.done f, s) =>
      s.ethKeep p tx g (if f.ue = 0 then some ((List.range 8).map (fun i => (f.data >>> (512 * j + 64 * i)).setWidth 64)) else none)
    | (.noMemory, s) => (s.noMemory tid (BitVec.ofNat 64 g)).ethKeep p tx g none
    | (.withdrawn, s) => s.ethKeep p tx g none
    | (.held, s) => s
  | .fabric node la =>
    if s.ethAsked p tx g then s
    else
      let r : FabReq := ⟨src, BitVec.ofNat 12 node, BitVec.ofNat 52 la, Fin.ofNat 1024 tid, .readReq, false, false, 0, 64, 0, []⟩
      match s.issue r with
      | (some _, s) => s.ethKeep p tx g none
      | (none, s) => s
  | .nothing => (s.noMemory tid (BitVec.ofNat 64 g)).ethKeep p tx g none
  | .ctl _ => s.ethKeep p tx g none

/-- n bytes from an address. -/
inductive EthRead where
  | got (x : Nat)
  | failed
  | wait
deriving DecidableEq, Repr

def State.ethRead (s : State) (p : Nat) (tx : Bool) (tid ga n : Nat) : EthRead × State :=
  let first := ga / 8
  let count := (ga + n - 1) / 8 + 1 - first
  let s := (List.range count).foldl (fun s i =>
    if (mget (s.ethGot p tx) (first + i)).isSome then s else s.ethFetch p tx tid (8 * (first + i))) s
  let ws := (List.range count).map (fun i => mget (s.ethGot p tx) (first + i))
  if ws.any (fun w => w.isNone) then (.wait, s)
  else if ws.any (fun w => decide (w = some none)) then (.failed, s)
  else
    let x := packed 64 (ws.map (fun w => ((w.getD none).getD 0).toNat))
    (.got (x / 2 ^ (8 * (ga % 8)) % 2 ^ (8 * n)), s)

/-- n bytes are written from an address; a fabric write is posted. The answer: every local piece was taken. -/
def State.ethWrite (s : State) (p : Nat) (tx : Bool) (tid ga n x : Nat) : Bool × State :=
  let src : ReqSrc := .eth (Fin.ofNat 144 p) tx
  (piecesOf 256 ga n).foldl (fun (acc : Bool × State) pc =>
    let (ok, s) := acc
    let (a, m) := pc
    let part := x / 2 ^ (8 * (a - ga)) % 2 ^ (8 * m)
    match s.space (BitVec.ofNat 64 a) with
    | .mem la l =>
      let off := la % 256
      let mask : BitVec 256 := ((BitVec.allOnes m).setWidth 256) <<< off
      match s.ncWrite la l mask (BitVec.ofNat 2048 part <<< (8 * off)) 0 tid false src with
      | (.done _, s) => (ok, s)
      | (.held, s) => (ok, s)
      | (.noMemory, s) => (false, s.noMemory tid (BitVec.ofNat 64 a))
      | (.withdrawn, s) => (false, s)
    | .fabric node la =>
      let ws := (pieces 64 ((m + 7) / 8) part).map (fun k => BitVec.ofNat 64 k)
      let r : FabReq := ⟨src, BitVec.ofNat 12 node, BitVec.ofNat 52 la, Fin.ofNat 1024 tid, .write, false, false, 0,
        BitVec.ofNat 13 m, 0, ws⟩
      match s.issue r with
      | (some _, s) => (false, s)
      | (none, s) => (ok, s)
    | .nothing => (false, s.noMemory tid (BitVec.ofNat 64 a))
    | .ctl _ => (false, s)) (true, s)

/-! ### Receive (R313, R314) -/

/-- A frame's bytes as one number. -/
def frameNat (f : EthFrame) : Nat := packed 64 (f.bytes.map (fun w => w.toNat))

/-- A frame is dropped. -/
def State.ethDrop (s : State) (p : Nat) : State := s.bump .LE_PORTDROPCNT (p / 4) (p % 4)

/-- The write-back of word 1 of a descriptor: LEN stays. -/
def ethBack (old rxlen pcp prot err : Nat) : Nat :=
  old % 2 ^ 14 + rxlen * 2 ^ 16 + 2 ^ 32 + pcp * 2 ^ 33 + prot * 2 ^ 36 + err * 2 ^ 37

/-- The frame in work is written to the descriptor it has taken, or dropped; the answer: it is finished. -/
def State.ethPut (s : State) (p : Nat) (f : EthFrame) (rest : List (Nat × EthFrame)) (k : EthWork) : Bool × State :=
  let done (s : State) : Bool × State := (true, s.setPort p { s.port p with rxq := rest, rxAt := none, rxGot := [] })
  match s.ethRead p false k.tid k.desc 16 with
  | (.wait, s) => (false, s)
  | (.failed, s) => done (s.ethDrop p)
  | (.got x, s) =>
    let len := x / 2 ^ 64 % 2 ^ 14
    if len < f.len.toNat then done (s.ethDrop p)
    else match s.ethWrite p false k.tid (x % 2 ^ 64) f.len.toNat (frameNat f) with
      | (false, s) => done (s.ethDrop p)
      | (true, s) =>
        let w := ethBack (x / 2 ^ 64) f.len.toNat k.queue (b2n f.prot) 0
        done ((s.ethWrite p false k.tid (k.desc + 8) 8 w).2.ethAdvance p k.queue)

/-- The first frame that waits takes its queue's head descriptor, which it keeps though the queue be disabled meanwhile
(R328), and is written there, or is dropped; the answer: it is finished. No frame is taken up while a microcode switch
holds the port (R324). -/
def State.ethRx (s : State) (p : Nat) : Bool × State :=
  match (s.port p).rxq with
  | [] => (false, s)
  | (q, f) :: rest =>
    match (s.port p).rxAt with
    | some k => s.ethPut p f rest k
    | none =>
      if s.portHeld p then (false, s)
      else
        let s := s.chargePort (s.ethTid p q) f.len.toNat
        if !s.ethOwns p q then (true, (s.ethDrop p).setPort p { (s.ethDrop p).port p with rxq := rest })
        else
          let k := s.ethTake p q
          (s.setPort p { s.port p with rxAt := some k }).ethPut p f rest k

/-- Frames that wait are taken in their order until one must wait for memory. -/
def State.ethRxAll (s : State) (p fuel : Nat) : State :=
  match fuel with
  | 0 => s
  | n + 1 => match s.ethRx p with
    | (true, s) => s.ethRxAll p n
    | (false, s) => s

/-- A priority pause frame (IEEE 802.1Qbb): opcode 0x0101 of MAC control; its class-enable bits and times. -/
def pfcOf (f : EthFrame) : Option (Nat × List Nat) :=
  let x := frameNat f
  let byte (i : Nat) : Nat := x / 2 ^ (8 * i) % 256
  if byte 12 = 0x88 ∧ byte 13 = 0x08 ∧ byte 14 = 0x01 ∧ byte 15 = 0x01 then
    some (byte 17, (List.range 8).map (fun i => 256 * byte (18 + 2 * i) + byte (19 + 2 * i)))
  else none

/-- The pauses of the priorities after a pause frame: each time counts quanta of 512 bit times of the link, of Gb/s. -/
def pauseTimes (old : SMap Nat) (en : Nat) (times : List Nat) (gb : Nat) : SMap Nat :=
  (List.range 8).foldl (fun b i => if en.testBit i then mset b i (512000 * (times[i]?).getD 0 / gb) 0 else b) old

/-- ETHERNET_FRAME_RECEIVE (R312, R313). -/
def execEthernetFrameReceive (p : Fin 144) (f : EthFrame) (s : State) : Host.Outcome State Fault Refusal :=
  let n := p.val
  .next <|
    if !s.ethPort n then s
    else if !f.checksOk ∨ f.len.toNat < 60 ∨ 9212 < f.len.toNat then s.ethDrop n
    else if s.pfld F.LE_PORTCFG_MACSEC n = 1 ∧ !f.prot then s.ethDrop n
    else match pfcOf f with
      | some (en, times) => s.setPort n { s.port n with paused := pauseTimes (s.port n).paused en times (s.ethGb n) }
      | none =>
          let q := match f.pcp with | some c => c.val | none => s.pfld F.LE_PORTCFG_DEFQ n
          let s := s.setPort n { s.port n with rxq := (s.port n).rxq ++ [(q, f)] }
          s.ethRxAll n ((s.port n).rxq.length)

/-! ### Transmit -/

/-- The queue that is served next: the highest that owns a descriptor and is not paused (R313). -/
def State.ethNext (s : State) (p : Nat) : Option Nat :=
  [15, 14, 13, 12, 11, 10, 9, 8].find? (fun q => s.ethOwns p q && decide (mgetD (s.port p).paused (q - 8) 0 = 0))

/-- A frame goes out (R312): protected by MACsec where the link holds an association key, of which the key agreement's
choice is free (entry 157), and with its FCS. -/
def State.ethEmit (s : State) (p len y : Nat) : State :=
  let x := s.port p
  let go (s : State) (len y : Nat) : State :=
    s.emit (.eth p len ((pieces 64 ((len + 7) / 8) y).map (fun k => BitVec.ofNat 64 k)) (BitVec.ofNat 32 (crc32 (8 * len) y)))
  if x.sak.isEmpty then go s len y
  else
    let (d, s) := s.draw
    match x.sak[d.toNat % x.sak.length]? with
    | none => go s len y
    | some (an, key) =>
      let r := Config.macsec key an x.macSent len y
      go (s.setPort p { x with macSent := x.macSent + 1 }) r.1 r.2

/-- The descriptor in work is sent, or fails; or its memory has yet to answer. -/
def State.ethTx (s : State) (p : Nat) : State :=
  match (s.port p).txq with
  | none => s
  | some k =>
    let tid := k.tid
    let fin (s : State) (old err : Nat) : State :=
      let s := (s.ethWrite p true tid (k.desc + 8) 8 (ethBack old 0 0 0 err)).2.ethAdvance p k.queue
      s.setPort p { s.port p with txq := none, txGot := [] }
    match s.ethRead p true tid k.desc 16 with
    | (.wait, s) => s
    | (.failed, s) => s.setPort p { s.port p with txq := none, txGot := [] }
    | (.got x, s) =>
      let len := x / 2 ^ 64 % 2 ^ 14
      if len < 60 ∨ 9212 < len then fin s (x / 2 ^ 64) 2
      else match s.ethRead p true tid (x % 2 ^ 64) len with
        | (.wait, s) => s
        | (.failed, s) => fin s (x / 2 ^ 64) 1
        | (.got y, s) => fin ((s.chargePort tid len).ethEmit p len y) (x / 2 ^ 64) 0

/-- ETHERNET_FRAME_TRANSMIT (R313, R314). -/
def execEthernetFrameTransmit (p : Fin 144) (s : State) : Host.Outcome State Fault Refusal :=
  let n := p.val
  .next <|
    if !s.ethPort n then s
    else match (s.port n).txq with
      | some _ => s.ethTx n
      | none => if s.portHeld n then s else match s.ethNext n with
        | none => s
        | some q => (s.setPort n { s.port n with txq := some (s.ethTake n q), txGot := [] }).ethTx n

/-! ### Memory answers -/

/-- Work that waited for memory goes on. -/
def State.ethResume (s : State) (p : Nat) (tx : Bool) : State :=
  if tx then s.ethTx p else s.ethRxAll p (s.port p).rxq.length

/-- A fabric read of a port is answered: its words, or its failure. -/
def State.ethData (s : State) (p : Nat) (tx : Bool) (ga : Nat) (ws : Option (List Word)) : State :=
  (s.ethKeep p tx ga ws).ethResume p tx

/-- Every port goes on after a freeze has ended. -/
def State.ethResumeAll (s : State) : State :=
  (s.ports.map (fun e => e.1)).foldl (fun s p => (s.ethResume p false).ethResume p true) s

end Sys2Proof.Machine
end

