-- ==== Sys2Proof/Machine/SigIsa.lean ====
section
/-! DEFINITION. The instructions of the signal engines: what each slot of a bundle does and how a bundle issues
(R193 to R211). Each syllable command adds its syllable to the bundle that is about to issue; the last one issues it, with
the syllables that the active bank holds at the bundle's index for the slots no command filled (R190). -/
namespace Sys2Proof.Machine

/-! ### Results -/

/-- A result that becomes visible after some bundles. -/
def flyTo (dest : Dest) (lat v : Nat) : Flight := ⟨lat, dest, BitVec.ofNat 64 v, none⟩

/-- The results of a slot, and the saturation flags it raises (ASAT bit 0, DSAT bit 1). -/
abbrev SlotOut := List Flight × Nat

/-- SFLAG bits. -/
def asat (b : Bool) : Nat := b2n b
def dsat (b : Bool) : Nat := 2 * b2n b

/-- Flag sets of two parts of a slot. -/
def orFlags (a b : Nat) : Nat := a ||| b

/-! ### M slots (R195, R200, R201) -/

/-- An accumulator as left by the most recent earlier write to it (R195). -/
def Engine.accNow (x : Engine) (r : Nat) : Int :=
  match (x.flight.filter (fun f => decide (f.dest = .a r))).getLast? with
  | some f => accInt (f.val.setWidth 56)
  | none => accInt (x.rd_a r)

/-- A sum goes to an accumulator. -/
def toAcc (r : Nat) (v : Int) : SlotOut :=
  let q := sat56 v
  ([flyTo (.a r) 2 (encInt 56 q.1)], asat q.2)

/-- An exact value goes to a d register, rounded by a right shift and brought into range (R202). -/
def Engine.toSample (x : Engine) (r lat : Nat) (v : Int) (k : Nat) : SlotOut :=
  let q := fitSample (decide (x.locFld 0x0D 2 2 = 1)) (roundShift (x.locFld 0x0D 1 0) v k)
  ([flyTo (.d r) lat q.1], dsat q.2)

def bothOut (a b : SlotOut) : SlotOut := (a.1 ++ b.1, orFlags a.2 b.2)

/-- A syllable of an M slot. -/
def Engine.macSlot (x : Engine) (op : Nat) (w : Syl) : SlotOut :=
  let a := sylFld w 25 23
  let rx := sylFld w 22 18
  let ry := sylFld w 17 13
  let rz := sylFld w 12 8
  let rw := sylFld w 7 3
  let sum := x.smp rx * x.smp ry + x.smp rz * x.smp rw
  let c (conj : Bool) := cmul conj (x.smp rx) (x.smp (rx + 1)) (x.smp ry) (x.smp (ry + 1))
  match op with
  | 0x01 => toAcc a (x.accNow a + sum)
  | 0x02 => toAcc a (x.accNow a - sum)
  | 0x03 => toAcc a sum
  | 0x04 => bothOut (toAcc a (x.accNow a + (c false).1)) (toAcc (a + 1) (x.accNow (a + 1) + (c false).2))
  | 0x05 => bothOut (toAcc a (x.accNow a + (c true).1)) (toAcc (a + 1) (x.accNow (a + 1) + (c true).2))
  | 0x06 => bothOut (toAcc a (c false).1) (toAcc (a + 1) (c false).2)
  | 0x07 => bothOut (x.toSample rz 2 (c false).1 23) (x.toSample (rz + 1) 2 (c false).2 23)
  | _ => ([], 0)

/-- Real MACs of a syllable (R357). -/
def macCount (op : Nat) : Nat := if op ≤ 3 then 2 else if op ≤ 7 then 4 else 0

/-! ### Slot A (R202) -/

/-- A syllable of slot A. -/
def Engine.arSlot (x : Engine) (op : Nat) (w : Syl) : SlotOut :=
  let rd := sylFld w 25 21
  let rs := sylFld w 20 16
  let rt := sylFld w 15 11
  let bits (n : Nat) : SlotOut := ([flyTo (.d rd) 1 n], 0)
  let s24 (r : Nat) : Nat := (x.rd_d r).toNat % 2 ^ 24
  match op with
  | 0x01 => x.toSample rd 1 (x.smp rs + x.smp rt) 0
  | 0x02 => x.toSample rd 1 (x.smp rs - x.smp rt) 0
  | 0x03 => x.toSample rd 1 (-x.smp rs) 0
  | 0x04 => x.toSample rd 1 (if x.smp rs < 0 then -x.smp rs else x.smp rs) 0
  | 0x05 => bits (s24 rs &&& s24 rt)
  | 0x06 => bits (s24 rs ||| s24 rt)
  | 0x07 => bits (s24 rs ^^^ s24 rt)
  | 0x08 => x.toSample rd 1 (x.smp rs * 2 ^ sylFld w 4 0) 0
  | 0x09 => bits (encInt 24 (x.smp rs / 2 ^ sylFld w 4 0))
  | 0x0A => bits (if x.smp rs ≤ x.smp rt then s24 rs else s24 rt)
  | 0x0B => bits (if x.smp rs ≤ x.smp rt then s24 rt else s24 rs)
  | 0x0C => bits (s24 rs)
  | 0x0D => bits (encInt 24 (sexNat 16 (sylFld w 20 5)))
  | 0x0E => bits (sylFld w 12 5 * 2 ^ 16 + s24 rd % 2 ^ 16)
  | 0x10 => x.toSample rd 1 (accInt (x.rd_a rs)) (23 + sylFld w 3 0)
  | 0x11 => ([flyTo (.a (rd % 8)) 2 (encInt 56 (x.smp rs * 2 ^ 23))], 0)
  | 0x12 => ([flyTo (.a (rd % 8)) 2 0], 0)
  | 0x13 =>
    let k := sylFld w 0 0
    bothOut (bothOut (x.toSample rd 1 (x.smp rs + x.smp rt) k) (x.toSample (rd + 1) 1 (x.smp (rs + 1) + x.smp (rt + 1)) k))
      (bothOut (x.toSample (rd + 2) 1 (x.smp rs - x.smp rt) k) (x.toSample (rd + 3) 1 (x.smp (rs + 1) - x.smp (rt + 1)) k))
  | _ => ([], 0)

/-! ### Memory slots (R203, R204) -/

/-- A memory opcode that stores. -/
def memStore (op : Nat) : Bool := decide (9 ≤ op)

/-- The size of a memory access. -/
def memBytes (op : Nat) : Nat := match op with | 2 => 8 | 10 => 8 | 3 => 16 | 11 => 16 | _ => 4

/-- The global address of a DRAM pointer. -/
def dramAddr (wins : List Word) (p : BitVec 32) : Nat :=
  getBits (wins.getD (p.toNat / 2 ^ 29 % 4) 0) 51 0 * 4096 + p.toNat % 2 ^ 29

/-- The fault of an access, in the order of R211. -/
def State.accessFault (s : State) (x : Engine) (wins : List Word) (op : Nat) (w : Syl) : Option Nat :=
  let p := x.rd_p (sylFld w 20 17)
  let dram := p.msb
  let n := memBytes op
  let win := wins.getD (p.toNat / 2 ^ 29 % 4) 0
  let a := if dram then dramAddr wins p else p.toNat % 2 ^ 18
  if dram && (memStore op || decide (2 ≤ sylFld w 12 11)) then some 8
  else if !dram && decide (p.toNat / 2 ^ 18 % 2 ^ 13 ≠ 0) then some 5
  else if a % n ≠ 0 then some 4
  else if dram && !(bitOf win 59 && decide (p.toNat % 2 ^ 29 + n ≤ 2 ^ getBits win 57 52)) then some 6
  else if dram && !(match s.space (BitVec.ofNat 64 a) with | .mem _ _ => true | _ => false) then some 7
  else none

/-- An access to no memory is counted (R218). -/
def State.seNoMemory (s : State) (x : Engine) (j : Job) (w : Syl) : State :=
  let a := BitVec.ofNat 64 (dramAddr j.wins (x.rd_p (sylFld w 20 17)))
  match s.space a with
  | .nothing => s.noMemory j.tid a
  | _ => s

/-- The post-modify of a memory syllable (R204). -/
def Engine.postModify (x : Engine) (w : Syl) : List Flight :=
  let mode := sylFld w 12 11
  let cb := sylFld w 10 9
  let r := sylFld w 20 17
  if mode = 0 then []
  else [flyTo (.p r) 1 (nextPtr mode (x.rd_p r) (x.rd_m (sylFld w 16 13)) (x.locRd (0x18 + cb)) (x.locRd (0x1C + cb))).toNat]

/-- Where the i-th word of a load lands. -/
def loadDest (op r i : Nat) : Dest :=
  if op = 4 then .p (r % 16) else if op = 5 then .m (r % 16) else .d (r + i)

/-- What a load gives: its results and the lines it missed; none where it read poison. -/
abbrev LoadOut := Option (List Flight × List Miss)

/-- A line joins the missed ones, under the slot that missed it first. -/
def addMiss (ms : List Miss) (m : Miss) : List Miss := if ms.any (fun k => k.line == m.line) then ms else ms ++ [m]

/-- A load of a slot from data memory or through the DRAM cache, word by word. -/
def State.seLoad (s : State) (e : Nat) (x : Engine) (j : Job) (sl : Slot) (op : Nat) (w : Syl) : LoadOut × State :=
  let p := x.rd_p (sylFld w 20 17)
  let r := sylFld w 25 21
  (List.range (memBytes op / 4)).foldl (fun (acc : LoadOut × State) i =>
    match acc with
    | (none, s) => (none, s)
    | (some (fs, ms), s) =>
      if p.msb then
        let a := dramAddr j.wins p + 4 * i
        match s.ecRead e a j.tid with
        | (.hit v, s) => (some (fs ++ [flyTo (loadDest op r i) 3 v.toNat], ms), s)
        | (.poisoned, s) => (none, s)
        | (.miss, s) => (some (fs ++ [⟨3, loadDest op r i, 0, some a⟩], addMiss ms ⟨a / 128, slotIdx sl, x.pc⟩), s)
      else
        let a := p.toNat % 2 ^ 18 + 4 * i
        let (bad, v, s) := s.dmemRead e (a / 8) j.tid
        if bad then (none, s)
        else (some (fs ++ [flyTo (loadDest op r i) 3 (getBits v (32 * (a / 4 % 2) + 31) (32 * (a / 4 % 2)))], ms), s))
    (some ([], []), s)

/-- A store to data memory: whole granules, or half of one. -/
def State.seStore (s : State) (e : Nat) (x : Engine) (j : Job) (op : Nat) (w : Syl) : State :=
  let a := (x.rd_p (sylFld w 20 17)).toNat % 2 ^ 18
  let r := sylFld w 25 21
  let pair (s : State) (i : Nat) : State :=
    s.dmemWrite e (a / 8 + i) (BitVec.ofNat 64 ((x.rd_d (r + 2 * i)).toNat + (x.rd_d (r + 2 * i + 1)).toNat * 2 ^ 32)) false
  match op with
  | 0x09 => s.dmemHalf e a (x.rd_d r) j.tid
  | 0x0A => pair s 0
  | 0x0B => pair (pair s 0) 1
  | 0x0C => s.dmemHalf e a (x.rd_p r) j.tid
  | _ => s.dmemHalf e a (x.rd_m r) j.tid

/-! ### Slot B -/

/-- Whether a branch is taken. -/
def Engine.taken (x : Engine) (op : Nat) (w : Syl) : Bool :=
  let rs := sylFld w 24 20
  let rt := sylFld w 19 15
  match op with
  | 1 => true
  | 2 => decide (x.smp rs = x.smp rt)
  | 3 => decide (x.smp rs ≠ x.smp rt)
  | 4 => decide (x.smp rs < x.smp rt)
  | 5 => decide (x.smp rt ≤ x.smp rs)
  | 6 => decide (x.rd_p rs = x.rd_p rt)
  | _ => decide (x.rd_p rs ≠ x.rd_p rt)

/-- The count of a LOOP or LOOPI. -/
def Engine.loopCount (x : Engine) (op : Nat) (w : Syl) : Nat :=
  if op = 8 then (x.rd_d (sylFld w 24 20)).toNat % 2 ^ 24 else sylFld w 24 13

/-- The engine-block register that RDX or WRX names: its register, block and index. -/
def seReg (e : Nat) (w : Syl) : Option (Reg × Nat × Nat) :=
  match regAt (Reg.SE_STAT.off e 0 + 8 * (sylFld w 20 11 % 128)) with
  | some (r, b, i) => if r.row.win = .se ∧ b = e then some (r, b, i) else none
  | none => none

/-- The registers that WRX may write (R211). -/
def wrxOk (r : Reg) : Bool :=
  decide (r = .SE_DMASRC ∨ r = .SE_DMADST ∨ r = .SE_DMASHAPE ∨ r = .SE_DMACTL)

/-- The run-time fault of slot B (R206, R211, R212). -/
def Engine.bFault (x : Engine) (e op : Nat) (w : Syl) : Option Nat :=
  let idx := sylFld w 20 11 / 16
  match op with
  | 0x08 => if x.locFld 0x0C 1 0 = 3 ∨ x.locFld 0x0C 2 2 = 1 ∨ sylFld w 10 0 < x.pc + 1 then some 9 else none
  | 0x09 => if x.locFld 0x0C 1 0 = 3 ∨ x.locFld 0x0C 2 2 = 1 ∨ sylFld w 10 0 < x.pc + 1 then some 9 else none
  | 0x14 => if (locMask idx).isNone then some 11 else none
  | 0x15 =>
    if (locMask idx).isNone ∨ (idx = 0x0D ∧ (x.rd_p (sylFld w 25 21)).toNat % 4 = 3) then some 11 else none
  | 0x16 => if (seReg e w).isNone then some 10 else none
  | 0x17 => match seReg e w with
    | some (r, _, _) => if wrxOk r then none else some 10
    | none => some 10
  | _ => none

/-- Slot B holds issue: EVWAIT and EVTAKE for their event, JEND for the DMA channels (R175, R207). -/
def State.bHolds (s : State) (e op : Nat) (w : Syl) : Bool :=
  let src := sylFld w 20 11
  match op with
  | 0x18 => decide (s.evPend e &&& sylFld w 19 0 = 0)
  | 0x19 => !(s.evPend e).testBit (src / 32 % 8 + 8 * (src / 256))
  | 0x1A => !s.dmaIdle e
  | _ => false

/-- The head of a capture FIFO is taken. -/
def State.popCapture (s : State) (e k : Nat) : Option CapEnt × State :=
  let g := s.group (e / 8)
  match mgetD g.fifo k [] with
  | [] => (none, s)
  | c :: rest => (some c, s.setGroup (e / 8) { g with fifo := mset g.fifo k rest [] })

/-- An engine-block register as RDX reads it. -/
def State.rdx (s : State) (e : Nat) (r : Reg) (b i : Nat) : Word :=
  if r = .SE_EVPEND then BitVec.ofNat 64 (s.evPend e) else s.rd r b i

/-- A register's value after WRX. -/
def State.wrx (s : State) (e : Nat) (r : Reg) (i : Nat) (v : Word) : State :=
  if r = .SE_DMACTL then s.actDmaCtl (sgStop (e / 8)) e i v else s.wr r v e i

/-- What slot B does but for control flow: its results, and the state after it. -/
def State.bSlot (s : State) (e : Nat) (x : Engine) (op : Nat) (w : Syl) : List Flight × State :=
  let rd := sylFld w 25 21
  let src := sylFld w 20 11
  let imm := sylFld w 20 5
  match op with
  | 0x10 => ([flyTo (.p rd) 1 ((x.rd_p rd).toNat / 2 ^ 16 * 2 ^ 16 + imm)], s)
  | 0x11 => ([flyTo (.p rd) 1 (imm * 2 ^ 16 + (x.rd_p rd).toNat % 2 ^ 16)], s)
  | 0x12 => ([flyTo (.m rd) 1 (encInt 32 (sexNat 16 imm))], s)
  | 0x13 => ([flyTo (.p rd) 1 (x.rd_p (src / 64) + x.rd_m (src / 2)).toNat], s)
  | 0x14 => ([flyTo (.p rd) 1 (x.locRd (src / 16)).toNat], s)
  | 0x15 => ([flyTo (.loc (src / 16)) 1 ((x.rd_p rd).toNat &&& (locMask (src / 16)).getD 0)], s)
  | 0x16 => match seReg e w with
    | some (r, b, i) =>
      let v := s.rdx e r b i
      ([flyTo (.p rd) 1 (getBits v 31 0), flyTo (.p (rd + 1)) 1 (getBits v 63 32)],
       if r = .SE_JOBCNT then s.wr .SE_JOBCNT 0 e else s)
    | none => ([], s)
  | 0x17 => match seReg e w with
    | some (r, _, i) => ([], s.wrx e r i (BitVec.ofNat 64 ((x.rd_p rd).toNat + (x.rd_p (rd + 1)).toNat * 2 ^ 32)))
    | none => ([], s)
  | 0x19 =>
    if src / 256 = 1 then
      match s.popCapture e (src / 32 % 8) with
      | (some c, s) => ([flyTo (.p rd) 1 c.frame.toNat, flyTo (.p (rd + 1)) 1 (c.cycle.toNat + b2n c.rise * 2 ^ 16)], s)
      | (none, s) => ([], s)
    else ([], s.clearEvent e (src / 32 % 8 + 8 * (src / 256)))
  | _ => ([], s)

/-! ### The next bundle (R206) -/

/-- Loops that end at bundle i: fuel is the number of levels left to look at. -/
def seqLoop (fuel : Nat) (x : Engine) (i : Nat) : Nat × Engine :=
  match fuel with
  | 0 => ((i + 1) % 2048, x)
  | n + 1 =>
    let d := x.locFld 0x0C 1 0
    if x.locFld 0x0C 2 2 = 0 ∧ d ≠ 0 ∧ x.locFld (0x04 + (d - 1)) 10 0 = i then
      let c := x.locFld (0x08 + (d - 1)) 23 0
      if 1 < c then (x.locFld (d - 1) 10 0, x.locWr (0x08 + (d - 1)) (BitVec.ofNat 32 (c - 1)))
      else seqLoop n ((x.locWr (0x08 + (d - 1)) 0).locWr 0x0C (BitVec.ofNat 32 (d - 1))) i
    else ((i + 1) % 2048, x)

/-- seq(i). -/
def Engine.seq (x : Engine) (i : Nat) : Nat × Engine := seqLoop 3 x i

/-- A new loop is captured anew (R165). -/
def Engine.emptyLoopBuffer (x : Engine) : Engine := { x with lbuf := [] }

/-- A loop starts (R206); a count of 0 starts none. -/
def Engine.loopStart (x : Engine) (op : Nat) (w : Syl) : Engine :=
  let k := x.locFld 0x0C 1 0
  let n := x.loopCount op w
  if n = 0 then x
  else (((x.locWr k (BitVec.ofNat 32 (x.pc + 1))).locWr (0x04 + k) (BitVec.ofNat 32 (sylFld w 10 0))).locWr (0x08 + k)
    (BitVec.ofNat 32 n)).locWr 0x0C (x.locRd 0x0C + 1) |>.emptyLoopBuffer

/-- The bundle after the one that issues; b is its slot B where it takes effect. -/
def Engine.goOn (x : Engine) (b : Option (Nat × Syl)) : Engine :=
  let (op, w) := b.getD (0, 0)
  if 0 < x.slots then
    let (n, x) := x.seq x.pc
    if x.slots = 1 then { x with slots := 0, pc := x.redirect.getD n, redirect := none, annul := false }
    else { x with slots := x.slots - 1, pc := n }
  else if 1 ≤ op ∧ op ≤ 7 then
    let t := x.taken op w
    let (n, x) := x.seq x.pc
    { x with redirect := if t then some (sylFld w 10 0) else none, annul := !t && decide (sylFld w 25 25 = 1),
             slots := 2, pc := n }
  else if op = 8 ∨ op = 9 then
    let none := decide (x.loopCount op w = 0)
    let x := x.loopStart op w
    if none then { x with pc := (sylFld w 10 0 + 1) % 2048 }
    else
      let (n, x) := x.seq x.pc
      { x with pc := n }
  else
    let (n, x) := x.seq x.pc
    { x with pc := n }

/-! ### Issue -/

/-- A bundle's syllable in a slot. -/
def Engine.syl (x : Engine) (sl : Slot) : Option (Nat × Syl) :=
  (x.bundle.find? (fun b => decide (b.1 = sl))).map (fun b => (b.2.1.toNat, b.2.2))

/-- The slots in their order (R190). -/
def slotOrder : List Slot := [.ld0, .ls1, .m0, .m1, .m2, .m3, .a, .b]

/-- The first decode error, pairing error, or control syllable in a delay slot: cause and slot (R211). -/
def Engine.decodeFault (x : Engine) : Option (Nat × Nat) :=
  let op (sl : Slot) : Nat := match x.syl sl with | some (o, _) => o | none => 0
  let pair (m n : Slot) : Option (Nat × Nat) :=
    if isComplex (op m) && decide (op n ≠ 0x3F) then some (3, slotIdx m)
    else if !isComplex (op m) && decide (op n = 0x3F) then some (3, slotIdx n)
    else none
  match slotOrder.find? (fun sl => match x.syl sl with | some (o, w) => sylBad sl o w | none => false) with
  | some sl => some (1, slotIdx sl)
  | none =>
    match pair .m0 .m1, pair .m2 .m3 with
    | some f, _ => some f
    | none, some f => some f
    | none, none => if 0 < x.slots && isControl (op .b) then some (2, 7) else none

/-- The run-time fault of a bundle: cause and slot (R211). -/
def State.runFault (s : State) (e : Nat) (x : Engine) (wins : List Word) : Option (Nat × Nat) :=
  let mem (sl : Slot) : Option (Nat × Nat) :=
    match x.syl sl with
    | some (op, w) => (s.accessFault x wins op w).map (fun c => (c, slotIdx sl))
    | none => none
  match mem .ld0, mem .ls1 with
  | some f, _ => some f
  | none, some f => some f
  | none, none => match x.syl .b with
    | some (op, w) => (x.bFault e op w).map (fun c => (c, 7))
    | none => none

/-- The bundle at pc is read from the active bank: whether a word is uncorrectable or poisoned (R415), and its 32 bytes
(R190). -/
def State.bundleFetch (s : State) (e tid : Nat) : Bool × BitVec 256 × State :=
  let k := 1 + s.fld F.SE_STAT_ACTIVE e
  let n := 4 * (s.engine e).pc
  (List.range 4).foldl (fun (acc : Bool × BitVec 256 × State) i =>
    let (bad, v, s) := acc
    let (b, w, s) := s.progRead e k (n + i) tid
    (bad || b, v ||| (w.setWidth 256 <<< (64 * i)), s)) (false, 0, s)

/-- The body of the innermost loop, where the loop buffer serves it and the bundle at pc lies in it (R165, R206). -/
def Engine.loopBody (x : Engine) : Option (Nat × Nat) :=
  let d := x.locFld 0x0C 1 0
  let lo := x.locFld (d - 1) 10 0
  let hi := x.locFld (0x04 + (d - 1)) 10 0
  if d ≠ 0 ∧ x.locFld 0x0C 2 2 = 0 ∧ lo ≤ x.pc ∧ x.pc ≤ hi ∧ hi - lo < 64 then some (lo, hi) else none

/-- The bundle at pc, from the loop buffer once a pass has captured it, otherwise from program memory (R165). -/
def State.fetchBundle (s : State) (e tid : Nat) : Bool × BitVec 256 × State :=
  let x := s.engine e
  match x.loopBody with
  | none => s.bundleFetch e tid
  | some b =>
    let have_ := if x.lbody = b then x.lbuf else []
    match mget have_ x.pc with
    | some v => (false, v, s)
    | none =>
      let (bad, v, s) := s.bundleFetch e tid
      (bad, v, if bad then s else s.setEngine e { s.engine e with lbody := b, lbuf := mput have_ x.pc v })

/-- The bundle that issues (R190, R191): in each slot the syllable a command gave, else the bank's unless it is NOP. -/
def Engine.withBank (x : Engine) (v : BitVec 256) : Engine :=
  { x with bundle := slotOrder.filterMap (fun sl =>
      match x.bundle.find? (fun b => decide (b.1 = sl)) with
      | some b => some b
      | none =>
        let w : BitVec 32 := v.extractLsb' (32 * slotIdx sl) 32
        if w = 0 then none else some (sl, w.extractLsb' 26 6, w.setWidth 26)) }

/-- The loads of a bundle: LD0, then LS1 where it loads. -/
def State.bundleLoads (s : State) (e : Nat) (x : Engine) (j : Job) : LoadOut × State :=
  [Slot.ld0, Slot.ls1].foldl (fun (acc : LoadOut × State) sl =>
    match acc, x.syl sl with
    | (some (fs, ms), s), some (op, w) =>
      if memStore op then (some (fs ++ x.postModify w, ms), s)
      else match s.seLoad e x j sl op w with
        | (some (fs', ms'), s) => (some (fs ++ fs' ++ x.postModify w, ms'.foldl addMiss ms), s)
        | (none, s) => (none, s)
    | acc, _ => acc) (some ([], []), s)

/-- The data-memory granules that a slot's syllable touches: the first, and how many. -/
def Engine.slotGranules (x : Engine) (sl : Slot) : Nat × Nat :=
  match x.syl sl with
  | some (op, w) =>
    let p := x.rd_p (sylFld w 20 17)
    (p.toNat % 2 ^ 18 / 8, if p.msb then 0 else if memBytes op = 16 then 2 else 1)
  | none => (0, 0)

/-- The bank accesses of a bundle: one serves two reads of the same granule (R163). -/
def Engine.bankUses (x : Engine) : Nat :=
  let (a, n) := x.slotGranules .ld0
  let (b, m) := x.slotGranules .ls1
  let store := match x.syl .ls1 with | some (op, _) => memStore op | none => false
  n + m - (if store then 0 else min (a + n) (b + m) - max a b)

/-- The results and flags of the M slots and of slot A. -/
def Engine.alus (x : Engine) : SlotOut :=
  let m := [Slot.m0, Slot.m1, Slot.m2, Slot.m3].foldl (fun (acc : SlotOut) sl => match x.syl sl with
    | some (op, w) => bothOut acc (x.macSlot op w)
    | none => acc) ([], 0)
  match x.syl .a with
  | some (op, w) => bothOut m (x.arSlot op w)
  | none => m

/-- The bundle takes effect: loads read before the store writes (R196), results take flight, the pc moves on. -/
def State.bundleDo (s : State) (e : Nat) (j : Job) : State :=
  let x := s.engine e
  match s.bundleLoads e x j with
  | (none, s) => s.jobAbort e 7
  | (some (fs, ms), s) =>
    let s : State := match x.syl .ls1 with
      | some (op, w) => if memStore op then s.seStore e x j op w else s
      | none => s
    let alu := x.alus
    let (bs, s) : List Flight × State := match x.syl .b with
      | some (op, w) => s.bSlot e x op w
      | none => ([], s)
    let macs := [Slot.m0, Slot.m1, Slot.m2, Slot.m3].foldl (fun n sl => match x.syl sl with
      | some (op, _) => n + macCount op
      | none => n) 0
    let s := (s.chargeJob e j.tid 11 macs j.c0).chargeJob e j.tid 12 x.bankUses j.c0
    let y := s.engine e
    let y := { y with flight := x.flight ++ fs ++ alu.1 ++ bs, miss := ms }
    let y := y.locWr 0x0E (y.locRd 0x0E ||| BitVec.ofNat 32 alu.2)
    s.setEngine e ((y.goOn (x.syl .b)).advance alu.2)

/-- An annulled bundle, or an empty one: the results in flight come nearer and the pc moves on. -/
def State.bundleSkip (s : State) (e : Nat) : State :=
  s.setEngine e (((s.engine e).goOn none).advance 0)

/-- What IRET restores (R208). -/
def Engine.returned (x : Engine) : Engine :=
  { (x.locWr 0x0D (x.locRd 0x0D ||| 8)).locWr 0x0C (x.locRd 0x0C &&& 3) with pc := x.locFld 0x11 10 0 }

/-- A bundle without a decode error takes effect, is held, or ends its job. -/
def State.bundleGo (s : State) (e : Nat) (j : Job) : State :=
  let x := s.engine e
  let b := x.syl .b
  let held := match b with | some (op, w) => s.bHolds e op w | none => false
  if x.annul then
    let s := (s.chargeJob e j.tid 10 1 j.c0).bundleSkip e
    s.setEngine e { s.engine e with bundle := [], held := false }
  else
    let x := match b with
      | some (0x1B, _) => x.landAll
      | _ => x
    let s := s.setEngine e x
    match s.runFault e x j.wins with
    | some (c, sl) =>
      let s : State := if c = 7 then match x.syl (if sl = 0 then .ld0 else .ls1) with
        | some (_, w) => s.seNoMemory x j w
        | none => s
      else s
      s.progError e c sl x.pc
    | none =>
      if held then s.setEngine e { x with held := true }
      else
        let s := (s.chargeJob e j.tid 10 1 j.c0).bundleDo e j
        let y := s.engine e
        if y.job.isNone then s
        else
          let s := s.setEngine e { y with bundle := [], held := false }
          match b with
          | some (0x1A, _) => match (s.engine e).job with
            | some j => s.jobDone e j
            | none => s
          | some (0x1B, _) => s.setEngine e (s.engine e).returned
          | _ => s

/-- The fetched bundle is judged and goes on (R192, R211). -/
def State.issueFetched (s : State) (e : Nat) (j : Job) : State :=
  let x := s.engine e
  match x.decodeFault with
  | some (c, sl) => s.progError e c sl x.pc
  | none => s.bundleGo e j

/-- The bundle that is due is fetched and issues, is held, or ends its job (R190, R193, R211). -/
def State.issueBundle (s : State) (e : Nat) : State :=
  match (s.engine e).job with
  | none => s
  | some j =>
    match s.fetchBundle e j.tid with
    | (true, _, s) => s.jobAbort e 7
    | (false, v, s) => (s.setEngine e ((s.engine e).withBank v)).issueFetched e j

/-- The engine can issue: a job runs, no miss is outstanding and no bundle is held. -/
def State.mayIssue (s : State) (e : Nat) : Bool :=
  let x := s.engine e
  s.live && s.domOn (sgDom (e / 8)) && s.fld F.SE_STAT_STATE e == 1 && x.job.isSome && x.miss.isEmpty && !x.held

/-- An interrupt is deliverable at a quiet boundary outside a branch and its delay slots (R208). -/
def State.seIntDue (s : State) (e : Nat) : Bool :=
  let x := s.engine e
  s.live && s.domOn (sgDom (e / 8)) && s.fld F.SE_STAT_STATE e == 1 && x.job.isSome && x.locFld 0x0D 3 3 == 1
    && s.evPend e &&& x.locFld 0x0F 19 0 != 0 && x.flight.isEmpty && x.slots == 0 && x.miss.isEmpty

/-- The interrupt is taken (R208). -/
def State.seIntEnter (s : State) (e : Nat) : State :=
  let x := s.engine e
  let x := ((x.locWr 0x11 (BitVec.ofNat 32 x.pc)).locWr 0x0D (x.locRd 0x0D &&& 7)).locWr 0x0C (x.locRd 0x0C ||| 4)
  s.setEngine e { x with pc := x.locFld 0x10 10 0, bundle := [], held := false }

/-- n bundles issue for which no command gives a syllable: empty where the bank holds none (R190, R193). An interrupt that
is deliverable at a boundary after one of them is taken there, and nothing more of the command issues (R208, R209). -/
def State.bankBundles (s : State) (e n : Nat) : Bool × State :=
  match n with
  | 0 => (true, s)
  | k + 1 =>
    if s.mayIssue e then
      let s := s.issueBundle e
      if s.seIntDue e then (false, s.seIntEnter e) else s.bankBundles e k
    else (false, s)

/-- A syllable joins the bundle that is about to issue; the last one issues it, after the bundles before it that no command
fills (R190, R193). -/
def State.syllable (s : State) (e : Nat) (sl : Slot) (op : BitVec 6) (w : Syl) (last : Option (Fin 2048)) : State :=
  if !s.mayIssue e then s
  else
    let x := s.engine e
    let b := x.bundle.filter (fun b => decide (b.1 ≠ sl)) ++ [(sl, op, w)]
    match last with
    | none => s.setEngine e { x with bundle := b }
    | some n =>
      match (s.setEngine e { x with bundle := [] }).bankBundles e n.val with
      | (false, s) => s
      | (true, s) => if s.mayIssue e then (s.setEngine e { s.engine e with bundle := b }).issueBundle e else s

/-- A held bundle, already fetched, is tried again. -/
def State.retry (s : State) (e : Nat) : State :=
  let x := s.engine e
  match x.job with
  | some j => if x.held && s.fld F.SE_STAT_STATE e == 1 then (s.setEngine e { x with held := false }).issueFetched e j else s
  | none => s

/-! ### The instructions -/

/-- SE_LDW (R198). -/
def execSeLdw (e : Fin 128) (sl : Slot) (w : Syl) (last : Option (Fin 2048)) (s : State) : Host.Outcome State Fault Refusal :=
  .next (s.syllable e.val sl 0x01 w last)

/-- SE_LDX (R198). -/
def execSeLdx (e : Fin 128) (sl : Slot) (w : Syl) (last : Option (Fin 2048)) (s : State) : Host.Outcome State Fault Refusal :=
  .next (s.syllable e.val sl 0x02 w last)

/-- SE_LDQ (R198). -/
def execSeLdq (e : Fin 128) (sl : Slot) (w : Syl) (last : Option (Fin 2048)) (s : State) : Host.Outcome State Fault Refusal :=
  .next (s.syllable e.val sl 0x03 w last)

/-- SE_LDP (R198). -/
def execSeLdp (e : Fin 128) (sl : Slot) (w : Syl) (last : Option (Fin 2048)) (s : State) : Host.Outcome State Fault Refusal :=
  .next (s.syllable e.val sl 0x04 w last)

/-- SE_LDM (R198). -/
def execSeLdm (e : Fin 128) (sl : Slot) (w : Syl) (last : Option (Fin 2048)) (s : State) : Host.Outcome State Fault Refusal :=
  .next (s.syllable e.val sl 0x05 w last)

/-- SE_STW (R198). -/
def execSeStw (e : Fin 128) (sl : Slot) (w : Syl) (last : Option (Fin 2048)) (s : State) : Host.Outcome State Fault Refusal :=
  .next (s.syllable e.val sl 0x09 w last)

/-- SE_STX (R198). -/
def execSeStx (e : Fin 128) (sl : Slot) (w : Syl) (last : Option (Fin 2048)) (s : State) : Host.Outcome State Fault Refusal :=
  .next (s.syllable e.val sl 0x0A w last)

/-- SE_STQ (R198). -/
def execSeStq (e : Fin 128) (sl : Slot) (w : Syl) (last : Option (Fin 2048)) (s : State) : Host.Outcome State Fault Refusal :=
  .next (s.syllable e.val sl 0x0B w last)

/-- SE_STP (R198). -/
def execSeStp (e : Fin 128) (sl : Slot) (w : Syl) (last : Option (Fin 2048)) (s : State) : Host.Outcome State Fault Refusal :=
  .next (s.syllable e.val sl 0x0C w last)

/-- SE_STM (R198). -/
def execSeStm (e : Fin 128) (sl : Slot) (w : Syl) (last : Option (Fin 2048)) (s : State) : Host.Outcome State Fault Refusal :=
  .next (s.syllable e.val sl 0x0D w last)

/-- SE_MAC2 (R198). -/
def execSeMac2 (e : Fin 128) (sl : Slot) (w : Syl) (last : Option (Fin 2048)) (s : State) : Host.Outcome State Fault Refusal :=
  .next (s.syllable e.val sl 0x01 w last)

/-- SE_MSU2 (R198). -/
def execSeMsu2 (e : Fin 128) (sl : Slot) (w : Syl) (last : Option (Fin 2048)) (s : State) : Host.Outcome State Fault Refusal :=
  .next (s.syllable e.val sl 0x02 w last)

/-- SE_MUL2 (R198). -/
def execSeMul2 (e : Fin 128) (sl : Slot) (w : Syl) (last : Option (Fin 2048)) (s : State) : Host.Outcome State Fault Refusal :=
  .next (s.syllable e.val sl 0x03 w last)

/-- SE_CMAC (R201). -/
def execSeCmac (e : Fin 128) (sl : Slot) (w : Syl) (last : Option (Fin 2048)) (s : State) : Host.Outcome State Fault Refusal :=
  .next (s.syllable e.val sl 0x04 w last)

/-- SE_CMACJ (R201). -/
def execSeCmacj (e : Fin 128) (sl : Slot) (w : Syl) (last : Option (Fin 2048)) (s : State) : Host.Outcome State Fault Refusal :=
  .next (s.syllable e.val sl 0x05 w last)

/-- SE_CMUL (R198). -/
def execSeCmul (e : Fin 128) (sl : Slot) (w : Syl) (last : Option (Fin 2048)) (s : State) : Host.Outcome State Fault Refusal :=
  .next (s.syllable e.val sl 0x06 w last)

/-- SE_CMULR (R202). -/
def execSeCmulr (e : Fin 128) (sl : Slot) (w : Syl) (last : Option (Fin 2048)) (s : State) : Host.Outcome State Fault Refusal :=
  .next (s.syllable e.val sl 0x07 w last)

/-- SE_CX (R198). -/
def execSeCx (e : Fin 128) (sl : Slot) (w : Syl) (last : Option (Fin 2048)) (s : State) : Host.Outcome State Fault Refusal :=
  .next (s.syllable e.val sl 0x3F w last)

/-- SE_ADD (R202). -/
def execSeAdd (e : Fin 128) (sl : Slot) (w : Syl) (last : Option (Fin 2048)) (s : State) : Host.Outcome State Fault Refusal :=
  .next (s.syllable e.val sl 0x01 w last)

/-- SE_SUB (R202). -/
def execSeSub (e : Fin 128) (sl : Slot) (w : Syl) (last : Option (Fin 2048)) (s : State) : Host.Outcome State Fault Refusal :=
  .next (s.syllable e.val sl 0x02 w last)

/-- SE_NEG (R202). -/
def execSeNeg (e : Fin 128) (sl : Slot) (w : Syl) (last : Option (Fin 2048)) (s : State) : Host.Outcome State Fault Refusal :=
  .next (s.syllable e.val sl 0x03 w last)

/-- SE_ABS (R202). -/
def execSeAbs (e : Fin 128) (sl : Slot) (w : Syl) (last : Option (Fin 2048)) (s : State) : Host.Outcome State Fault Refusal :=
  .next (s.syllable e.val sl 0x04 w last)

/-- SE_AND (R198). -/
def execSeAnd (e : Fin 128) (sl : Slot) (w : Syl) (last : Option (Fin 2048)) (s : State) : Host.Outcome State Fault Refusal :=
  .next (s.syllable e.val sl 0x05 w last)

/-- SE_OR (R198). -/
def execSeOr (e : Fin 128) (sl : Slot) (w : Syl) (last : Option (Fin 2048)) (s : State) : Host.Outcome State Fault Refusal :=
  .next (s.syllable e.val sl 0x06 w last)

/-- SE_XOR (R198). -/
def execSeXor (e : Fin 128) (sl : Slot) (w : Syl) (last : Option (Fin 2048)) (s : State) : Host.Outcome State Fault Refusal :=
  .next (s.syllable e.val sl 0x07 w last)

/-- SE_SHL (R202). -/
def execSeShl (e : Fin 128) (sl : Slot) (w : Syl) (last : Option (Fin 2048)) (s : State) : Host.Outcome State Fault Refusal :=
  .next (s.syllable e.val sl 0x08 w last)

/-- SE_SHR (R198). -/
def execSeShr (e : Fin 128) (sl : Slot) (w : Syl) (last : Option (Fin 2048)) (s : State) : Host.Outcome State Fault Refusal :=
  .next (s.syllable e.val sl 0x09 w last)

/-- SE_MIN (R198). -/
def execSeMin (e : Fin 128) (sl : Slot) (w : Syl) (last : Option (Fin 2048)) (s : State) : Host.Outcome State Fault Refusal :=
  .next (s.syllable e.val sl 0x0A w last)

/-- SE_MAX (R198). -/
def execSeMax (e : Fin 128) (sl : Slot) (w : Syl) (last : Option (Fin 2048)) (s : State) : Host.Outcome State Fault Refusal :=
  .next (s.syllable e.val sl 0x0B w last)

/-- SE_MOV (R198). -/
def execSeMov (e : Fin 128) (sl : Slot) (w : Syl) (last : Option (Fin 2048)) (s : State) : Host.Outcome State Fault Refusal :=
  .next (s.syllable e.val sl 0x0C w last)

/-- SE_MOVI (R198). -/
def execSeMovi (e : Fin 128) (sl : Slot) (w : Syl) (last : Option (Fin 2048)) (s : State) : Host.Outcome State Fault Refusal :=
  .next (s.syllable e.val sl 0x0D w last)

/-- SE_MOVHI (R198). -/
def execSeMovhi (e : Fin 128) (sl : Slot) (w : Syl) (last : Option (Fin 2048)) (s : State) : Host.Outcome State Fault Refusal :=
  .next (s.syllable e.val sl 0x0E w last)

/-- SE_EXT (R202). -/
def execSeExt (e : Fin 128) (sl : Slot) (w : Syl) (last : Option (Fin 2048)) (s : State) : Host.Outcome State Fault Refusal :=
  .next (s.syllable e.val sl 0x10 w last)

/-- SE_ALD (R198). -/
def execSeAld (e : Fin 128) (sl : Slot) (w : Syl) (last : Option (Fin 2048)) (s : State) : Host.Outcome State Fault Refusal :=
  .next (s.syllable e.val sl 0x11 w last)

/-- SE_ACLR (R198). -/
def execSeAclr (e : Fin 128) (sl : Slot) (w : Syl) (last : Option (Fin 2048)) (s : State) : Host.Outcome State Fault Refusal :=
  .next (s.syllable e.val sl 0x12 w last)

/-- SE_ABF (R202). -/
def execSeAbf (e : Fin 128) (sl : Slot) (w : Syl) (last : Option (Fin 2048)) (s : State) : Host.Outcome State Fault Refusal :=
  .next (s.syllable e.val sl 0x13 w last)

/-- SE_BR (R205). -/
def execSeBr (e : Fin 128) (sl : Slot) (w : Syl) (last : Option (Fin 2048)) (s : State) : Host.Outcome State Fault Refusal :=
  .next (s.syllable e.val sl 0x01 w last)

/-- SE_BEQ (R205). -/
def execSeBeq (e : Fin 128) (sl : Slot) (w : Syl) (last : Option (Fin 2048)) (s : State) : Host.Outcome State Fault Refusal :=
  .next (s.syllable e.val sl 0x02 w last)

/-- SE_BNE (R205). -/
def execSeBne (e : Fin 128) (sl : Slot) (w : Syl) (last : Option (Fin 2048)) (s : State) : Host.Outcome State Fault Refusal :=
  .next (s.syllable e.val sl 0x03 w last)

/-- SE_BLT (R205). -/
def execSeBlt (e : Fin 128) (sl : Slot) (w : Syl) (last : Option (Fin 2048)) (s : State) : Host.Outcome State Fault Refusal :=
  .next (s.syllable e.val sl 0x04 w last)

/-- SE_BGE (R205). -/
def execSeBge (e : Fin 128) (sl : Slot) (w : Syl) (last : Option (Fin 2048)) (s : State) : Host.Outcome State Fault Refusal :=
  .next (s.syllable e.val sl 0x05 w last)

/-- SE_PBEQ (R205). -/
def execSePbeq (e : Fin 128) (sl : Slot) (w : Syl) (last : Option (Fin 2048)) (s : State) : Host.Outcome State Fault Refusal :=
  .next (s.syllable e.val sl 0x06 w last)

/-- SE_PBNE (R205). -/
def execSePbne (e : Fin 128) (sl : Slot) (w : Syl) (last : Option (Fin 2048)) (s : State) : Host.Outcome State Fault Refusal :=
  .next (s.syllable e.val sl 0x07 w last)

/-- SE_LOOP (R206). -/
def execSeLoop (e : Fin 128) (sl : Slot) (w : Syl) (last : Option (Fin 2048)) (s : State) : Host.Outcome State Fault Refusal :=
  .next (s.syllable e.val sl 0x08 w last)

/-- SE_LOOPI (R206). -/
def execSeLoopi (e : Fin 128) (sl : Slot) (w : Syl) (last : Option (Fin 2048)) (s : State) : Host.Outcome State Fault Refusal :=
  .next (s.syllable e.val sl 0x09 w last)

/-- SE_PSETL (R198). -/
def execSePsetl (e : Fin 128) (sl : Slot) (w : Syl) (last : Option (Fin 2048)) (s : State) : Host.Outcome State Fault Refusal :=
  .next (s.syllable e.val sl 0x10 w last)

/-- SE_PSETH (R198). -/
def execSePseth (e : Fin 128) (sl : Slot) (w : Syl) (last : Option (Fin 2048)) (s : State) : Host.Outcome State Fault Refusal :=
  .next (s.syllable e.val sl 0x11 w last)

/-- SE_MSET (R198). -/
def execSeMset (e : Fin 128) (sl : Slot) (w : Syl) (last : Option (Fin 2048)) (s : State) : Host.Outcome State Fault Refusal :=
  .next (s.syllable e.val sl 0x12 w last)

/-- SE_PADD (R198). -/
def execSePadd (e : Fin 128) (sl : Slot) (w : Syl) (last : Option (Fin 2048)) (s : State) : Host.Outcome State Fault Refusal :=
  .next (s.syllable e.val sl 0x13 w last)

/-- SE_RDC (R212). -/
def execSeRdc (e : Fin 128) (sl : Slot) (w : Syl) (last : Option (Fin 2048)) (s : State) : Host.Outcome State Fault Refusal :=
  .next (s.syllable e.val sl 0x14 w last)

/-- SE_WRC (R212). -/
def execSeWrc (e : Fin 128) (sl : Slot) (w : Syl) (last : Option (Fin 2048)) (s : State) : Host.Outcome State Fault Refusal :=
  .next (s.syllable e.val sl 0x15 w last)

/-- SE_RDX (R198). -/
def execSeRdx (e : Fin 128) (sl : Slot) (w : Syl) (last : Option (Fin 2048)) (s : State) : Host.Outcome State Fault Refusal :=
  .next (s.syllable e.val sl 0x16 w last)

/-- SE_WRX (R198). -/
def execSeWrx (e : Fin 128) (sl : Slot) (w : Syl) (last : Option (Fin 2048)) (s : State) : Host.Outcome State Fault Refusal :=
  .next (s.syllable e.val sl 0x17 w last)

/-- SE_EVWAIT (R207). -/
def execSeEvwait (e : Fin 128) (sl : Slot) (w : Syl) (last : Option (Fin 2048)) (s : State) : Host.Outcome State Fault Refusal :=
  .next (s.syllable e.val sl 0x18 w last)

/-- SE_EVTAKE (R207). -/
def execSeEvtake (e : Fin 128) (sl : Slot) (w : Syl) (last : Option (Fin 2048)) (s : State) : Host.Outcome State Fault Refusal :=
  .next (s.syllable e.val sl 0x19 w last)

/-- SE_JEND (R175). -/
def execSeJend (e : Fin 128) (sl : Slot) (w : Syl) (last : Option (Fin 2048)) (s : State) : Host.Outcome State Fault Refusal :=
  .next (s.syllable e.val sl 0x1A w last)

/-- SE_IRET (R208). -/
def execSeIret (e : Fin 128) (sl : Slot) (w : Syl) (last : Option (Fin 2048)) (s : State) : Host.Outcome State Fault Refusal :=
  .next (s.syllable e.val sl 0x1B w last)

/-- SE_INTERRUPT_ENTRY (R208): taken at a quiet boundary outside a branch and its delay slots. -/
def execSeInterruptEntry (e : Fin 128) (s : State) : Host.Outcome State Fault Refusal :=
  .next (if s.seIntDue e.val then s.seIntEnter e.val else s)

end Sys2Proof.Machine
end

