-- ==== Sys2Proof/Machine/Group.lean ====
section
/-! DEFINITION. A signal group: its timers, captures and TIO pins, its engines' apertures, program switches, and the DMA
commands that come from its own side (R164, R168, R169, R181 to R189). -/
namespace Sys2Proof.Machine

/-- A group answers: the block is live and the group's domain on. -/
def State.groupUp (s : State) (g : Nat) : Bool := s.live && s.domOn (sgDom g)

/-! ### DMA commands -/

/-- DMA_GO (R168): the write comes from the engine's own group. -/
def execDmaGo (e : Fin 128) (c : Fin 4) (s : State) : Host.Outcome State Fault Refusal :=
  .next (if s.groupUp (e.val / 8) then s.actDmaCtl (sgStop (e.val / 8)) e.val c.val 1 else s)

/-- DMA_STOP (R189). -/
def execDmaStop (e : Fin 128) (c : Fin 4) (s : State) : Host.Outcome State Fault Refusal :=
  .next (if s.groupUp (e.val / 8) then (s.actDmaCtl (sgStop (e.val / 8)) e.val c.val 8).retry e.val else s)

/-- DMA_DONE (R168): the data moves, and the channel finishes or stops on the first access that fails (R169). -/
def execDmaDone (e : Fin 128) (c : Fin 4) (s : State) : Host.Outcome State Fault Refusal :=
  let n := e.val
  let k := c.val
  .next <|
    match mget (s.engine n).dma k with
    | none => s
    | some d =>
      if s.dmaOuts n k then s
      else
        let (memSrc, ps) := s.dmaPieces n d 256
        match s.dmaMoves n k d memSrc ps with
        | (.moved, s) => (s.dmaFinish n k).retry n
        | (.failed code, s) => (s.dmaStopWith n k code).retry n
        | (.held, s) => s

/-- DMA_FAIL (R169): an access of the channel fails with an error code of R189: a fabric access was withdrawn or refused,
or a piece of a local transfer fails after those before it have moved. -/
def execDmaFail (e : Fin 128) (c : Fin 4) (code : BitVec 4) (s : State) : Host.Outcome State Fault Refusal :=
  let n := e.val
  let k := c.val
  .next <|
    match mget (s.engine n).dma k with
    | none => s
    | some d =>
      if s.dmaOuts n k then
        if code = 3 ∨ code = 4 then (s.dmaStopWith n k code.toNat).retry n else s
      else
        let (memSrc, ps) := s.dmaPieces n d 256
        match s.dmaMoves n k d memSrc ps with
        | (.failed found, t) => if found = code.toNat then (t.dmaStopWith n k found).retry n else s
        | _ => s

/-! ### Timers (R181, R182) -/

/-- The reload value of a timer in the plan in force. -/
def reloadOff (g t : Nat) : Nat := 0x50_0000 + 8 * (8 * g + t)

/-- At cycle 30 the reload values of the plan become current; an uncorrectable entry leaves its value unchanged (R417). -/
def State.reloadAll (s : State) : State :=
  (List.range 128).foldl (fun s i =>
    let o := reloadOff (i / 8) (i % 8)
    if s.planBad o || !s.domOn (sgDom (i / 8)) then s
    else s.setFld F.SG_TMRCNT_RELOAD (getBits (s.planWord o) 31 0) (i / 8) (i % 8)) s

/-- A timer waits for cycle 30 of the frame after the one in force. -/
def State.timerWait (s : State) (g t : Nat) : State :=
  let x := s.group g
  let at_ : Option Word := if s.flag F.CAD_STAT_RUN && s.tick.started then some s.frame else none
  s.setGroup g { x with start := mput x.start t at_ }

/-- A timer counts n cycles. -/
def State.timerRun (s : State) (g t n : Nat) : State :=
  let x := s.group g
  s.setGroup g { x with start := merase x.start t, count := mput x.count t n }

/-- A timer stops, its count as it stands, and no longer waits. -/
def State.timerStop (s : State) (g t : Nat) : State :=
  let x := s.group g
  let n := mgetD x.count t (s.fld F.SG_TMRCNT_COUNT g t)
  (s.setGroup g { x with start := merase x.start t, count := merase x.count t }).setFld F.SG_TMRCNT_COUNT n g t

/-- A write to SG_TMRCTL: EN going to 1 starts the timer at cycle 30 of the next frame (R182). -/
def State.actTmrCtl (s : State) (g t : Nat) (v : Word) : State :=
  let was := s.flag F.SG_TMRCTL_EN g t
  let on := bitOf v 0
  let s := s.wr .SG_TMRCTL (v &&& Reg.SG_TMRCTL.row.rw) g t
  if on && !was then s.timerWait g t else if !on then s.timerStop g t else s

/-- TIMER_LOAD (R182): at cycle 30 of a frame after that of the write, when the plan's reload values have become current.
With a reload of 0 there is nothing to count: the timer is off. -/
def execTimerLoad (g : Fin 16) (t : Fin 8) (s : State) : Host.Outcome State Fault Refusal :=
  let n := g.val
  let k := t.val
  .next <|
    match mget (s.group n).start k with
    | none => s
    | some f =>
      if s.groupUp n && s.flag F.CAD_STAT_RUN && s.tick.started && !s.tick.effectDue && decide (f ≠ some s.frame) then
        let r := s.fld F.SG_TMRCNT_RELOAD n k
        if r = 0 then (s.timerStop n k).setFld F.SG_TMRCTL_EN 0 n k else s.timerRun n k r
      else s

/-- A pin is set to a level by a group that drives it (R183). -/
def State.tioSet (s : State) (g pin : Nat) (f : Bool → Bool) : State :=
  if (s.rd .SG_TIODRV g).getLsbD pin then
    let v := setBit (s.board.tioOut.setWidth 64) pin (f (s.board.tioOut.getLsbD pin))
    s.setBoard { s.board with tioOut := v.setWidth 16 }
  else s

/-- The action of a timer on its pin (R182, R189): toggle, or a high pulse of 8 cycles, which leaves the pin low. -/
def State.timerPin (s : State) (g t : Nat) : State :=
  let pin := s.fld F.SG_TMRCTL_PIN g t
  if s.flag F.SG_TMRCTL_OUTACT g t then
    if (s.rd .SG_TIODRV g).getLsbD pin then (s.tioSet g pin (fun _ => false)).emit (.pulse pin) else s
  else s.tioSet g pin (fun b => !b)

/-- TIMER_EXPIRY (R182): once a timer has counted its cycles, the event of the bound engine, the pin, and the next count. -/
def execTimerExpiry (g : Fin 16) (t : Fin 8) (s : State) : Host.Outcome State Fault Refusal :=
  let n := g.val
  let k := t.val
  .next <|
    if s.groupUp n && s.flag F.SG_TMRCTL_EN n k && decide (mget (s.group n).count k = some 0) then
      let s := s.setEvent (8 * n + s.fld F.SG_TMRCTL_ENGINE n k) k
      let s := if s.flag F.SG_TMRCTL_OUTEN n k then s.timerPin n k else s
      let r := s.fld F.SG_TMRCNT_RELOAD n k
      if s.flag F.SG_TMRCTL_MODE n k || r == 0 then (s.timerStop n k).setFld F.SG_TMRCTL_EN 0 n k
      else s.timerRun n k r
    else s

/-! ### TIO pins and edge capture (R183, R184) -/

/-- A write to SG_TIODRV: discarded in full if a pin it drives is driven by another group (R183). -/
def State.actTioDrv (s : State) (m : Master) (g : Nat) (v : Word) : State :=
  let want := getBits v 15 0
  if (List.range 16).any (fun h => decide (h ≠ g) && decide ((s.rd .SG_TIODRV h).toNat &&& want ≠ 0)) then
    s.ctlErr m true .stateRule (Reg.SG_TIODRV.off g 0)
  else s.wr .SG_TIODRV (BitVec.ofNat 64 want) g

/-- TIO_DRIVE_WRITE (R183). -/
def execTioDriveWrite (m : Master) (g : Fin 16) (v : Word) (s : State) : Host.Outcome State Fault Refusal :=
  .next (s.ctlW m .SG_TIODRV g.val 0 (fun s => s.actTioDrv m g.val v))

/-- TIO_EDGE (R184): a selected edge goes into the FIFO of four entries, or is dropped with OVF set. -/
def execTioEdge (g : Fin 16) (k : Fin 8) (rise : Bool) (cycle : BitVec 16) (s : State) : Host.Outcome State Fault Refusal :=
  let n := g.val
  let u := k.val
  let edge := s.fld F.SG_CAPCTL_EDGE n u
  .next <|
    if s.groupUp n && s.flag F.SG_CAPCTL_EN n u && (if rise then edge == 1 || edge == 3 else edge == 2 || edge == 3) then
      let x := s.group n
      let q := mgetD x.fifo u []
      if q.length < 4 then s.setGroup n { x with fifo := mput x.fifo u (q ++ [⟨BitVec.ofNat 32 s.frame.toNat, cycle, rise⟩]) }
      else s.setFld F.SG_CAPDATA_OVF 1 n u
    else s

/-- SG_CAPDATA as it reads: the head of the FIFO (R189). -/
def State.capData (s : State) (g k : Nat) : Word :=
  let q := mgetD (s.group g).fifo k []
  let head : Nat := match q with
    | [] => 0
    | c :: _ => c.cycle.toNat + c.frame.toNat * 2 ^ 16 + b2n c.rise * 2 ^ 48
  BitVec.ofNat 64 (head + q.length * 2 ^ 49) ||| (s.rd .SG_CAPDATA g k &&& Reg.SG_CAPDATA.row.w1c)

/-- EVENT_PENDING (R185): the bound engine sees the event; a bundle that waits for it issues. -/
def execEventPending (e : Fin 128) (ev : Fin 20) (s : State) : Host.Outcome State Fault Refusal :=
  .next (if s.groupUp (e.val / 8) && (s.evPend e.val).testBit ev.val then s.retry e.val else s)

/-! ### Program switch (R186, R187) -/

/-- A write to SE_SWFRAME. -/
def State.actSwFrame (s : State) (m : Master) (e : Nat) (v : Word) : State :=
  if v.toNat < s.frame.toNat + 2 ∨ s.flag F.SE_SWSTAT_ARMED e then s.ctlErr m true .stateRule (Reg.SE_SWFRAME.off e 0)
  else (s.wr .SE_SWFRAME v e).setFld F.SE_SWSTAT_ARMED 1 e

/-- A write to SE_SWSTAT: CANCEL disarms, DONE clears. -/
def State.actSwStat (s : State) (e : Nat) (v : Word) : State :=
  let s := if bitOf v 1 then s.setFld F.SE_SWSTAT_ARMED 0 e else s
  if bitOf v 2 then s.setFld F.SE_SWSTAT_DONE 0 e else s

/-- ARM_PROGRAM_SWITCH (R186). -/
def execArmProgramSwitch (m : Master) (e : Fin 128) (v : Word) (s : State) : Host.Outcome State Fault Refusal :=
  .next (s.ctlW m .SE_SWFRAME e.val 0 (fun s => s.actSwFrame m e.val v))

/-- CANCEL_PROGRAM_SWITCH (R186). -/
def execCancelProgramSwitch (m : Master) (e : Fin 128) (s : State) : Host.Outcome State Fault Refusal :=
  .next (s.ctlW m .SE_SWSTAT e.val 0 (fun s => s.actSwStat e.val 2))

/-- The switch of an engine at the tick that starts the frame in force: the first one at or after F with position 0 and a
fresh plan (R187). -/
def State.progSwitchTick (s : State) (e : Nat) : State :=
  if s.flag F.SE_SWSTAT_ARMED e && s.tick.fresh && s.rd .CAD_SFPOS == 0 && decide ((s.rd .SE_SWFRAME e).toNat ≤ s.frame.toNat) then
    (((s.setFld F.SE_STAT_ACTIVE (1 - s.fld F.SE_STAT_ACTIVE e) e).setFld F.SE_SWSTAT_ARMED 0 e).setFld F.SE_SWSTAT_DONE 1 e).setFld
      F.SE_SWSTAT_LASTSW (s.frame.toNat % 2 ^ 48) e
  else s

/-- What the tick does to the signal groups: program switches, and every engine starts again at slot 0, unless its
superframe job runs on (R173, R178); a span ends with its superframe. -/
def State.groupsTick (s : State) : State :=
  let s := (List.range 128).foldl (fun s e => s.progSwitchTick e) s
  let again := s.rd .CAD_SFPOS == 0
  { s with engines := s.engines.map (fun p => (p.1, { p.2 with next := 0, span := if again then none else p.2.span })) }

/-! ### Apertures (R164, R188) -/

/-- What an aperture offset names: engine, kind (0 data memory, 1 and 2 the program banks) and word. -/
def apertureAt (off : Nat) : Option (Nat × Nat × Nat) :=
  let g := (off - 0x3000_0000) / 0x0100_0000
  let o := (off - 0x3000_0000) % 0x0100_0000
  if off < 0x3000_0000 ∨ 0x4000_0000 ≤ off then none
  else if 0x10_0000 ≤ o ∧ o < 0x30_0000 then
    some (8 * g + (o - 0x10_0000) / 0x4_0000, 0, (o - 0x10_0000) % 0x4_0000 / 8)
  else if 0x40_0000 ≤ o ∧ o < 0x50_0000 then
    some (8 * g + (o - 0x40_0000) / 0x2_0000, 1 + (o - 0x40_0000) % 0x2_0000 / 0x1_0000, (o - 0x40_0000) % 0x1_0000 / 8)
  else none

/-- A read through an aperture: whether the word is poisoned, and the word. -/
def State.apRead (s : State) (e kind i : Nat) : Bool × Word × State :=
  if kind = 0 then s.dmemRead e i (s.fld F.SE_STAT_TID e) else s.progRead e kind i 0

/-- A write through an aperture. The active bank, and the idle bank while a switch is armed, take none (R164). -/
def State.apWrite (s : State) (m : Master) (off e kind i : Nat) (v : Word) : State :=
  if kind = 0 then s.dmemWrite e i v false
  else if kind = 1 + s.fld F.SE_STAT_ACTIVE e ∨ s.flag F.SE_SWSTAT_ARMED e then s.ctlErr m true .stateRule off
  else
    let x := s.engine e
    let put (b : SMap MemW) : SMap MemW := mset b i ⟨v, false⟩ ⟨0, false⟩
    let x := if kind = 1 then { x with progA := put x.progA } else { x with progB := put x.progB }
    (s.setEngine e x).arrWrite (seTarget e) (seSub e kind) i

/-- The thread of a master, if it is a core's. -/
def Master.th (m : Master) : Option Nat :=
  match m with
  | .thread n => some n.val
  | .keeper => some 512
  | .cadence => some 513
  | _ => none

end Sys2Proof.Machine
end

