-- ==== Sys2Proof/Machine/Operands.lean ====
section
/-! DEFINITION. Operands of the AKZ instructions: register values as numbers, immediates, the integer operations and the
fetch-and-op operations (R56 to R66, R75), and the words of instructions (R56, R59). -/
namespace Sys2Proof.Machine

/-- A value of n bytes as an unsigned number. -/
def lowN (n : Nat) (v : Word) : Nat := v.toNat % 2 ^ (8 * n)

/-- A value of n bytes as a signed number. -/
def lowS (n : Nat) (v : Word) : Int := sexNat (8 * n) v.toNat

/-- What a fetch-and-op on n bytes leaves in memory (R75): funct [3:0], the old value, the operand. -/
def amoApply (op n : Nat) (old x : Word) : Word :=
  let r : Word := match op with
    | 0x2 => x
    | 0x3 => old + x
    | 0x4 => old &&& x
    | 0x5 => old ||| x
    | 0x6 => old ^^^ x
    | 0x7 => if lowS n old ≤ lowS n x then old else x
    | 0x8 => if lowS n old ≤ lowS n x then x else old
    | 0x9 => if lowN n old ≤ lowN n x then old else x
    | _ => if lowN n old ≤ lowN n x then x else old
  BitVec.ofNat 64 (lowN n r)

/-- A sign-extended immediate as a word (R65, R66, R67). -/
def immS {n : Nat} (v : BitVec n) : Word := v.signExtend 64

/-! ### Integer operations (R61 to R63)

On operands of w bits taken as unsigned numbers; the result is narrowed to w bits by whoever writes it. -/

def aluAdd (_w a b : Nat) : Int := a + b
def aluSub (_w a b : Nat) : Int := (a : Int) - b
def aluAnd (_w a b : Nat) : Int := (a &&& b : Nat)
def aluOr (_w a b : Nat) : Int := (a ||| b : Nat)
def aluXor (_w a b : Nat) : Int := (a ^^^ b : Nat)

/-- Shifts by the low 6 bits of b, or the low 5 for 32-bit operands (R62). -/
def aluSll (w a b : Nat) : Int := (a * 2 ^ (b % w) : Nat)
def aluSrl (w a b : Nat) : Int := (a / 2 ^ (b % w) : Nat)
def aluSra (w a b : Nat) : Int := sexNat w a / 2 ^ (b % w)

def aluSlt (w a b : Nat) : Int := if sexNat w a < sexNat w b then 1 else 0
def aluSltu (_w a b : Nat) : Int := if a < b then 1 else 0
def aluSeq (_w a b : Nat) : Int := if a = b then 1 else 0
def aluSne (_w a b : Nat) : Int := if a = b then 0 else 1

def aluMul (_w a b : Nat) : Int := (a * b : Nat)
def aluMulh (w a b : Nat) : Int := sexNat w a * sexNat w b / 2 ^ w
def aluMulhu (w a b : Nat) : Int := (a * b / 2 ^ w : Nat)
def aluMulhsu (w a b : Nat) : Int := sexNat w a * (b : Int) / 2 ^ w

/-- The signed quotient with its saturated cases (R63). -/
def aluDiv (w a b : Nat) : Int :=
  let x := sexNat w a
  let y := sexNat w b
  if y = 0 then (if x < 0 then -(2 ^ (w - 1)) else 2 ^ (w - 1) - 1)
  else if x = -(2 ^ (w - 1)) ∧ y = -1 then 2 ^ (w - 1) - 1
  else x.tdiv y

/-- The signed remainder, with the sign of the dividend (R63). -/
def aluRem (w a b : Nat) : Int :=
  let x := sexNat w a
  let y := sexNat w b
  if y = 0 then x else if x = -(2 ^ (w - 1)) ∧ y = -1 then -1 else x.tmod y

def aluDivu (w a b : Nat) : Int := if b = 0 then 2 ^ w - 1 else (a / b : Nat)
def aluRemu (_w a b : Nat) : Int := (a % b : Nat)

/-- Conditions of the branches (R66). -/
def cmpEq (_w a b : Nat) : Bool := a == b
def cmpNe (_w a b : Nat) : Bool := a != b
def cmpLt (w a b : Nat) : Bool := decide (sexNat w a < sexNat w b)
def cmpGe (w a b : Nat) : Bool := decide (sexNat w b ≤ sexNat w a)
def cmpLtu (_w a b : Nat) : Bool := decide (a < b)
def cmpGeu (_w a b : Nat) : Bool := decide (b ≤ a)

/-! ### Words of instructions (R56, R59) -/

/-- Major opcode, fields [25:21] and [20:16], and the rest. -/
def word (maj a b low : Nat) : Nat := maj * 2 ^ 26 + a * 2 ^ 21 + b * 2 ^ 16 + low

/-- Format R. -/
def wordR (maj : Nat) (rd rs1 rs2 : R5) (funct : Nat) : Nat := word maj rd.val rs1.val (rs2.val * 2 ^ 11 + funct)

/-- Formats I, S and B. -/
def wordI (maj : Nat) (a b : R5) (imm : BitVec 16) : Nat := word maj a.val b.val imm.toNat

/-- Format BI. -/
def wordBI (maj : Nat) (rs1 : R5) (imm : BitVec 10) (off : BitVec 11) : Nat :=
  word maj rs1.val 0 (imm.toNat * 2 ^ 11 + off.toNat)

/-- Formats U and J. -/
def wordU (maj : Nat) (rd : R5) (imm : BitVec 21) : Nat := word maj rd.val 0 imm.toNat

/-- Format F4. -/
def wordF4 (fd fs1 fs2 fs3 : R5) (dbl : Bool) (rm op : Nat) : Nat :=
  word 0x2D fd.val fs1.val (fs2.val * 2 ^ 11 + fs3.val * 2 ^ 6 + b2n dbl * 2 ^ 5 + rm * 2 ^ 2 + op)

/-- Format SH. -/
def wordSH (rd rs1 : R5) (kind : Nat) (w : Bool) (shamt : BitVec 6) : Nat :=
  word 0x08 rd.val rs1.val (kind * 2 ^ 14 + b2n w * 2 ^ 13 + shamt.toNat)

/-- Formats M and C. -/
def wordM (maj : Nat) (a b : R5) (code : BitVec 12) (sub : Nat) : Nat := word maj a.val b.val (code.toNat * 2 ^ 4 + sub)

/-- The rm field (R84). -/
def Rm.code (r : Rm) : Nat := match r with | .dyn => 0 | .rne => 1 | .rna => 2 | .rtz => 3 | .rtp => 4 | .rtn => 5

/-- funct of the FP major (R84). -/
def fpFunct (dbl : Bool) (op rm sub : Nat) : Nat := b2n dbl * 2 ^ 10 + op * 2 ^ 6 + rm * 2 ^ 3 + sub

/-- XTF_INFO of a word that the profile or the encodings reserve, none for a word with a meaning (R58 to R61, R65, R74, R75,
R84, R85, R88, R92, R93, R139). FCVP of either P is one of the operations that carry rm (entry 140). -/
def reservedInfo (a32 : Bool) (w : Nat) : Option Nat :=
  let maj := w / 2 ^ 26
  let f (hi lo : Nat) : Nat := w / 2 ^ lo % 2 ^ (hi + 1 - lo)
  let funct := f 10 0
  let zero (b : Bool) : Option Nat := if b then none else some 3
  if [0x0F, 0x12, 0x17, 0x28, 0x29, 0x2A, 0x2B, 0x2C, 0x2D, 0x2F].contains maj && a32 then some 2
  else if maj = 0x01 then
    if [0x000, 0x001, 0x002, 0x003, 0x004, 0x005, 0x006, 0x007, 0x008, 0x009, 0x00A, 0x00B, 0x010, 0x011, 0x012, 0x013,
        0x018, 0x019, 0x01A, 0x01B].contains funct then none
    else if [0x100, 0x101, 0x105, 0x106, 0x107, 0x110, 0x118, 0x119, 0x11A, 0x11B].contains funct && !a32 then none
    else some 1
  else if maj = 0x08 then
    let wd := f 13 13 = 1
    if f 15 14 = 3 ∨ (wd ∧ a32) then some 1
    else zero (f 12 6 == 0 && !((decide wd || a32) && f 5 5 == 1))
  else if maj = 0x26 then
    if 0xA < f 3 0 ∨ (f 4 4 = 1 ∧ a32) then some 1
    else zero (f 10 5 == 0 && (f 3 0 != 0 || f 15 11 == 0))
  else if maj = 0x27 then
    if 3 < f 3 0 then some 1
    else zero (f 25 21 == 0 && (f 3 0 == 2 || (f 15 4 == 0 && f 20 16 == 0)))
  else if maj = 0x2E then
    let sub := f 3 0
    if 9 < sub ∨ (sub = 4 ∧ a32) then some 1
    else if sub ≤ 2 then none
    else zero (f 25 21 == 0 && f 20 16 == 0 && (decide (sub = 3 ∨ sub = 4 ∨ sub = 7) || f 15 4 == 0))
  else if maj = 0x2C then
    let op := f 9 6
    let rm := f 5 3
    let sub := f 2 0
    let subMax := match op with | 5 => 3 | 6 => 2 | 7 => 5 | 8 => 7 | 10 => 1 | _ => 0
    let rounds := decide (op ≤ 4 ∨ op = 8 ∨ op = 9)
    if 11 < op ∨ subMax < sub ∨ (rounds = true ∧ 5 < rm) ∨ (rounds = false ∧ rm ≠ 0) then some 1
    else zero (f 15 11 == 0 || !(op == 4 || (op == 6 && sub != 0)))
  else if maj = 0x2D then (if 5 < f 4 2 then some 1 else none)
  else if maj = 0x2F then
    if [0x000, 0x001, 0x002, 0x003, 0x004, 0x005, 0x008, 0x009, 0x00A, 0x00B, 0x00C].contains funct then
      zero (funct != 0 || (f 20 16 == 0 && f 15 11 == 0))
    else some 1
  else if maj = 0x00 ∨ maj = 0x0B ∨ maj = 0x13 ∨ 0x2F < maj then some 0
  else none

end Sys2Proof.Machine
end

