-- ==== Sys2Proof/Machine/Fabric.lean ====
section
/-! DEFINITION. Packets on the links of the fabric: their coding, slots, transit, requests served for other nodes, and the
responses to this node's own (R266, R267, R331 to R349). -/
namespace Sys2Proof.Machine

/-! ### Payload coding on a link (R264, R266, R267) -/

/-- A packet carries a payload of data. -/
def carriesData (k : Packet) : Bool :=
  match k.op with | .write => true | .readData => true | .response => !k.payload.isEmpty | _ => false

/-- A payload as one number, byte 0 lowest, and back. -/
def payNat (ws : List Word) : Nat := packed 64 (ws.map (fun w => w.toNat))
def payWords (bytes x : Nat) : List Word := (pieces 64 ((bytes + 7) / 8) x).map (fun n => BitVec.ofNat 64 n)

/-- The whole blocks of a stream payload of n bytes, and the bits of its final partial block. -/
def streamBlocks (t : CwType) (n : Nat) : Nat × Nat := (n / (2 * t.bits), n % (2 * t.bits) * 8)

/-- A Cowslip stream's payload as the link carries it (R264, R267): its length in bytes and its value. -/
def streamImage (codec : BitVec 4) (t : CwType) (m n x : Nat) : Nat × Nat :=
  let (nb, rest) := streamBlocks t n
  let parts := (List.range nb).map (fun i => cwPart t m (pieces t.bits 16 (piece (16 * t.bits) x i)))
  let r := joinBits ((8, codec.toNat) :: parts.map (fun p => (8, p.1)) ++ parts.map (fun p => p.2)
    ++ [(rest, x / 2 ^ (16 * t.bits * nb) % 2 ^ rest)])
  (r.1 / 8, r.2)

/-- The payload that such an image decodes to. -/
def streamDecode (t : CwType) (m n im : Nat) : Nat :=
  let (nb, rest) := streamBlocks t n
  let exps := pieces 8 nb (im / 256)
  let body := im / 2 ^ (8 + 8 * nb)
  let used := exps.foldl (fun u e => u + (if e = 0x80 then 16 * t.bits else 16 * m)) 0
  packed (16 * t.bits) (cwBlocks t m exps body) + 2 ^ (16 * t.bits * nb) * (body / 2 ^ used % 2 ^ rest)

/-- A Teasel-coded payload may travel on a link (R266). -/
def State.mayTeasel (s : State) (p : Nat) (k : Packet) : Bool :=
  decide (2 ≤ k.cls.val) && carriesData k && decide (k.len = 256 ∧ k.addr.toNat % 256 = 0) && !k.y && s.featOn p 3
    && decide (k.codec = 0)

/-- A packet as a link carries it: Cowslip streams in their layout, Teasel where it may (R266, R267). -/
def State.linkCode (s : State) (p : Nat) (k : Packet) : Packet :=
  let n := k.len.toNat
  match cwOf k.codec with
  | some (t, m) =>
    if s.featOn p 4 && decide (k.cls ≠ 0) && carriesData k then
      let im := streamImage k.codec t m n (payNat k.payload)
      { k with payload := payWords im.1 im.2 }
    else k
  | none =>
    if s.mayTeasel p k then
      let (c, im) := encodeSuper true 0 false (BitVec.ofNat 2048 (payNat k.payload))
      { k with tcode := BitVec.ofNat 4 c, payload := payWords (if c = 1 then 256 else 64 * codeBursts c) im.toNat }
    else k

/-- A packet as it comes off a link: its payload is decoded (R266, R267). -/
def State.linkDecode (s : State) (p : Nat) (k : Packet) : Packet :=
  let n := k.len.toNat
  match cwOf k.codec with
  | some (t, m) =>
    if s.featOn p 4 && decide (k.cls ≠ 0) && carriesData k then
      { k with payload := payWords n (streamDecode t m n (payNat k.payload)) }
    else k
  | none =>
    if s.mayTeasel p k && decide (k.tcode ≠ 1 ∧ k.tcode.toNat ≤ 8) then
      { k with tcode := 1, payload := payWords 256 (teaselDecode k.tcode.toNat (BitVec.ofNat 2048 (payNat k.payload))).toNat }
    else k

/-- The bytes of a packet on a link: its header, and its payload as coded (R332, R338). -/
def wireBytes (k : Packet) : Nat :=
  let n := 8 * k.payload.length
  32 + (if n < k.len.toNat + 8 then min n k.len.toNat else n)

/-! ### Headers (R338) -/

/-- The header words 0 to 2 of a packet. -/
def Hdr.words (k : Packet) : List Nat :=
  [(joinBits [(12, k.dst.toNat), (12, k.src.toNat), (2, k.cls.val), (12, k.flow.toNat), (10, k.tid.val), (6, opCode k.op),
     (4, k.tcode.toNat), (4, k.codec.toNat), (1, b2n k.y)]).2,
   (joinBits [(52, k.addr.toNat), (4, k.hops.toNat)]).2,
   (joinBits [(13, k.len.toNat), (3, 0), (16, k.tag.toNat), (2, k.resp.toNat), (6, 0), (3, k.reason.toNat), (5, 0),
     (8, k.deferK.toNat), (1, b2n k.bad)]).2]

/-- HCRC: the CRC-32 of words 0 to 2. -/
def hcrc (w : List Nat) : Nat := crc32 192 (packed 64 w)

/-- A packet as a link carries it. -/
def Hdr.encode (k : Packet) : RawPacket :=
  let w := Hdr.words k
  let h (i : Nat) : Word := BitVec.ofNat 64 ((w[i]?).getD 0)
  { h0 := h 0, h1 := h 1, h2 := h 2, h3 := BitVec.ofNat 64 (hcrc w), dataOk := k.dataOk, aop := k.aop, payload := k.payload }

/-- The operation of a code (R338). -/
def opOf (c : Nat) : FabOp :=
  match c with
  | 1 => .write | 2 => .readReq | 3 => .readData | 4 => .fetchOp | 5 => .response | 0x10 => .leaseGrant
  | 0x11 => .recallNotice | 0x12 => .drained | 0x13 => .confirm | v => .reserved (BitVec.ofNat 6 v)

/-- The header of a packet passes its check. -/
def Hdr.ok (r : RawPacket) : Bool := getBits r.h3 31 0 == hcrc [r.h0.toNat, r.h1.toNat, r.h2.toNat]

/-- The packet that a link brings. -/
def Hdr.decode (r : RawPacket) : Packet where
  dst := BitVec.ofNat 12 (getBits r.h0 11 0)
  src := BitVec.ofNat 12 (getBits r.h0 23 12)
  cls := Fin.ofNat 4 (getBits r.h0 25 24)
  flow := BitVec.ofNat 12 (getBits r.h0 37 26)
  tid := Fin.ofNat 1024 (getBits r.h0 47 38)
  op := opOf (getBits r.h0 53 48)
  tcode := BitVec.ofNat 4 (getBits r.h0 57 54)
  codec := BitVec.ofNat 4 (getBits r.h0 61 58)
  y := bitOf r.h0 62
  addr := BitVec.ofNat 52 (getBits r.h1 51 0)
  hops := BitVec.ofNat 4 (getBits r.h1 55 52)
  len := BitVec.ofNat 13 (getBits r.h2 12 0)
  tag := BitVec.ofNat 16 (getBits r.h2 31 16)
  resp := BitVec.ofNat 2 (getBits r.h2 33 32)
  reason := BitVec.ofNat 3 (getBits r.h2 42 40)
  deferK := BitVec.ofNat 8 (getBits r.h2 55 48)
  bad := bitOf r.h2 56
  dataOk := r.dataOk
  aop := r.aop
  payload := r.payload

/-- Port data of a packet is charged: 64-byte units, and the AES blocks of an encrypted link (R357, R358). -/
def State.chargeLink (s : State) (p tid : Nat) (k : Packet) : State :=
  let n := wireBytes k
  let s := s.charge tid 13 ((n + 63) / 64) (decide (k.cls = 0))
  if s.featOn p 1 then s.charge tid 15 ((n + 15) / 16) (decide (k.cls = 0)) else s

/-! ### The outcome of a request reaches its master (R74, R345) -/

/-- A response's payload word 0, cut to the access. -/
def firstWord (k : Packet) : Word := (k.payload[0]?).getD 0

/-- A request is accepted: what its master gets. -/
def State.delivered (s : State) (o : Outst) (k : Packet) : State :=
  match o.req.src, o.req.op with
  | .core t, .write => s.ackStore t.val (s.fabricBusy t.val)
  | .core t, _ => s.awaitDone t.val (firstWord k) k.bad
  | .dma e c, .readReq => (s.dmaData e.val c.val o.req.addr.toNat k.payload k.bad).retry e.val
  | .dma e _, _ => s.retry e.val
  | .pcie l, .readReq => s.emit (.pcie l.val .success k.bad k.payload)
  | .eth p tx, .readReq => s.ethData p.val tx (o.req.dst.toNat * 2 ^ 52 + o.req.addr.toNat) (if k.bad then none else some k.payload)
  | _, _ => s

/-- A request is refused with a reason: what its master sees. -/
def State.refused (s : State) (r : FabReq) (reason : Nat) : State :=
  match r.src, r.op with
  | .core t, .write =>
    (s.storeFailed t.val (BitVec.ofNat 64 (r.dst.toNat * 2 ^ 52 + r.addr.toNat)) reason).ackStore t.val (s.fabricBusy t.val)
  | .core t, _ => if reason = 4 then s.awaitTrap t.val 0x0A 4 else s.awaitTrap t.val 0x0B reason
  | .dma e c, _ =>
    if s.flag F.SE_DMACTL_BUSY e.val c.val then (s.dmaStopWith e.val c.val (if reason = 4 then 3 else 4)).retry e.val else s
  | .pcie l, .readReq => s.emit (.pcie l.val .abort false [])
  | .eth p tx, .readReq => s.ethData p.val tx (r.dst.toNat * 2 ^ 52 + r.addr.toNat) none
  | _, _ => s

/-- A request leaves through the source gateway; a refusal there reaches its master at once. -/
def State.issueOut (s : State) (r : FabReq) : State :=
  match s.issue r with
  | (some reason, s) => s.refused r reason
  | (none, s) => s

/-- An outstanding request is judged again. -/
def State.judgeAgain (s : State) (o : Outst) : State :=
  match s.issueAs o with
  | (some reason, s) => s.refused o.req reason
  | (none, s) => s

/-- The first request behind others whose line has none left before it (R239). -/
def nextFree (before : List FabReq) (outs : List Outst) : Option Outst :=
  match outs with
  | [] => none
  | o :: rest =>
    if o.stand = .sent then nextFree before rest
    else if decide (o.stand = .behind) && !before.any (sameLine o.req) then some o
    else nextFree (o.req :: before) rest

/-- The requests that nothing holds at their gateways any more are judged, in the order of issue. -/
def State.advance (s : State) (fuel : Nat) : State :=
  match fuel with
  | 0 => s
  | n + 1 =>
    match nextFree (s.fabric.flowQ.flatMap (fun q => q.2)) s.fabric.outs with
    | none => s
    | some o => (s.judgeAgain o).advance n

/-- What waits at gateways goes on as far as it can. -/
def State.goOut (s : State) : State := s.advance s.fabric.outs.length

/-- Requests that wait for credit at a link are judged again, in the order of issue (R344, R348). -/
def State.retryCredit (s : State) (p : Nat) : State :=
  ((s.fabric.outs.filter (fun o => decide (o.stand = .credit p))).foldl State.judgeAgain s).goOut

/-- The seal deadline: requests still without credit are put off by a frame (R344). -/
def State.creditDeadline (s : State) : State :=
  let waits (o : Outst) : Bool := match o.stand with | .credit _ => true | _ => false
  ((s.fabric.outs.filter waits).foldl (fun s o =>
    match s.putOff o 1 1 with
    | (some reason, s) => s.refused o.req reason
    | (none, s) => s) s).goOut

/-- FABRIC_REQUEST_ISSUE (R330, R344). -/
def execFabricRequestIssue (r : FabReq) (s : State) : Host.Outcome State Fault Refusal :=
  .next (if s.live then s.issueOut r else s)

/-- C0_MESSAGE_ADMIT (R337): a message of the flow; one that is too long for C0 is carried under R330 rows 3 to 5. -/
def execC0MessageAdmit (f : Fin 4096) (r : FabReq) (s : State) : Host.Outcome State Fault Refusal :=
  let (cls, flow) := s.classify r
  .next (if s.live && (decide (cls ≠ 0) || flow == f.val) then s.issueOut r else s)

/-- FABRIC_RESPONSE_RECEIVE (R342, R345, R346): ACCEPT, DEFER or REFUSE for an outstanding request. -/
def State.response (s : State) (k : Packet) : State :=
  match s.fabric.outs.find? (fun o => decide (o.tag = k.tag ∧ o.req.dst = k.src ∧ o.stand = .sent)) with
  | none => s
  | some o =>
    let tid := o.req.tid.val
    let gone := s.dropOutst o.tag
    let r := k.reason.toNat
    if k.resp = 1 then (gone.countFab tid 0 false).delivered o k
    else if k.resp = 2 then
      match s.putOff o k.deferK.toNat r with
      | (some why, s) => s.refused o.req why
      | (none, s) => s
    else if k.resp = 3 then (gone.countFab tid r true).refused o.req r
    else s

/-- DEFERRED_REISSUE (R345). -/
def execDeferredReissue (tag : BitVec 16) (s : State) : Host.Outcome State Fault Refusal :=
  .next <|
    match s.fabric.outs.find? (fun o => decide (o.tag = tag)) with
    | none => s
    | some o => match o.stand with
      | .until_ f => if s.live ∧ (f.toNat < s.frame.toNat ∨ (f = s.frame ∧ !s.tick.effectDue)) then (s.judgeAgain o).goOut else s
      | _ => s

/-- FABRIC_REQUEST_TIMEOUT (R345). -/
def execFabricRequestTimeout (tag : BitVec 16) (s : State) : Host.Outcome State Fault Refusal :=
  .next <|
    match s.fabric.outs.find? (fun o => decide (o.tag = tag ∧ o.stand = .sent)) with
    | none => s
    | some o =>
      if s.live ∧ o.issued.toNat + 64 ≤ s.frame.toNat then
        ((s.dropOutst tag).countFab o.req.tid.val 6 true).refused o.req 6
      else s

/-! ### Requests of other nodes (R240, R344, R349) -/

/-- The lease entry's range holds n bytes at a local address. -/
def State.inLease (s : State) (i a n : Nat) : Bool :=
  let sz := 2 ^ s.fld F.MAP_LEASEA_SIZE 0 i
  let b := s.fld F.MAP_LEASEB_BASE 0 i * 4096
  s.flag F.MAP_LEASEA_V 0 i && decide (b ≤ a ∧ a + n ≤ b + sz)

/-- A local address lies on a channel that is retired, with its partner where it is mirrored (R290, R344). -/
def State.retiredAt (s : State) (a : Nat) : Bool :=
  match s.mapAddr a with
  | some l => !l.cxl && (chansOf l.ch l.mirror).all (fun c => s.flag F.MC_STAT_RETIRED c)
  | none => false

/-- What the leases and windows say of a request: the TID it is served under, or the reason it is refused with. -/
def State.leaseFor (s : State) (k : Packet) : Sum Nat Nat :=
  let a := k.addr.toNat
  let n := k.len.toNat
  let tidOk (i : Nat) : Bool := s.fld F.MAP_LEASEA_BTID 0 i == k.tid.val
  let window (i : Nat) : Bool := s.fld F.MAP_LEASEA_MODE 0 i == 1 && tidOk i && (decide (k.op = .write) || s.flag F.MAP_LEASEA_W 0 i)
  let lease (i : Nat) : Bool := s.fld F.MAP_LEASEA_MODE 0 i == 0 && tidOk i && s.fld F.MAP_LEASEA_BNODE 0 i == k.src.toNat
  let live (i : Nat) : Bool := s.fld F.MAP_LEASEA_STATE 0 i == 1 || s.fld F.MAP_LEASEA_STATE 0 i == 2
  match firstIdx 64 (fun i => s.inLease i a n && (window i || (lease i && live i))) with
  | some i => let t := s.fld F.MAP_LEASEA_LTID 0 i
    if s.held t then .inl 4 else .inr t
  | none =>
    match firstIdx 64 (fun i => s.inLease i a n && lease i && (match mget s.fabric.lease i with | some x => x.recalled | none => false)) with
    | some _ => .inl 4
    | none => if s.retiredAt a then .inl 4 else .inl 6

/-- A piece of a request: local address, offset in the payload, length. -/
abbrev FabPiece := Nat × Nat × Nat

/-- The source of a request of another node. -/
def fabSrc (k : Packet) : ReqSrc := .fabric (Fin.ofNat 4096 k.src.toNat) k.tag

/-- One piece at the home of its superline (R235, R240): what a read got, or what becomes of the request. -/
inductive PieceOut where
  | ok (data : Nat) (bad : Bool)
  | refuse (reason : Nat)
  | wait (write : Bool)
deriving DecidableEq, Repr

def State.fabRead (s : State) (src : ReqSrc) (k : Packet) (ltid a n : Nat) : PieceOut × State :=
  match s.mapAddr a with
  | none => (.refuse 6, s.noMemory ltid (s.globalOf a))
  | some l =>
    let off := a % 256
    let js := (List.range 4).filter (fun j => decide (off / 64 ≤ j ∧ j ≤ (off + n - 1) / 64))
    match s.ncRead a l (sectBits js) ltid (decide (k.cls = 0)) src with
    | (.done f, s) => (.ok (f.data.toNat / 2 ^ (8 * off) % 2 ^ (8 * n)) (js.any (fun j => f.ue.getLsbD j)), s)
    | (.noMemory, s) => (.refuse 6, s.noMemory ltid (s.globalOf a))
    | (.withdrawn, s) => (.refuse 4, s)
    | (.held, s) => (.wait false, s)

def State.fabWrite (s : State) (src : ReqSrc) (k : Packet) (ltid a n data : Nat) : PieceOut × State :=
  match s.mapAddr a with
  | none => (.refuse 6, s.noMemory ltid (s.globalOf a))
  | some l =>
    let off := a % 256
    let mask : BitVec 256 := ((BitVec.allOnes n).setWidth 256) <<< off
    match s.ncWrite a l mask (BitVec.ofNat 2048 data <<< (8 * off)) 0 ltid (decide (k.cls = 0)) src with
    | (.done _, s) => (.ok 0 false, s)
    | (.noMemory, s) => (.refuse 6, s.noMemory ltid (s.globalOf a))
    | (.withdrawn, s) => (.refuse 4, s)
    | (.held, s) => (.wait true, s)

/-- A piece of a write, a read or a fetch-and-op, which is one indivisible action (R76). -/
def State.fabPiece (s : State) (src : ReqSrc) (k : Packet) (ltid : Nat) (p : FabPiece) : PieceOut × Nat × State :=
  let (a, o, n) := p
  match k.op with
  | .write =>
    let (r, s) := s.fabWrite src k ltid a n (payNat k.payload / 2 ^ (8 * o) % 2 ^ (8 * n))
    (r, 0, s)
  | .fetchOp =>
    match s.fabRead src k ltid a n with
    | (.ok old true, s) => (.ok old true, old, s)
    | (.ok old false, s) =>
      let (r, s) := s.fabWrite src k ltid a n (amoApply k.aop.val n (BitVec.ofNat 64 old) (firstWord k)).toNat
      (match r with | .ok _ _ => .ok old false | r => r, old, s)
    | (r, s) => (r, 0, s)
  | _ =>
    let (r, s) := s.fabRead src k ltid a n
    (r, 0, s)

/-- The answer to a request that was served: a packet, or the completion of a read (R318). -/
def State.answer (s : State) (src : ReqSrc) (k : Packet) (ltid : Nat) (acc : BitVec 32768) (bad : Bool) : State :=
  let ws := payWords k.len.toNat acc.toNat
  match src with
  | .pcie l => if k.op = .readReq then s.emit (.pcie l.val .success bad ws) else s
  | _ => match k.op with
    | .readReq => s.reply k 1 0 .readData bad ws k.len.toNat ltid
    | .fetchOp => s.reply k 1 0 .response bad ws k.len.toNat ltid
    | _ => s.replyAccept k ltid

/-- A request that fails: a reason of R343, or the status of a completion (R218, R291). -/
def State.answerNo (s : State) (src : ReqSrc) (k : Packet) (ltid reason : Nat) : State :=
  match src with
  | .pcie l => if k.op = .readReq then s.emit (.pcie l.val (if reason = 4 then .abort else .unsupported) false []) else s
  | _ => s.replyRefuse k reason ltid

/-- The gateway by which a request of another node enters (R240); one from a PCI Express link enters by none. -/
def entryGateway (src : ReqSrc) (k : Packet) : Nat :=
  match src with
  | .fabric _ _ => gatewayOf k.src.toNat k.addr.toNat
  | _ => 16

/-- The pieces are served in order; a frozen channel holds the rest (R289, R344). -/
def State.servePieces (s : State) (src : ReqSrc) (k : Packet) (ltid : Nat) (ps : List FabPiece) (acc : BitVec 32768)
    (bad : Bool) : State :=
  match ps with
  | [] => s.answer src k ltid acc bad
  | p :: rest =>
    match s.fabPiece src k ltid p with
    | (.ok d b, _, s) => s.servePieces src k ltid rest (acc ||| (BitVec.ofNat 32768 d <<< (8 * p.2.1))) (bad || b)
    | (.refuse r, _, s) => s.answerNo src k ltid r
    | (.wait w, old, s) =>
      s.setFabric { s.fabric with held := s.fabric.held ++ [⟨src, k, ltid, entryGateway src k, false, w, p :: rest,
        acc ||| (BitVec.ofNat 32768 old <<< (8 * p.2.1)), bad⟩] }

/-- A held request that entered by the gateway is for a line of these pieces (R239, R240). -/
def State.lineHeld (s : State) (g : Nat) (ps : List FabPiece) : Bool :=
  s.fabric.held.any (fun h => h.gw == g && decide (g < 16) && h.rest.any (fun x => ps.any (fun y => x.1 / 256 == y.1 / 256)))

/-- The pieces of a request are served, once no earlier one to their lines waits at the gateway. -/
def State.enter (s : State) (src : ReqSrc) (k : Packet) (ltid : Nat) (ps : List FabPiece) : State :=
  let g := entryGateway src k
  if s.lineHeld g ps then s.setFabric { s.fabric with held := s.fabric.held ++ [⟨src, k, ltid, g, true, false, ps, 0, false⟩] }
  else s.servePieces src k ltid ps 0 false

/-- A request for local memory is judged and served (R349). -/
def State.serveRequest (s : State) (k : Packet) : State :=
  let a := k.addr.toNat
  let n := k.len.toNat
  if k.op = .fetchOp ∧ ((n ≠ 4 ∧ n ≠ 8) ∨ a % n ≠ 0 ∨ k.aop.val < 2 ∨ 10 < k.aop.val) then s.replyRefuse k 6
  else match s.leaseFor k with
    | .inl r => s.replyRefuse k r
    | .inr ltid => s.enter (fabSrc k) k ltid ((piecesOf 256 a n).map (fun p => (p.1, p.1 - a, p.2)))

/-- What a channel has answered to a master, if this output is that. -/
def memAnswer (src : ReqSrc) (o : Out) : Option MemStatus :=
  match o with
  | .mem q st _ _ => if q = src then some st else none
  | _ => none

/-- Requests that a frozen channel held go on when it has answered them; each answer is for the first that waits. -/
def State.resumeHeld (s : State) : State :=
  s.fabric.held.foldl (fun s h =>
    if h.behind then s.enter h.src h.pkt h.ltid h.rest
    else match s.out.findIdx? (fun o => (memAnswer h.src o).isSome) with
    | none => s.setFabric { s.fabric with held := s.fabric.held ++ [h] }
    | some i =>
      let st := (s.out[i]?).bind (memAnswer h.src)
      let s : State := { s with out := s.out.eraseIdx i }
      match st with
      | some .withdrawn => s.answerNo h.src h.pkt h.ltid 4
      | some .noMemory => s.answerNo h.src h.pkt h.ltid 6
      | _ => s.servePieces h.src h.pkt h.ltid (if h.wrote then h.rest.drop 1 else h.rest) h.acc h.bad)
    (s.setFabric { s.fabric with held := [] })

/-- A pair's store that a frozen channel held is over: performed, or withdrawn with a precise trap (R71, R289, R291). -/
def State.resumeStore (s : State) (t from_ : Nat) : State :=
  match (s.thread t).await with
  | some ⟨_, _, _, .stored _ _ _, _⟩ =>
    match (s.out.drop from_).findSome? (memAnswer (srcOf t)) with
    | none => s
    | some .withdrawn => s.awaitTrap t 0x0A 4
    | some .noMemory => s.awaitTrap t 0x04 2
    | some _ => s.awaitDone t 0 false
  | _ => s

/-- FREEZE_ACTION_DONE (R289, R290, R344). -/
def execFreezeActionDone (ch : Fin 16) (s : State) : Host.Outcome State Fault Refusal :=
  let n := s.out.length
  .next (((((s.freezeActionDone ch.val).resumeStore 512 n).resumeStore 513 n).resumeHeld).ethResumeAll)

/-! ### Lease messages (R350, R351) -/

/-- The lease of this node that a message of its borrower names. -/
def State.leaseNamed (s : State) (k : Packet) : Option Nat :=
  firstIdx 64 (fun i => s.flag F.MAP_LEASEA_V 0 i && s.fld F.MAP_LEASEA_MODE 0 i == 0
    && s.fld F.MAP_LEASEA_BNODE 0 i == k.src.toNat && s.fld F.MAP_LEASEB_BASE 0 i * 4096 == k.addr.toNat)

/-- The borrowed range that a message of its lender names. -/
def State.borrowNamed (s : State) (k : Packet) : Option Nat :=
  firstIdx 64 (fun j => s.flag F.MAP_BORROWA_V 0 j && s.fld F.MAP_BORROWA_LNODE 0 j == k.src.toNat
    && s.fld F.MAP_BORROWB_BASE 0 j * 4096 == k.addr.toNat)

/-- The progress of a lease. -/
def State.leaseX (s : State) (i : Nat) : LeaseX := mgetD s.fabric.lease i ⟨false, false, false, false, 0⟩
def State.setLeaseX (s : State) (i : Nat) (x : LeaseX) : State := s.setFabric { s.fabric with lease := mput s.fabric.lease i x }

/-- LEASE_GRANT_RECEIVE (R350): Keeper firmware then writes the borrow entry. -/
def State.grantIn (s : State) (k : Packet) : State := s.replyAccept k

/-- RECALL_NOTICE_RECEIVE (R351): the notice is recorded against the borrow entry. -/
def State.noticeIn (s : State) (k : Packet) : State :=
  match s.borrowNamed k with
  | none => s.replyRefuse k 6
  | some j =>
    let s := if s.fld F.MAP_BORROWA_STATE 0 j = 1 ∧ !s.fabric.noticed.contains j then
        s.setFabric { s.fabric with noticed := s.fabric.noticed ++ [j] } else s
    s.replyAccept k

/-- DRAINED_RECEIVE (R351). -/
def State.drainedIn (s : State) (k : Packet) : State :=
  match s.leaseNamed k with
  | none => s.replyRefuse k 6
  | some i =>
    let s := if s.fld F.MAP_LEASEA_STATE 0 i = 2 then s.setLeaseX i { s.leaseX i with drainedIn := true } else s
    s.replyAccept k

/-- CONFIRM_RECEIVE (R351): the range is withdrawn. -/
def State.confirmIn (s : State) (k : Packet) : State :=
  match s.borrowNamed k with
  | none => s.replyRefuse k 6
  | some j =>
    let s := if s.fld F.MAP_BORROWA_STATE 0 j = 2 then s.setFld F.MAP_BORROWA_STATE 3 0 j else s
    s.replyAccept k

/-! ### Receiving a packet (R338, R340, R341, R347) -/

/-- A packet for this node is delivered. A write whose payload failed its check is discarded; a failed payload of a
response is poison (R340, R343, R416). -/
def State.deliverPacket (s : State) (k : Packet) : State :=
  if k.resp ≠ 0 then s.response { k with bad := k.bad || !k.dataOk }
  else if k.bad ∨ !k.dataOk then (s.bump .MAP_XBARDROPCNT).replyRefuse k 6
  else match k.op with
    | .write => s.serveRequest k
    | .readReq => s.serveRequest k
    | .fetchOp => s.serveRequest k
    | .leaseGrant => s.grantIn k
    | .recallNotice => s.noticeIn k
    | .drained => s.drainedIn k
    | .confirm => s.confirmIn k
    | _ => s.replyRefuse k 5

/-- A packet that cannot go on: a request is answered, a response is lost and counted. -/
def State.turnBack (s : State) (k : Packet) (reason : Nat) (count : Bool) : State :=
  let s := if count || decide (k.resp ≠ 0) then s.bump .MAP_XBARDROPCNT else s
  if k.resp = 0 then s.replyRefuse k reason else s

/-- The first slots of a C0 flow's groups for an input at a port (R334). -/
def State.groupsOf (s : State) (p flow inp : Nat) : List Nat :=
  (List.range 64).filter (fun k => let w := s.slotWord p k
    getBits w 1 0 == 1 && bitOf w 2 && getBits w 15 4 == flow && getBits w 23 16 == inp)

/-- A C0 message finds its group at a port taken by an earlier one of its flow (R341): the earlier ones that wait take
the groups that are left of this link frame, or the flow's group has carried one and none is left. -/
def State.groupTaken (s : State) (p flow inp : Nat) : Bool :=
  let x := s.port p
  let gs := s.groupsOf p flow inp
  let left := (gs.filter (fun g => decide (x.pos ≤ g))).length
  let waits := s.c0Waiting p flow inp
  if waits = 0 then decide (left = 0) && gs.any (fun g => x.took.contains g) else decide (left ≤ waits)

/-- Credit for an input buffer goes back to the link partner (R348); this node has no such buffer. -/
def State.giveCredit (s : State) (inp : Nat) (k : Packet) : State :=
  if inp < 144 then s.emit (.credit inp k.cls (pktBytes k)) else s

/-- A packet for another node crosses the crossbar (R341, R344, R347): in the order of R344, the next link, the route and
the hops; its crossing is charged to TID 0 (R358), and so is its way out. -/
def State.transit (s : State) (inp : Nat) (k : Packet) : State :=
  let flow := k.flow.toNat
  let x : Traffic := ⟨k.cls.val, flow, k.dst.toNat, inp, pktBytes k, k.addr.toNat / 256⟩
  match s.way x with
  | none => (s.giveCredit inp k).turnBack k 6 (decide (k.cls = 0))
  | some (q, beyond) =>
    if s.linkLacks q k.cls.val flow k.op then (s.giveCredit inp k).turnBack k (if k.cls = 0 then 6 else 5) (decide (k.cls = 0))
    else if k.hops = 0 then (s.giveCredit inp k).turnBack k 6 true
    else if k.cls = 0 ∧ flow ≠ 0 ∧ s.groupTaken q flow inp then (s.giveCredit inp k).turnBack k 6 true
    else
      let s := (s.charge 0 14 ((pktBytes k + 63) / 64) (decide (k.cls = 0))).countC1 x beyond
      s.enqueue q ⟨{ k with hops := k.hops - 1, bad := k.bad || !k.dataOk, dataOk := true }, inp, beyond, none, 0, 0⟩

/-- The TID to which the arrival of a packet is charged (R358): the requester's, a lease's or window's, or 0. -/
def State.chargeTid (s : State) (k : Packet) : Nat :=
  if !s.ownNode k.dst.toNat then 0
  else if k.resp ≠ 0 then k.tid.val
  else match s.leaseFor k with
    | .inr ltid => ltid
    | .inl _ => 0

/-- A packet is taken from the input buffer of a port: delivered, or on its way through the crossbar. A request with a
reserved OP is refused wherever it arrives (R338). -/
def State.takePacket (s : State) (q : Nat) (k : Packet) : State :=
  match k.op, k.resp with
  | .reserved _, 0 => (s.giveCredit q k).replyRefuse k 5
  | _, _ => if s.ownNode k.dst.toNat then (s.giveCredit q k).deliverPacket k else s.transit q k

/-- The packets that a port has buffered are taken. -/
def State.takeBuffered (s : State) (q : Nat) : State :=
  let ks := (s.port q).inq
  ks.foldl (fun s k => s.takePacket q k) (s.setPort q { s.port q with inq := [] })

/-- PACKET_RECEIVE (R338): on an ACTIVE link; a header whose HCRC fails is discarded and counted. While a microcode switch
holds the port, the packet stays in its buffer (R324). -/
def execPacketReceive (p : Fin 144) (raw : RawPacket) (s : State) : Host.Outcome State Fault Refusal :=
  let q := s.lane0 p.val
  .next <|
    if !s.live || !s.linkIs q .active then s
    else
      let s := s.setPort q { s.port q with rxCount := (s.port q).rxCount + 1 }
      if !Hdr.ok raw then s.bump .MAP_XBARDROPCNT
      else
        let wire := Hdr.decode raw
        let k := s.linkDecode q wire
        let s := s.chargeLink q (s.chargeTid k) wire
        if s.portHeld q then s.setPort q { s.port q with inq := (s.port q).inq ++ [k] } else s.takePacket q k

/-- FABRIC_RESPONSE_RECEIVE (R345). -/
def execFabricResponseReceive (pkt : Packet) (s : State) : Host.Outcome State Fault Refusal :=
  .next (if s.live then s.response pkt else s)

/-- FABRIC_REQUEST_ARRIVAL (R240, R349). -/
def execFabricRequestArrival (p : Packet) (s : State) : Host.Outcome State Fault Refusal :=
  .next (if s.live ∧ p.resp = 0 ∧ (p.op = .write ∨ p.op = .readReq ∨ p.op = .fetchOp) then s.deliverPacket p else s)

/-- LEASE_GRANT_RECEIVE (R350). -/
def execLeaseGrantReceive (p : Packet) (s : State) : Host.Outcome State Fault Refusal :=
  .next (if s.live then s.grantIn p else s)

/-- RECALL_NOTICE_RECEIVE (R351). -/
def execRecallNoticeReceive (p : Packet) (s : State) : Host.Outcome State Fault Refusal :=
  .next (if s.live then s.noticeIn p else s)

/-- DRAINED_RECEIVE (R351). -/
def execDrainedReceive (p : Packet) (s : State) : Host.Outcome State Fault Refusal :=
  .next (if s.live then s.drainedIn p else s)

/-- CONFIRM_RECEIVE (R351). -/
def execConfirmReceive (p : Packet) (s : State) : Host.Outcome State Fault Refusal :=
  .next (if s.live then s.confirmIn p else s)

/-! ### Sending (R331 to R333, R337, R348) -/

/-- A transmission is complete: the packet is on the link, sealed where the link is encrypted (R302, R392); it is charged,
and the buffer it was in is free again. -/
def State.sent (s : State) (p : Nat) (w : Waiting) : State :=
  let wire := s.linkCode p w.pkt
  let x := s.port p
  let gcm := if s.featOn p 1 then x.keys.map (fun k => ⟨k.tx, s.nodeId, p, x.txCount⟩) else none
  let s := s.setPort p { x with txCount := x.txCount + 1 }
  ((s.chargeLink p w.tid wire).emit (.packet p (Hdr.encode wire) gcm)).giveCredit w.inp w.pkt

/-- The place of an input in the rotation after the one that was served last (R348). -/
def rotation (last inp : Nat) : Nat := (inp + 255 - last) % 256

/-- The next packet of those that meet a test, all of one class: the inputs take turns, and each keeps its order; the
partner has credit for it (R348). -/
def State.pickNext (s : State) (p : Nat) (ok : Waiting → Bool) : Option Nat :=
  let x := s.port p
  let fits (w : Waiting) : Bool := ok w && x.room w.pkt.cls (wireBytes (s.linkCode p w.pkt))
  let turn (w : Waiting) : Nat := rotation (mgetD x.served w.pkt.cls.val 255) w.inp
  let best := (x.egress.filter fits).foldl (fun b w => match b with | none => some (turn w) | some n => some (min n (turn w))) none
  match best with
  | none => none
  | some n => x.egress.findIdx? (fun w => fits w && turn w == n)

/-- A waiting packet is read from the crossbar buffer: one that is uncorrectable there is discarded and counted (R415). -/
def State.xbarRead (s : State) (p i : Nat) (w : Waiting) : Bool × State :=
  match s.arrJudge 152 0 w.word with
  | (.clean, s) => (true, s)
  | (.corrected, s) => (true, s.arrCorrect 152 0 w.word 0)
  | (.uncorrectable, s) =>
    let s : State := { s with errs := merase s.errs (errKey 152 0 w.word) }
    (false, (s.setPort p { s.port p with egress := (s.port p).egress.eraseIdx i }).bump .MAP_XBARDROPCNT)
  | (.beyond, s) => (true, s)

/-- The transmission of a waiting packet starts. -/
def State.startSend (s : State) (p i : Nat) : State :=
  match (s.port p).egress[i]? with
  | none => s
  | some w =>
    let (ok, s) := s.xbarRead p i w
    if !ok then s else
    let x := s.port p
    let n := wireBytes (s.linkCode p w.pkt)
    let c := w.pkt.cls.val
    s.setPort p { x with
      egress := x.egress.eraseIdx i, sending := x.sending ++ [⟨w, n⟩],
      served := mput x.served c w.inp, unpaid := mput x.unpaid c (mgetD x.unpaid c 0 + n) }

/-- A transmission in progress goes on for as many bytes as a slot has left: those that remain. -/
def State.goSend (s : State) (p : Nat) (ok : Waiting → Bool) (bytes : Nat) : Nat × State :=
  let x := s.port p
  match x.sending.findIdx? (fun z => ok z.item) with
  | none => (bytes, s)
  | some i =>
    match x.sending[i]? with
    | none => (bytes, s)
    | some z =>
      if bytes < z.left then (0, s.setPort p { x with sending := x.sending.set i { z with left := z.left - bytes } })
      else (bytes - z.left, (s.setPort p { x with sending := x.sending.eraseIdx i }).sent p z.item)

/-- Packets that meet a test, all of one class, fill the rest of a slot (R332). -/
def State.fillSlot (s : State) (p : Nat) (ok : Waiting → Bool) (fuel bytes : Nat) : Nat × State :=
  match fuel with
  | 0 => (bytes, s)
  | n + 1 =>
    if bytes = 0 then (0, s)
    else if (s.port p).sending.any (fun z => ok z.item) then
      let (left, s) := s.goSend p ok bytes
      s.fillSlot p ok n left
    else match s.pickNext p ok with
      | none => (bytes, s)
      | some i => (s.startSend p i).fillSlot p ok n bytes

/-- Enough steps for every packet of a port to start and to end. -/
def State.slotFuel (s : State) (p : Nat) : Nat := 2 * ((s.port p).egress.length + (s.port p).sending.length) + 1

/-- Whether C1 may use a free slot of a port: beyond its reservation, or with none there (R329, R333). -/
def State.freeC1 (s : State) (p : Nat) (w : Waiting) : Bool :=
  decide (w.pkt.cls = 1) && (w.beyond || s.slotPort w.pkt.flow.toNat 2 w.inp != some p)

/-- What a free slot of some bytes carries: answers of C0, then C1 beyond its reservation, C2 and C3 (R330, R333). -/
def State.freeSlot (s : State) (p bytes : Nat) : State :=
  let (b, s) := s.fillSlot p (fun w => decide (w.pkt.cls = 0 ∧ w.pkt.flow = 0)) (s.slotFuel p) bytes
  let t := s
  let (b, s) := s.fillSlot p (t.freeC1 p) (s.slotFuel p) b
  let (b, s) := s.fillSlot p (fun w => decide (w.pkt.cls = 2)) (s.slotFuel p) b
  (s.fillSlot p (fun w => decide (w.pkt.cls = 3)) (s.slotFuel p) b).2

/-- The next message of a C0 flow of this node is admitted when its earlier one's group starts (R337). -/
def State.admitNext (s : State) (flow : Nat) (start : Word × Nat) : State :=
  match mgetD s.fabric.flowQ flow [] with
  | [] => s
  | r :: rest =>
    match (s.setFabric { s.fabric with flowQ := mset s.fabric.flowQ flow rest [] }).issueNow r (some start) with
    | (some reason, s) => (s.refused r reason).goOut
    | (none, s) => s.goOut

/-- The first slot of the group that slot k is of, for a flow (R334). -/
def State.groupFirst (s : State) (p flow k : Nat) : Option Nat :=
  let w := s.slotWord p k
  if getBits w 1 0 ≠ 1 ∨ getBits w 15 4 ≠ flow then none
  else if bitOf w 2 then some k
  else match k with
    | 0 => none
    | j + 1 => s.groupFirst p flow j

/-- The head message of a flow from an input may go in a group that starts at a cycle of this frame: one of this node 200 ns
after its admission (R337). -/
def State.c0Ready (s : State) (flow inp start : Nat) (w : Waiting) : Bool :=
  decide (w.pkt.cls = 0) && w.pkt.flow.toNat == flow && w.inp == inp &&
    (match w.admitted with
     | none => true
     | some (f, c) => decide (c + 400 ≤ start + (s.frame.toNat - f.toNat) * (s.tf * 20)))

/-- A slot of a C0 group (R333, R337): its message goes on; or the group starts, with the head message of its flow, or is
free for this link frame. -/
def State.c0Slot (s : State) (p sl flow inp bytes : Nat) : State :=
  let mine (w : Waiting) : Bool := decide (w.pkt.cls = 0) && w.pkt.flow.toNat == flow && w.inp == inp
  match s.groupFirst p flow sl with
  | none => s.freeSlot p bytes
  | some g =>
    let x := s.port p
    if x.took.contains g || x.sending.any (fun z => mine z.item) then (s.goSend p mine bytes).2
    else if g = sl then
      let start := sl * s.slotLen
      let head := x.egress.find? mine
      match head.bind (fun w => if s.c0Ready flow inp start w then s.pickNext p mine else none) with
      | none => (s.setPort p { x with freed := g :: x.freed }).freeSlot p bytes
      | some i =>
        let s := s.startSend p i
        let s := s.setPort p { s.port p with took := g :: (s.port p).took }
        let s : State := if inp = 255 then s.admitNext flow (s.frame, start) else s
        (s.goSend p mine bytes).2
    else s.freeSlot p bytes

/-- A slot that a C1 flow has reserved (R333): its flow, or what a free slot carries. -/
def State.c1Slot (s : State) (p flow inp bytes : Nat) : State :=
  let mine (w : Waiting) : Bool := decide (w.pkt.cls = 1) && w.pkt.flow.toNat == flow && w.inp == inp
  if (s.port p).sending.any (fun z => mine z.item) || (s.pickNext p mine).isSome then
    (s.fillSlot p mine (s.slotFuel p) bytes).2
  else s.freeSlot p bytes

/-- The partner has returned credit since the last slot: how much is free (R348, entry 47). -/
def State.takeCredit (s : State) (p : Nat) : State :=
  let (d, s) := s.draw
  let x := s.port p
  (s.setPort p { x with unpaid := x.unpaid.map (fun e => (e.1, e.2 - getBits d (16 * e.1 + 15) (16 * e.1))) }).retryCredit p

/-- SLOT_BOUNDARY (R331, R333): slot 64 stands for the cycles after slot 63. Nothing goes out while a microcode switch holds
the port (R324). -/
def execSlotBoundary (p : Fin 144) (sl : Fin 65) (s : State) : Host.Outcome State Fault Refusal :=
  let n := p.val
  let k := sl.val
  .next <|
    if !s.live || !s.linkUp n then s
    else
      let s := (s.setPort n { s.port n with pos := k + 1 }).takeCredit n
      if s.portHeld n then s
      else
        let bytes := s.slotBytes (if k < 64 then s.slotLen else s.tf * 20 - 64 * s.slotLen) n
        let w := if s.featOn n 0 && decide (k < 64) then s.slotWord n k else 0
        match getBits w 1 0 with
        | 1 => s.c0Slot n k (getBits w 15 4) (getBits w 23 16) bytes
        | 2 => s.c1Slot n (getBits w 15 4) (getBits w 23 16) bytes
        | _ => s.freeSlot n bytes

end Sys2Proof.Machine
end

