-- ==== Sys2Proof/Machine/Lease.lean ====
section
/-! DEFINITION. Flow descriptors, leases and borrowed ranges, and blocks that join or leave service (R336, R349 to R356). -/
namespace Sys2Proof.Machine

/-! ### Flow descriptors (R336, R356) -/

/-- A value that MAP_FLOW reserves (R356): MSGMAX above 512 for C0 and above 4,096, a reserved CODEC, C2 and C3 without a
stream, and MSGMAX 0 in a valid descriptor (entry 57). -/
def flowReserved (v : Word) : Bool :=
  let c := F.MAP_FLOW_CLASS.of v
  let mx := F.MAP_FLOW_MSGMAX.of v
  let codec := F.MAP_FLOW_CODEC.of v
  (decide (c = 0) && decide (512 < mx)) || codecReserved codec || (decide (2 ≤ c) && decide (codec = 0)) || decide (4096 < mx)
    || (bitOf v 0 && decide (mx = 0))

/-- A write to MAP_FLOW[f]. -/
def State.actFlow (s : State) (m : Master) (f : Nat) (v : Word) : State :=
  let off := Reg.MAP_FLOW.off 0 f
  if flowReserved v then s.ctlErr m true .reserved off
  else if f = 0 then (if bitOf v 0 then s.ctlErr m true .stateRule off else s)
  else if s.flag F.MAP_FLOW_V 0 f then
    if bitOf v 0 then s.ctlErr m true .stateRule off
    else s.setFabric { s.fabric with flowClr := s.fabric.flowClr ++ [f] }
  else s.wr .MAP_FLOW (v &&& Reg.MAP_FLOW.row.rw) 0 f

/-- FLOW_DESCRIPTOR_WRITE (R336). -/
def execFlowDescriptorWrite (m : Master) (f : Fin 4096) (v : Word) (s : State) : Host.Outcome State Fault Refusal :=
  .next (s.ctlW m .MAP_FLOW 0 f.val (fun s => s.actFlow m f.val v))

/-! ### Leases at the lender (R349 to R352) -/

/-- A write to MAP_LEASEA[i]: an entry that is not IDLE takes only RECALL, and that once (R350, R352). Only V := 0 frees a
recalled entry (R351). -/
def State.actLeaseA (s : State) (m : Master) (i : Nat) (v : Word) : State :=
  let off := Reg.MAP_LEASEA.off 0 i
  let st := s.fld F.MAP_LEASEA_STATE 0 i
  let x := s.leaseX i
  if 2 ≤ F.MAP_LEASEA_MODE.of v then s.ctlErr m true .reserved off
  else if st ≠ 0 then
    if bitOf v 6 ∧ st = 1 ∧ !x.recallDue then s.setLeaseX i { x with recallDue := true, frame := s.frame }
    else s.ctlErr m true .stateRule off
  else if bitOf v 6 then s.ctlErr m true .stateRule off
  else
    let row := Reg.MAP_LEASEA.row
    let old := s.rd .MAP_LEASEA 0 i
    let s := s.wr .MAP_LEASEA ((v &&& row.rw) ||| (old &&& row.w1c &&& ~~~v)) 0 i
    s.setLeaseX i { grantDue := bitOf v 5 && bitOf v 0 && decide (F.MAP_LEASEA_MODE.of v = 0), recallDue := false,
                    drainedIn := false, recalled := x.recalled && bitOf v 0, frame := s.frame }

/-- A write to MAP_LEASEB[i]. -/
def State.actLeaseB (s : State) (m : Master) (i : Nat) (v : Word) : State :=
  if s.fld F.MAP_LEASEA_STATE 0 i ≠ 0 then s.ctlErr m true .stateRule (Reg.MAP_LEASEB.off 0 i)
  else s.wr .MAP_LEASEB (v &&& Reg.MAP_LEASEB.row.rw) 0 i

/-- GRANT (R350): the entry is written as it stands, with GRANT. -/
def execGrant (m : Master) (i : Fin 64) (s : State) : Host.Outcome State Fault Refusal :=
  .next (s.ctlW m .MAP_LEASEA 0 i.val (fun s =>
    s.actLeaseA m i.val (setBit (s.rd .MAP_LEASEA 0 i.val &&& Reg.MAP_LEASEA.row.rw) 5 true)))

/-- RECALL (R351, R352). -/
def execRecall (m : Master) (i : Fin 64) (s : State) : Host.Outcome State Fault Refusal :=
  .next (s.ctlW m .MAP_LEASEA 0 i.val (fun s =>
    s.actLeaseA m i.val (setBit (s.rd .MAP_LEASEA 0 i.val &&& Reg.MAP_LEASEA.row.rw) 6 true)))

/-- The lender's message to the borrower of a lease. -/
def State.tellBorrower (s : State) (i : Nat) (op : FabOp) : State :=
  s.sendLease op (s.fld F.MAP_LEASEA_BNODE 0 i) (s.fld F.MAP_LEASEB_BASE 0 i * 4096)

/-- A recall is confirmed: the entry is IDLE, and the borrower's requests are refused as withdrawn. -/
def State.confirmRecall (s : State) (i : Nat) : State :=
  ((s.tellBorrower i .confirm).setFld F.MAP_LEASEA_STATE 0 0 i).setLeaseX i
    { s.leaseX i with recallDue := false, drainedIn := false, recalled := true }

/-- The tick: grants take effect (R350). -/
def State.leaseTick (s : State) : State :=
  (s.fabric.lease.filter (fun e => e.2.grantDue)).foldl (fun s e =>
    ((s.setFld F.MAP_LEASEA_STATE 1 0 e.1).setLeaseX e.1 { e.2 with grantDue := false, recalled := false }).tellBorrower
      e.1 .leaseGrant) s

/-- 20 ns after the tick: recalls start, and those whose DRAINED has arrived are confirmed (R351). -/
def State.leaseTwenty (s : State) : State :=
  s.fabric.lease.foldl (fun s e =>
    let st := s.fld F.MAP_LEASEA_STATE 0 e.1
    if st = 1 ∧ e.2.recallDue ∧ e.2.frame.toNat < s.frame.toNat then
      ((s.setFld F.MAP_LEASEA_STATE 2 0 e.1).setLeaseX e.1 { e.2 with recallDue := false, frame := s.frame }).tellBorrower e.1
        .recallNotice
    else if st = 2 ∧ e.2.drainedIn then s.confirmRecall e.1
    else s) s

/-- FORCED_RECALL_CONFIRM (R351): 64 frames after the recall began. -/
def execForcedRecallConfirm (i : Fin 64) (s : State) : Host.Outcome State Fault Refusal :=
  let n := i.val
  .next <|
    if s.live && s.fld F.MAP_LEASEA_STATE 0 n == 2 && !(s.leaseX n).drainedIn
        && decide ((s.leaseX n).frame.toNat + 64 ≤ s.frame.toNat) then
      ((s.confirmRecall n).setFld F.MAP_LEASEA_FORCED 1 0 n).record { kind := 0x14, target := 154, sev := 2 }
    else s

/-! ### Borrowed ranges (R350, R351) -/

/-- A write to MAP_BORROWA[j]: the hardware sets a valid entry ACTIVE. -/
def State.actBorrowA (s : State) (j : Nat) (v : Word) : State :=
  let s := s.wr .MAP_BORROWA (setBits (v &&& Reg.MAP_BORROWA.row.rw) 2 1 (if bitOf v 0 then 1 else 0)) 0 j
  s.setFabric { s.fabric with noticed := s.fabric.noticed.filter (fun k => decide (k ≠ j)) }

/-- 20 ns after the tick: the ranges of the notices that have arrived drain (R351). -/
def State.borrowTwenty (s : State) : State :=
  (s.fabric.noticed.foldl (fun s j => s.setFld F.MAP_BORROWA_STATE 2 0 j) s).setFabric { s.fabric with noticed := [] }

/-- An address at the lender lies in borrowed range j. -/
def State.inBorrow (s : State) (j dst a : Nat) : Bool :=
  let sz := 2 ^ s.fld F.MAP_BORROWA_SIZE 0 j
  s.fld F.MAP_BORROWA_LNODE 0 j == dst && a / sz == s.fld F.MAP_BORROWB_BASE 0 j * 4096 / sz

/-- LEASE_DRAINED (R351): no access to the draining range is outstanding. -/
def execLeaseDrained (j : Fin 64) (s : State) : Host.Outcome State Fault Refusal :=
  let n := j.val
  let mine (r : FabReq) : Bool := !isLease r.op && s.inBorrow n r.dst.toNat r.addr.toNat
  .next <|
    if s.live && s.fld F.MAP_BORROWA_STATE 0 n == 2 && !s.fabric.outs.any (fun o => mine o.req)
        && !s.fabric.flowQ.any (fun q => q.2.any mine) then
      (s.setFld F.MAP_BORROWA_STATE 3 0 n).sendLease .drained (s.fld F.MAP_BORROWA_LNODE 0 n)
        (s.fld F.MAP_BORROWB_BASE 0 n * 4096)
    else s

/-! ### Joining and leaving (R353, R354) -/

/-- A write to MAP_SVCCTL (R353, R356). An INDEX past the last block of its KIND is taken as a reserved encoding (entry
142). -/
def State.actSvc (s : State) (m : Master) (v : Word) : State :=
  let op := F.MAP_SVCCTL_OP.of v
  let k := F.MAP_SVCCTL_KIND.of v
  let i := F.MAP_SVCCTL_INDEX.of v
  let off := Reg.MAP_SVCCTL.off 0 0
  if op = 0 ∨ op = 3 ∨ k = 3 ∨ (k = 0 ∧ 32 ≤ i) ∨ (k = 1 ∧ 16 ≤ i) ∨ (k = 2 ∧ 144 ≤ i) then s.ctlErr m true .reserved off
  else if s.fld F.MAP_SVCSTAT_STATE ≠ 0 then s.ctlErr m true .stateRule off
  else
    let s := ((s.setFld F.MAP_SVCSTAT_STATE 1).setFld F.MAP_SVCSTAT_KIND k).setFld F.MAP_SVCSTAT_INDEX i
    let s := s.setFld F.MAP_SVCSTAT_FRAME (s.frame.toNat % 2 ^ 32)
    s.setFabric { s.fabric with svc := some ⟨decide (op = 2), k, i, s.frame, false⟩ }

/-- LEAVE (R353). -/
def execLeave (m : Master) (v : Word) (s : State) : Host.Outcome State Fault Refusal :=
  .next (s.ctlW m .MAP_SVCCTL 0 0 (fun s => s.actSvc m v))

/-- JOIN (R353). -/
def execJoin (m : Master) (v : Word) (s : State) : Host.Outcome State Fault Refusal :=
  .next (s.ctlW m .MAP_SVCCTL 0 0 (fun s => s.actSvc m v))

/-- A write to MAP_SVCSTAT: DONE clears; FAILED clears and returns STATE to idle (R356). -/
def State.actSvcStat (s : State) (v : Word) : State :=
  let s := if bitOf v 16 then s.setFld F.MAP_SVCSTAT_DONE 0 else s
  if bitOf v 17 then
    let s := s.setFld F.MAP_SVCSTAT_FAILED 0
    if s.fld F.MAP_SVCSTAT_STATE = 3 then s.setFld F.MAP_SVCSTAT_STATE 0 else s
  else s

/-- A thread is drained: it waits in WFI with no vector deliverable (R354, entry 50). -/
def State.threadDrained (s : State) (t : Nat) : Bool := decide ((s.thread t).run = .waiting) && (s.nextVec t true).isNone

/-- A leaving block is drained (R354). -/
def State.drained (s : State) (kind i : Nat) : Bool :=
  match kind with
  | 0 => (List.range 16).all (fun h => s.threadDrained (16 * i + h))
      && (List.range 256).all (fun l => s.fld F.MAP_SLICE_CUR 0 l / 8 != i && s.fld F.MAP_SLICE_TARGET 0 l / 8 != i)
      && (List.range 8).all (fun c => !s.flag F.CL_SRLCTL_READY i c && !(s.core (8 * i + c)).srlLoading)
  | 1 => (List.range 8).all (fun e => (s.engine (8 * i + e)).job.isNone)
  | _ => (s.port i).egress.isEmpty && (s.port i).sending.isEmpty

/-- A joining block is ready (R354). -/
def State.joinReady (s : State) (kind i : Nat) : Bool :=
  match kind with
  | 0 => s.domOn (clDom i)
  | 1 => s.domOn (sgDom i)
  | _ => s.linkUp i

/-- SERVICE_DRAIN_DONE (R354). -/
def execServiceDrainDone (s : State) : Host.Outcome State Fault Refusal :=
  .next <|
    match s.fabric.svc with
    | none => s
    | some x =>
      if !x.join && s.fld F.MAP_SVCSTAT_STATE == 2 && s.drained x.kind x.index then
        s.setFabric { s.fabric with svc := some { x with ready := true } }
      else s

/-- SERVICE_READY (R354). -/
def execServiceReady (s : State) : Host.Outcome State Fault Refusal :=
  .next <|
    match s.fabric.svc with
    | none => s
    | some x =>
      if x.join && s.fld F.MAP_SVCSTAT_STATE == 2 && s.joinReady x.kind x.index then
        s.setFabric { s.fabric with svc := some { x with ready := true } }
      else s

/-- A block goes into or out of service at its confirm (R353, R354). -/
def State.setService (s : State) (kind i : Nat) (on : Bool) : State :=
  match kind with
  | 0 => s.wr .MAP_INSVCA (setBit (s.rd .MAP_INSVCA) i on)
  | 1 =>
    let s := s.wr .MAP_INSVCA (setBit (s.rd .MAP_INSVCA) (32 + i) on)
    if on then s.setFld F.SG_STAT_INSVC 0xFF i
    else
      let s := (s.setFld F.SG_STAT_INSVC 0 i).wr .SG_TIODRV 0 i
      (List.range 8).foldl (fun s t => (s.setFld F.SG_TMRCTL_EN 0 i t).timerStop i t) s
  | _ =>
    let s := s.wr .MAP_INSVCP (setBit (s.rd .MAP_INSVCP 0 (i / 64)) (i % 64) on) 0 (i / 64)
    if on then s else (s.setPfld F.LE_PORTCFG_EN i 0).linkOff i

/-- The tick acts on the join or leave in progress: marking, draining, and the confirm once it is ready (R353). -/
def State.svcTick (s : State) : State :=
  match s.fabric.svc with
  | none => s
  | some x =>
    let n := x.frame.toNat + 1
    if s.frame.toNat = n then
      if x.join then s else s.setFabric { s.fabric with leaving := (x.kind, x.index) :: s.fabric.leaving }
    else if s.frame.toNat = n + 1 then s.setFld F.MAP_SVCSTAT_STATE 2
    else if n + 2 ≤ s.frame.toNat ∧ x.ready then
      let s := s.setService x.kind x.index x.join
      let s := (s.setFld F.MAP_SVCSTAT_STATE 0).setFld F.MAP_SVCSTAT_DONE 1
      s.setFabric { s.fabric with svc := none, leaving := s.fabric.leaving.filter (fun e => decide (e ≠ (x.kind, x.index))) }
    else s

/-- SERVICE_OPERATION_TIMEOUT (R353): the tick of frame n + 1,024 has come. -/
def execServiceOperationTimeout (s : State) : Host.Outcome State Fault Refusal :=
  .next <|
    match s.fabric.svc with
    | none => s
    | some x =>
      if x.frame.toNat + 1025 ≤ s.frame.toNat then
        let s := (s.setFld F.MAP_SVCSTAT_STATE 3).setFld F.MAP_SVCSTAT_FAILED 1
        let s := s.setFabric { s.fabric with svc := none, leaving := s.fabric.leaving.filter (fun e => decide (e ≠ (x.kind, x.index))) }
        s.record { kind := 0x15, target := 154, sev := 1, detail := (if x.join then 2 else 1) + 4 * x.kind + 256 * x.index }
      else s

/-! ### The tick -/

/-- Descriptors whose V was cleared become invalid at the tick, whether or not the plan is fresh (R336, entry 57). -/
def State.flowTick (s : State) : State :=
  (s.fabric.flowClr.foldl (fun s f => s.setFld F.MAP_FLOW_V 0 0 f) s).setFabric { s.fabric with flowClr := [] }

/-- What the tick does to the fabric service. -/
def State.fabricTick (s : State) : State := s.flowTick.leaseTick.svcTick

/-- What the 20 ns point does: quotas count afresh (R356), recalls go on. -/
def State.fabricTwenty (s : State) : State :=
  ((s.setFabric { s.fabric with used := [] }).leaseTwenty).borrowTwenty

end Sys2Proof.Machine
end

