-- ==== Sys2Proof/Machine/Pcie.lean ====
section
/-! DEFINITION. PCI Express and CXL.io: requests that arrive from a link, and accesses of cores that leave by one
(R120, R222, R316 to R318). -/
namespace Sys2Proof.Machine

/-- Link k is a root port: its MODE is not 0b00, and its even neighbour is not x16 (R315, R317). -/
def State.linkPresent (s : State) (k : Nat) : Bool :=
  s.domOn (leDom (2 * k)) && s.fld F.LE_PCIECFG_MODE (2 * k) != 0 &&
    (k % 2 == 0 || !s.flag F.LE_PCIECFG_X16 (2 * (k - 1)))

/-! ### Requests that arrive (R318) -/

/-- The lowest-numbered window of a link that matches an address: the window and the global address. -/
def State.pcieWindow (s : State) (k : Nat) (a : Word) : Option (Nat × Word) :=
  let b := 2 * k
  let lo (w : Nat) : Nat := s.fld F.LE_PCIEWIN_PBASE b w * 4096
  match firstIdx 8 (fun w => s.flag F.LE_PCIEWIN_V b w &&
      decide (lo w ≤ a.toNat ∧ a.toNat < lo w + 2 ^ s.fld F.LE_PCIEWIN_SIZE b w)) with
  | none => none
  | some w => some (w, BitVec.ofNat 64 (s.fld F.LE_PCIEWTGT_GBASE b w * 4096 + (a.toNat - lo w)))

/-- The cluster whose CL_IRAISE a global address is (R120, R132). -/
def State.iraiseAt (s : State) (ga : Word) : Option Nat :=
  if !s.ownNode (nodeOf ga) ∨ localOf ga < ctlBase then none
  else (List.range 32).find? (fun n => decide (localOf ga - ctlBase = Reg.CL_IRAISE.off n 0) && s.domOn (clDom n))

/-- The packet that an inbound request is treated as: no compression record (R254). -/
def pciePacket (ga : Word) (tid : Nat) (r : PcieReq) : Packet where
  dst := BitVec.ofNat 12 (nodeOf ga)
  src := 0
  cls := 2
  flow := 0
  tid := Fin.ofNat 1024 tid
  op := if r.write then .write else .readReq
  tcode := 1
  codec := 0
  y := false
  addr := BitVec.ofNat 52 (localOf ga)
  hops := 0
  len := r.size
  tag := 0
  resp := 0
  reason := 0
  deferK := 0
  bad := false
  dataOk := true
  aop := 0
  payload := r.data

/-- A root port's record changes; containment takes the link out of L0 (R316). -/
def State.setRoot (s : State) (k : Nat) (x : Config.RootPort) : State :=
  s.setLink k { s.link k with root := x, l0 := (s.link k).l0 && !Config.rootContains x }

/-- A refused request: an access to no memory (R218); a read completes with Unsupported Request, a posted write is
discarded and logged in the root port's AER registers, which may contain the port (R316, R318). -/
def State.pcieRefuse (s : State) (k tid : Nat) (a : Word) (r : PcieReq) : State :=
  let s := s.noMemory tid a
  if r.write then s.setRoot k { (s.link k).root with aer := (s.link k).root.aer ++ [(r.addr, r.size.toNat)] }
  else s.emit (.pcie k .unsupported false [])

/-- A request that has passed its window. -/
def State.pcieServe (s : State) (k : Fin 8) (tid : Nat) (ga : Word) (r : PcieReq) : State :=
  let n := r.size.toNat
  let p := pciePacket ga tid r
  if s.held tid then (if r.write then s else s.emit (.pcie k.val .abort false []))
  else match s.space ga with
    | .mem a _ => s.enter (.pcie k) p tid ((piecesOf 256 a n).map (fun x => (x.1, x.1 - a, x.2)))
    | .fabric d a => s.issueOut ⟨.pcie k, BitVec.ofNat 12 d, BitVec.ofNat 52 a, Fin.ofNat 1024 tid, p.op, false, false, 0, r.size, 0, r.data⟩
    | _ => s.pcieRefuse k.val tid ga r

/-- PCIE_INBOUND_REQUEST (R318); a 32-bit write to CL_IRAISE is an MSI (R120, R316). -/
def execPcieInboundRequest (k : Fin 8) (r : PcieReq) (s : State) : Host.Outcome State Fault Refusal :=
  .next <|
    if !s.live || !s.linkPresent k.val || !(s.link k.val).l0 then s
    else match s.pcieWindow k.val r.addr with
      | none => s.pcieRefuse k.val 0 r.addr r
      | some (w, ga) =>
        let tid := s.fld F.LE_PCIEWTGT_TID (2 * k.val) w
        if r.write ∧ !s.flag F.LE_PCIEWIN_W (2 * k.val) w then s.pcieRefuse k.val tid ga r
        else match s.iraiseAt ga with
          | some cl => if r.write ∧ r.size = 4 then s.actRaise cl (((r.data[0]?).getD 0).setWidth 32 |>.setWidth 64)
            else s.pcieRefuse k.val tid ga r
          | none => s.pcieServe k tid ga r

/-! ### Accesses of cores (R222, R317) -/

/-- How an access to the ECAM or to an aperture goes: refused (R222), answered at once, or a read that awaits its
completion. -/
inductive PcieOutcome where
  | refuse
  | done (v : Word)
  | wait
deriving DecidableEq, Repr

/-- The link behind whose root port a bus number lies: secondary to subordinate (R317). -/
def State.linkOfBus (s : State) (bus : Nat) : Option Nat :=
  firstIdx 8 (fun k =>
    let b := (s.link k).bus.toNat
    s.linkPresent k && decide (b / 2 ^ 8 % 2 ^ 8 ≤ bus ∧ bus ≤ b / 2 ^ 16 % 2 ^ 8 ∧ b / 2 ^ 8 % 2 ^ 8 ≠ 0))

/-- A request leaves by a link; a read awaits its completion for a thread. -/
def State.pcieSend (s : State) (t k : Nat) (cfg : Bool) (addr : Word) (n : Nat) (w : Option Word) : PcieOutcome × State :=
  let s := s.emit (.pcieReq k cfg w.isSome addr n (w.getD 0))
  match w with
  | some _ => (.done 0, s)
  | none => (.wait, s.setLink k { s.link k with outs := (s.link k).outs ++ [t] })

/-- An access to a root port's configuration space: its bus numbers, otherwise registers that PCI Express defines, which
follow from what the port holds and from the writes it has taken (R316, entry 65). -/
def State.rootPort (s : State) (k o n : Nat) (w : Option Word) : PcieOutcome × State :=
  let here := decide (0x18 ≤ o ∧ o + n ≤ 0x1C)
  let x := s.link k
  let sh := 8 * (o - 0x18)
  match w with
  | some v =>
    if here then
      let m : BitVec 32 := BitVec.ofNat 32 ((2 ^ (8 * n) - 1) * 2 ^ sh)
      (.done 0, s.setLink k { x with bus := (x.bus &&& ~~~m) ||| ((v.setWidth 32 <<< sh) &&& m) })
    else (.done 0, s.setRoot k { x.root with writes := (o, n, v) :: x.root.writes })
  | none =>
    if here then (.done (BitVec.ofNat 64 (x.bus.toNat / 2 ^ sh % 2 ^ (8 * n))), s)
    else (.done (BitVec.ofNat 64 (packed 8 ((List.range n).map (fun i => (Config.rootReg x.l0 x.root (o + i)).toNat)))), s)

/-- A configuration access (R317): a function that does not exist reads as all ones and ignores writes. -/
def State.ecam (s : State) (t x n : Nat) (w : Option Word) : PcieOutcome × State :=
  let bus := x / 2 ^ 20
  if n = 8 ∨ x % n ≠ 0 then (.refuse, s)
  else if bus = 0 then
    let k := x / 2 ^ 15 % 32
    if x / 2 ^ 12 % 8 = 0 ∧ k < 8 ∧ s.linkPresent k then s.rootPort k (x % 2 ^ 12) n w
    else (.done (BitVec.ofNat 64 (2 ^ (8 * n) - 1)), s)
  else match s.linkOfBus bus with
    | some k => s.pcieSend t k true (BitVec.ofNat 64 x) n w
    | none => (.done (BitVec.ofNat 64 (2 ^ (8 * n) - 1)), s)

/-- An access to a link's aperture leaves as address LE_PCIEOB.BASE × 2^36 + x (R317). -/
def State.aperture (s : State) (t k x n : Nat) (w : Option Word) : PcieOutcome × State :=
  if x % n ≠ 0 then (.refuse, s)
  else s.pcieSend t k false (BitVec.ofNat 64 (s.fld F.LE_PCIEOB_BASE (2 * k) * 2 ^ 36 + x)) n w

/-- A control-space offset lies in the ECAM or in an aperture (R220). -/
def pcieSpace (off : Nat) : Bool :=
  decide (0x8000_0000 ≤ off ∧ off < 0x9000_0000) || decide (0x80_0000_0000 ≤ off ∧ off < 0x100_0000_0000)

/-- An access of a core to them, of n bytes. -/
def State.pcieAccess (s : State) (t off n : Nat) (w : Option Word) : PcieOutcome × State :=
  if off < 0x9000_0000 then s.ecam t (off - 0x8000_0000) n w
  else s.aperture t ((off - 0x80_0000_0000) / 2 ^ 36) ((off - 0x80_0000_0000) % 2 ^ 36) n w

/-- An outstanding read of a thread at a link is over. -/
def State.pcieOver (s : State) (k t : Nat) : State :=
  s.setLink k { s.link k with outs := (s.link k).outs.erase t }

/-- PCIE_COMPLETION_RECEIVE (R317). -/
def execPcieCompletionReceive (k : Fin 8) (t : Th) (st : CplStatus) (v : Word) (s : State) :
    Host.Outcome State Fault Refusal :=
  .next <|
    if s.live && (s.link k.val).outs.contains t.val then
      let s := s.pcieOver k.val t.val
      if st = .success then s.awaitDone t.val v false else s.awaitCheck t.val
    else s

/-- PCIE_COMPLETION_TIMEOUT (R317). -/
def execPcieCompletionTimeout (k : Fin 8) (t : Th) (s : State) : Host.Outcome State Fault Refusal :=
  .next (if s.live && (s.link k.val).outs.contains t.val then (s.pcieOver k.val t.val).awaitCheck t.val else s)

end Sys2Proof.Machine
end

