-- ==== Sys2Proof/Machine/Security.lean ====
section
/-! DEFINITION. Tenant and link keys, signed images, Thistle alarms and holds, the zeroize wires and the TRNG (R386 to
R412). -/
namespace Sys2Proof.Machine

/-! ### Key commands (R389 to R391) -/

/-- Whether a slot's domain is on: channels 0 to 15, host controllers 16 to 19. -/
def State.slotOn (s : State) (k : Nat) : Bool := if k < 16 then s.domOn (mcDom k) else s.domOn (3 + (k - 16))

/-- A slot of a TID is loaded somewhere. -/
def State.anyLoaded (s : State) (tid : Nat) : Bool := (List.range 20).any (fun k => s.keyLoaded k tid)

/-- Every slot of a TID whose domain is on is loaded. -/
def State.loadSlots (s : State) (tid : Nat) (v : BitVec 512) : State :=
  s.setSec { s.sec with slots := ((List.range 20).filter (fun k => s.slotOn k)).foldl (fun m k => mput m (k * 1024 + tid) v) s.sec.slots }

/-- Every slot of a TID is erased. -/
def State.eraseSlots (s : State) (tid : Nat) : State :=
  s.setSec { s.sec with slots := mkeep s.sec.slots (fun i => i % 1024 != tid) }

/-- Words i to i + n - 1 of THS_KEYBUF as one number, and back. -/
def State.keyBuf (s : State) : Nat := packed 64 ((List.range 13).map (fun i => (s.rd .THS_KEYBUF 0 i).toNat))

def State.setKeyBuf (s : State) (x : Nat) : State :=
  (List.range 13).foldl (fun s i => s.wr .THS_KEYBUF (BitVec.ofNat 64 (piece 64 x i)) 0 i) s

/-- The header of a wrapped blob (R390). -/
def blobHeader (tid : Nat) (epoch : BitVec 32) : Word := BitVec.ofNat 64 (1 + tid * 2 ^ 16 + epoch.toNat * 2 ^ 32)

/-- A wrapped blob: header, nonce, four zero bytes, ciphertext, tag (R390). -/
def wrapBlob (kwk : BitVec 256) (h : Word) (nonce : BitVec 96) (keys : BitVec 512) : Nat :=
  let ct := keys ^^^ Config.gcmStream kwk nonce
  h.toNat + nonce.toNat * 2 ^ 64 + ct.toNat * 2 ^ 192 + (Config.gcmTag kwk h nonce ct).toNat * 2 ^ 704

/-- The keys of a blob whose tag is right. -/
def unwrapBlob (kwk : BitVec 256) (x : Nat) : Option (BitVec 512) :=
  let h : Word := BitVec.ofNat 64 x
  let nonce := BitVec.ofNat 96 (x / 2 ^ 64)
  let ct := BitVec.ofNat 512 (x / 2 ^ 192)
  if BitVec.ofNat 128 (x / 2 ^ 704) = Config.gcmTag kwk h nonce ct then some (ct ^^^ Config.gcmStream kwk nonce) else none

/-- n draws of the TRNG as one number. -/
def State.draws (s : State) (n : Nat) : Nat × State :=
  (List.range n).foldl (fun acc _ =>
    let (w, s) := acc.2.trng64
    (acc.1 * 2 ^ 64 + w.toNat, s)) (0, s)

/-- GENERATE-TENANT: its RESULT (R389). -/
def State.genTenant (s : State) (tid : Nat) : Nat × State :=
  if tid = 0 then (7, s)
  else if s.anyLoaded tid then (2, s)
  else if s.flag F.THS_STAT_TRNGFAIL then (6, s)
  else
    let (k, s) := s.draws 8
    let (n, s) := s.draws 2
    let keys := BitVec.ofNat 512 k
    (1, (s.loadSlots tid keys).setKeyBuf (wrapBlob (s.sec.kwk.getD 0) (blobHeader tid (s.keepRd 6)) (BitVec.ofNat 96 n) keys))

/-- IMPORT-TENANT: its RESULT (R389). -/
def State.importTenant (s : State) (tid : Nat) : Nat × State :=
  let x := s.keyBuf
  let ht := x / 2 ^ 16 % 1024
  if tid = 0 ∨ ht = 0 then (7, s)
  else match unwrapBlob (s.sec.kwk.getD 0) x with
    | none => (4, s)
    | some k =>
      if ht ≠ tid then (4, s)
      else if x / 2 ^ 32 % 2 ^ 32 ≠ (s.keepRd 6).toNat then (5, s)
      else if s.anyLoaded tid then (2, s)
      else (1, s.loadSlots tid k)

/-- The key in THS_KEYBUF[0] to [3]. -/
def State.bufKey (s : State) : BitVec 256 := BitVec.ofNat 256 s.keyBuf

/-- Port p is lane 0 of an Ethernet link (R389, R312). -/
def State.sakPort (s : State) (p : Nat) : Bool := decide (p < 144) && s.ethPort p

/-- What a key command does: its RESULT (R389). -/
def State.keyOp (s : State) (r : KeyRun) : Nat × State :=
  match r.op with
  | 1 => s.genTenant r.tid
  | 2 => s.importTenant r.tid
  | 3 => if r.tid = 0 then (7, s) else if s.anyLoaded r.tid then (1, s.eraseSlots r.tid) else (3, s)
  | 4 => (1, s.setSec { s.sec with rack := some s.bufKey })
  | 5 => if s.sakPort r.port then
      (1, s.setPort r.port { s.port r.port with sak := mput (s.port r.port).sak r.an s.bufKey }) else (8, s)
  | _ => if s.sakPort r.port then
      (1, s.setPort r.port { s.port r.port with sak := merase (s.port r.port).sak r.an }) else (8, s)

/-- A write to THS_KEYCMD (R389, R411, R412). -/
def State.actKeyCmd (s : State) (m : Master) (v : Word) : State :=
  let op := F.THS_KEYCMD_OP.of v
  let off := Reg.THS_KEYCMD.off 0 0
  if m ≠ .keeper then s.ctlErr m true .master off
  else if s.flag F.THS_KEYSTAT_BUSY then s.ctlErr m true .stateRule off
  else if op = 0 ∨ 6 < op then s.ctlErr m true .reserved off
  else
    let s := (s.setFld F.THS_KEYSTAT_BUSY 1).setFld F.THS_KEYSTAT_RESULT 0
    s.setSec { s.sec with running := some ⟨op, F.THS_KEYCMD_TID.of v, F.THS_KEYCMD_PORT.of v, F.THS_KEYCMD_AN.of v⟩ }

/-- The word that gives a key command. -/
def keyCmd (op tid port an : Nat) : Word := BitVec.ofNat 64 (op + tid * 2 ^ 16 + port * 2 ^ 32 + an * 2 ^ 40)

/-- GENERATE_TENANT (R389). -/
def execGenerateTenant (m : Master) (tid : Fin 1024) (s : State) : Host.Outcome State Fault Refusal :=
  .next (s.ctlW m .THS_KEYCMD 0 0 (fun s => s.actKeyCmd m (keyCmd 1 tid.val 0 0)))

/-- IMPORT_TENANT (R389). -/
def execImportTenant (m : Master) (tid : Fin 1024) (s : State) : Host.Outcome State Fault Refusal :=
  .next (s.ctlW m .THS_KEYCMD 0 0 (fun s => s.actKeyCmd m (keyCmd 2 tid.val 0 0)))

/-- ERASE_TENANT (R389). -/
def execEraseTenant (m : Master) (tid : Fin 1024) (s : State) : Host.Outcome State Fault Refusal :=
  .next (s.ctlW m .THS_KEYCMD 0 0 (fun s => s.actKeyCmd m (keyCmd 3 tid.val 0 0)))

/-- LOAD_RACK (R389). -/
def execLoadRack (m : Master) (s : State) : Host.Outcome State Fault Refusal :=
  .next (s.ctlW m .THS_KEYCMD 0 0 (fun s => s.actKeyCmd m (keyCmd 4 0 0 0)))

/-- LOAD_SAK (R389). -/
def execLoadSak (m : Master) (port : BitVec 8) (an : Fin 4) (s : State) : Host.Outcome State Fault Refusal :=
  .next (s.ctlW m .THS_KEYCMD 0 0 (fun s => s.actKeyCmd m (keyCmd 5 0 port.toNat an.val)))

/-- ERASE_SAK (R389). -/
def execEraseSak (m : Master) (port : BitVec 8) (an : Fin 4) (s : State) : Host.Outcome State Fault Refusal :=
  .next (s.ctlW m .THS_KEYCMD 0 0 (fun s => s.actKeyCmd m (keyCmd 6 0 port.toNat an.val)))

/-- KEY_COMMAND_DONE (R389, R450): after any operation but GENERATE-TENANT the buffer is cleared. -/
def execKeyCommandDone (s : State) : Host.Outcome State Fault Refusal :=
  .next <|
    match s.sec.running with
    | none => s
    | some r =>
      let (res, s) := s.keyOp r
      let s := if r.op = 1 then s else s.setKeyBuf 0
      let s := (s.setFld F.THS_KEYSTAT_BUSY 0).setFld F.THS_KEYSTAT_RESULT res
      (s.setSec { s.sec with running := none }).keeperInt 5

/-! ### Images (R394, R395) -/

/-- Where the plaintext of an image goes: Keeper RAM at a byte offset, or the shadow bank of an engine at a word. -/
inductive ImgDest where
  | ram (off : Nat)
  | shadow (le word : Nat)
deriving DecidableEq, Repr

/-- The destinations that THS_IMGDST may name, and their capacity in bytes: Keeper local addresses of its RAM, and shadow
control-store apertures by Keeper local or global address (R327, R395, R449). -/
def State.imgDest (s : State) (v : Word) : Option (ImgDest × Nat) :=
  let a := v.toNat
  let off : Option Nat :=
    if 0x8000_0000 ≤ a ∧ a < 0x1_0000_0000 then some (a - 0x8000_0000)
    else if s.ownNode (nodeOf v) ∧ ctlBase ≤ localOf v then some (localOf v - ctlBase) else none
  if 0x10_0000 ≤ a ∧ a < 0x30_0000 then some (.ram (a - 0x10_0000), 0x30_0000 - a)
  else match off with
    | none => none
    | some o =>
      let x := o % 0x100_0000
      if Win.le.base 0 ≤ o ∧ o < Win.le.base 36 ∧ 0x10_0000 ≤ x ∧ x < 0x14_0000 ∧ x % 8 = 0 then
        some (.shadow ((o - Win.le.base 0) / 0x100_0000) ((x - 0x10_0000) / 8), 0x14_0000 - x)
      else none

/-- The checks of R395 before the payload is decrypted: the RESULT of the first that fails. IFMIN and IFMAX are zero fields
where TYPE is not 3 (R394). -/
def State.imgHeader (s : State) (i : Image) : Option Nat :=
  let t := i.type.toNat
  let ifOk := decide (i.ifMin.toNat ≤ s.fld F.KPR_IFVER_UCIF_MAX ∧ s.fld F.KPR_IFVER_UCIF_MIN ≤ i.ifMax.toNat ∧
    s.keepFld 1 11 8 ≤ i.ifMax.toNat)
  if !i.magicOk ∨ t = 0 ∨ 3 < t ∨ !i.zerosOk ∨ (t ≠ 3 ∧ (i.ifMin ≠ 0 ∨ i.ifMax ≠ 0)) then some 2
  else if i.step.toNat ≠ getBits (s.rd .KPR_DEVID) 23 8 then some 3
  else if 3 < i.keyIdx.toNat ∨ (s.keepRd 7).toNat.testBit i.keyIdx.toNat ∨ !i.hashOk then some 4
  else if !i.sigOk then some 5
  else if i.svn.toNat < (s.keepRd (8 + (t - 1))).toNat then some 6
  else if t = 3 ∧ !ifOk then some 7
  else none

/-- The RESULT of a verification into a place of a capacity; none: no permitted destination. -/
def State.imgResult (s : State) (i : Image) (cap : Option Nat) : Nat :=
  match s.imgHeader i with
  | some r => r
  | none =>
    if !i.tagOk then 8
    else match cap with
      | none => 9
      | some n => if n < i.len.toNat then 9 else 1

/-- Words of Keeper RAM, from a byte offset; the array's 64-bit words are written (R414, R421, R449). -/
def State.kramPut (s : State) (off : Nat) (ws : List Word) : State :=
  (List.range ws.length).foldl (fun s i =>
    let w := (ws[i]?).getD 0
    let k := off / 4 + 2 * i
    (({ s with kram := mset (mset s.kram k (w.setWidth 32) 0) (k + 1) ((w >>> 32).setWidth 32) 0 }).arrWrite 148 0 (k / 2)).storeResv (ramGran 512 (4 * k))) s

/-- Microwords of the shadow bank, two words each; while a switch is armed the write is discarded and logged (R323). -/
def State.shadowPut (s : State) (n word : Nat) (ws : List Word) : State :=
  if s.flag F.LE_UCSWSTAT_ARMED n then s.ctlErr .keeper true .stateRule (Win.le.base n + 0x10_0000 + 8 * word)
  else
    let s := (List.range ((ws.length + 1) / 2)).foldl (fun s i =>
      s.ucPut n (1 - s.leBank n) (word / 2 + i) (((ws[2 * i + 1]?).getD 0) ++ ((ws[2 * i]?).getD 0))) s
    s.setFld F.LE_STAT_MIRRORED 0 n

/-- Words are written at a destination. -/
def State.imgWrite (s : State) (d : ImgDest) (ws : List Word) : State :=
  match d with
  | .ram o => s.kramPut o ws
  | .shadow n w => s.shadowPut n w ws

/-- The words of a payload of LEN bytes. -/
def imgWords (i : Image) : List Word :=
  (List.range ((i.len.toNat + 7) / 8)).map (fun k => (i.payload[k]?).getD 0)

/-- The outcome of a verification into a destination: nothing written, zeros over what was written, or the plaintext; an
engine notes whether its shadow aperture was verified (R395, R435). -/
def State.imgFinish (s : State) (i : Image) (d : Option (ImgDest × Nat)) : Nat × State :=
  let r := s.imgResult i (d.map (fun x => x.2))
  let s := match d with
    | none => s
    | some (x, cap) =>
      if r = 1 then s.imgWrite x (imgWords i)
      else if r = 8 then s.imgWrite x (List.replicate ((min i.len.toNat cap + 7) / 8) 0)
      else s
  let s := match d with
    | some (.shadow n _, _) => s.setLe n { s.le n with verified := r == 1 && !s.flag F.LE_UCSWSTAT_ARMED n }
    | _ => s
  (r, s)

/-- A write to THS_IMGCMD (R395, R411, R412). -/
def State.actImgCmd (s : State) (m : Master) (v : Word) : State :=
  let off := Reg.THS_IMGCMD.off 0 0
  if m ≠ .keeper then s.ctlErr m true .master off
  else if !bitOf v 0 then s
  else if s.flag F.THS_IMGSTAT_BUSY then s.ctlErr m true .stateRule off
  else
    let s := (s.setFld F.THS_IMGSTAT_BUSY 1).setFld F.THS_IMGSTAT_RESULT 0
    s.setSec { s.sec with verifying := true }

/-- VERIFY_IMAGE (R395). -/
def execVerifyImage (m : Master) (s : State) : Host.Outcome State Fault Refusal :=
  .next (s.ctlW m .THS_IMGCMD 0 0 (fun s => s.actImgCmd m 1))

/-- IMAGE_VERIFY_DONE (R395, R450). -/
def execImageVerifyDone (img : Image) (s : State) : Host.Outcome State Fault Refusal :=
  .next <|
    if s.sec.verifying then
      let (r, s) := s.imgFinish img (s.imgDest (s.rd .THS_IMGDST))
      let s := (s.setFld F.THS_IMGSTAT_BUSY 0).setFld F.THS_IMGSTAT_RESULT r
      let s := (s.setFld F.THS_IMGSTAT_TYPE img.type.toNat).setFld F.THS_IMGSTAT_SVN img.svn.toNat
      (s.setSec { s.sec with verifying := false }).keeperInt 5
    else s

/-! ### The alarm log (R405) -/

/-- The words of entry e of the log, whether it holds a worn word, its SOURCE and its SEQ. -/
def alogWord (e : Nat) : Nat := 256 + 2 * e
def State.alogWorn (s : State) (e : Nat) : Bool := s.keepWorn (alogWord e) || s.keepWorn (alogWord e + 1)
def State.alogSource (s : State) (e : Nat) : Nat := s.keepFld (alogWord e) 3 0
def State.alogSeq (s : State) (e : Nat) : Nat := s.keepFld (alogWord e) 31 16

/-- The entry after e, those with a worn word passed over. -/
def State.alogNext (s : State) (e : Nat) : Nat :=
  (((List.range 64).map (fun k => (e + 1 + k) % 64)).find? (fun i => !s.alogWorn i)).getD e

/-- The newest entry (entry 20 for worn ones). -/
def State.alogNewest (s : State) : Option Nat :=
  firstIdx 64 (fun e => !s.alogWorn e && s.alogSource e != 0 &&
    (let n := s.alogNext e
     s.alogSource n == 0 || s.alogSeq n != (s.alogSeq e + 1) % 65536 || n == e))

/-- Where the next alarm goes, and its SEQ; none where every entry holds a worn word (R404). -/
def State.alogPlace (s : State) : Option (Nat × Nat) :=
  match s.alogNewest with
  | some e => some (s.alogNext e, (s.alogSeq e + 1) % 65536)
  | none => (firstIdx 64 (fun e => !s.alogWorn e)).map (fun e => (e, 1))

/-- An alarm is logged, or only counted: one entry per source in 1 ms (R405). Either way it sets THS_STAT.ALARM and
interrupts Keeper (R398). -/
def State.logAlarm (s : State) (src level detail : Nat) : State :=
  let s := (s.setFld F.THS_STAT_ALARM 1).keeperInt 1
  let recent := match mget s.sec.lastLog src with
    | some t => decide (s.aoTime < t + 100000)
    | none => false
  match recent, s.alogPlace with
  | false, some (e, q) =>
    let w := alogWord e
    let s := s.keepPut w (BitVec.ofNat 32 (src + level * 16 + detail % 256 * 256 + q * 65536))
    let s := s.keepPut (w + 1) (BitVec.ofNat 32 (getBits (s.rd .ENL_RTC) 46 15))
    s.setSec { s.sec with lastLog := mput s.sec.lastLog src s.aoTime }
  | _, _ => s.bump .THS_SRCCNT 0 src

/-! ### Levels (R398 to R400) -/

/-- A debug session ends (R458). -/
def State.endSession (s : State) : State := s.setBoard { s.board with session := none }

/-- Threads that debug has halted resume. -/
def State.resumeThreads (s : State) : State :=
  (s.threads.filter (fun e => decide (e.2.run = .halted))).foldl (fun s e =>
    s.setThread e.1 { s.thread e.1 with run := .running }) s

/-- TIDs are held: one, or all from 1 to 1,023 (R398). -/
def State.hold (s : State) (tid : Option Nat) : State :=
  let s := match tid with
    | some t => s.wr .THS_HOLDMAP (setBit (s.rd .THS_HOLDMAP 0 (t / 64)) (t % 64) true) 0 (t / 64)
    | none => (List.range 16).foldl (fun s k => s.wr .THS_HOLDMAP (if k = 0 then ~~~1#64 else BitVec.allOnes 64) 0 k) s
  (((s.setFld F.THS_STAT_HOLD 1).setFld F.THS_STAT_DBGLOCK 1).endSession).resumeThreads

/-- Every key of R386 that is not in fuses goes, with THS_KEYBUF and the TRNG's state (R400). -/
def State.eraseKeys (s : State) : State :=
  let s : State := { s with ports := s.ports.map (fun e => (e.1, { e.2 with keys := none, oldKeys := none, rekeyAt := none, sak := [] })) }
  (s.stopKeyWork.setKeyBuf 0).setSec { s.stopKeyWork.sec with kwk := none, rack := none, slots := [], challenge := none, trngFull := false }

/-- Level 3 (R400): work stops, freezes end without action (R292), links go DOWN (R409), the keys go, injections are
disarmed (R423), and the key epoch advances. -/
def State.eraseAlarm (s : State) : State :=
  let s := s.setSec { s.sec with erasing := true }
  let s := (List.range 144).foldl (fun s p => s.linkDown p false) ((List.range 16).foldl State.abortFreeze s)
  let s := (List.range 155).foldl State.disarm s.eraseKeys
  if s.keepWorn 6 then s else s.keepPut 6 (s.keepRd 6 + 1)

/-- An alarm of a source at a level (R398): a Level 2 hold names one TID or all. A Level 2 or 3 alarm wakes a Dormant
device (R409). -/
def State.alarm (s : State) (src level detail : Nat) (tid : Option Nat := none) : State :=
  if level = 3 then (s.eraseAlarm.logAlarm src 3 detail).wakeEvent 3
  else if level = 2 then ((s.hold tid).logAlarm src 2 detail).wakeEvent 3
  else s.logAlarm src 1 detail

/-- The level of sources 1 to 6 (R406). -/
def State.alarmLevel (s : State) (src : Nat) : Nat := s.keepFld 3 (2 * src + 1) (2 * src)

/-- Thistle runs: AO is up (R397), and no erased part waits to be switched off. -/
def State.thistle (s : State) : Bool := !s.sec.haltedOff

/-- A qualified source of KPR_ALARMMAP. -/
def State.source (s : State) (src detail : Nat) : State := if s.thistle then s.alarm src (s.alarmLevel src) detail else s

/-- LID_MESH_ALARM (R397, source 1). -/
def execLidMeshAlarm (detail : Byte) (s : State) : Host.Outcome State Fault Refusal := .next (s.source 1 detail.toNat)

/-- RAIL_GLITCH (R397, source 2). -/
def execRailGlitch (detail : Byte) (s : State) : Host.Outcome State Fault Refusal := .next (s.source 2 detail.toNat)

/-- CLOCK_GLITCH (R397, source 3). -/
def execClockGlitch (detail : Byte) (s : State) : Host.Outcome State Fault Refusal := .next (s.source 3 detail.toNat)

/-- TEMPERATURE_ALARM (R397, source 4). -/
def execTemperatureAlarm (detail : Byte) (s : State) : Host.Outcome State Fault Refusal := .next (s.source 4 detail.toNat)

/-- LIGHT_SENSOR_ALARM (R397, source 5). -/
def execLightSensorAlarm (detail : Byte) (s : State) : Host.Outcome State Fault Refusal := .next (s.source 5 detail.toNat)

/-- A write to THS_RAISE (R397, R398, R411, R412): source 8. -/
def State.actRaiseAlarm (s : State) (m : Master) (v : Word) : State :=
  let off := Reg.THS_RAISE.off 0 0
  let level := F.THS_RAISE_LEVEL.of v
  let all := bitOf v 2
  let tid := F.THS_RAISE_TID.of v
  if m ≠ .keeper ∧ m ≠ .cadence then s.ctlErr m true .master off
  else if level = 0 ∨ (level = 2 ∧ !all ∧ tid = 0) then s.ctlErr m true .reserved off
  else s.alarm 8 level (F.THS_RAISE_DETAIL.of v) (if all then none else some tid)

/-- FIRMWARE_ALARM (R397). -/
def execFirmwareAlarm (m : Master) (v : Word) (s : State) : Host.Outcome State Fault Refusal :=
  .next (s.ctlW m .THS_RAISE 0 0 (fun s => s.actRaiseAlarm m v))

/-- LEVEL3_ERASE_DONE (R400, R441): every array is clear, and the device starts again from Keeper ROM, or stays off. -/
def execLevel3EraseDone (s : State) : Host.Outcome State Fault Refusal :=
  .next <|
    if s.sec.erasing then
      let halt := s.keepFld 4 20 20 == 1
      let s := s.setSec { s.sec with erasing := false }
      let s : State := { s.enterReset .level3 with dirty := [] }
      let s := (s.setBoard { s.board with cache := false }).setFld F.THS_STAT_ERASED 1
      if halt then
        ((List.range 82).foldl (fun s d => s.setFld F.ENL_PWRCTL_STATE 0 0 (d + 1)) s).setSec { s.sec with haltedOff := true }
      else s.deriveKwk.tryStart
    else s

/-- A write to THS_HOLDCLR (R399, R411). -/
def State.actHoldClr (s : State) (m : Master) (v : Word) : State :=
  if m ≠ .keeper then s.ctlErr m true .master (Reg.THS_HOLDCLR.off 0 0)
  else
    let t := F.THS_HOLDCLR_TID.of v
    let s := if bitOf v 0 then ((List.range 16).foldl (fun s k => s.wr .THS_HOLDMAP 0 0 k) s).setFld F.THS_STAT_DBGLOCK 0
      else s.wr .THS_HOLDMAP (setBit (s.rd .THS_HOLDMAP 0 (t / 64)) (t % 64) false) 0 (t / 64)
    s.setFld F.THS_STAT_HOLD (b2n ((List.range 16).any (fun k => s.rd .THS_HOLDMAP 0 k != 0)))

/-- HOLD_RELEASE (R399). -/
def execHoldRelease (m : Master) (v : Word) (s : State) : Host.Outcome State Fault Refusal :=
  .next (s.ctlW m .THS_HOLDCLR 0 0 (fun s => s.actHoldClr m v))

/-! ### The zeroize wires (R401) -/

/-- An alarm of the wires, whose DETAIL the manual gives for the early release only: otherwise a free value. -/
def State.zeroizeAlarm (s : State) (level : Nat) : State :=
  let (w, s) := s.draw
  s.alarm 7 level (w.toNat % 256)

/-- The count has reached N with the second wire not asserted: Level 2 and DFAULT, once; the count then shows N while the
first wire stays asserted (R401, R412). -/
def State.zeroizeLate (s : State) : State :=
  if s.sec.zraised then s
  else (s.setSec { s.sec with zraised := true }).setFld F.THS_ZSTAT_DFAULT 1 |>.zeroizeAlarm 2

/-- A wire's state. -/
def State.setWire (s : State) (w : TickInput) (v : Bool) : State :=
  match w with
  | .a => (s.setSec { s.sec with wireA := v }).setFld F.THS_ZSTAT_WIREA (b2n v)
  | .b => (s.setSec { s.sec with wireB := v }).setFld F.THS_ZSTAT_WIREB (b2n v)

def State.wire (s : State) (w : TickInput) : Bool := match w with | .a => s.sec.wireA | .b => s.sec.wireB

/-- The other wire. -/
def otherWire (w : TickInput) : TickInput := match w with | .a => .b | .b => .a

/-- ZEROIZE_WIRE_ASSERT (R401): the first wire starts the count towards N; the second raises Level 3, after the Level 2
of a count that has reached N. -/
def execZeroizeWireAssert (wire : TickInput) (s : State) : Host.Outcome State Fault Refusal :=
  .next <|
    if !s.thistle || s.wire wire then s
    else
      let first := !s.wire (otherWire wire)
      let s := s.setWire wire true
      if first then s.setSec { s.sec with zrun := some (0, s.keepFld 4 13 0 * 10), zraised := false }
      else
        let s := match s.sec.zrun with
          | some (n, lim) => if lim ≤ n then s.zeroizeLate else s
          | none => s
        (s.setSec { s.sec with zrun := none, zraised := false }).zeroizeAlarm 3

/-- ZEROIZE_WIRE_RELEASE (R401): before the count reaches N, with the second wire not asserted, Level 1 with DETAIL 1. -/
def execZeroizeWireRelease (wire : TickInput) (s : State) : Host.Outcome State Fault Refusal :=
  .next <|
    if !s.thistle || !s.wire wire then s
    else
      let s := s.setWire wire false
      match s.sec.zrun with
      | some (n, lim) =>
        let s' := s.setSec { s.sec with zrun := none }
        if lim ≤ n then s'.zeroizeLate else s'.alarm 7 1 1
      | none => s

/-- ZEROIZE_DISCREPANCY (R401): the count has reached N with one wire asserted. -/
def execZeroizeDiscrepancy (s : State) : Host.Outcome State Fault Refusal :=
  .next <|
    match s.sec.zrun with
    | some (n, lim) => if s.thistle ∧ lim ≤ n then s.zeroizeLate else s
    | none => s

/-! ### The TRNG (R410, R459) -/

/-- A read that waited gets its word: an instruction completes; a low-word read of an AKZ32 core keeps the high word
(R4). -/
def State.trngDeliver (s : State) (m : Master) (half : Bool) (w : Word) : State :=
  let s : State := match pairOfMaster m with
    | some k => if half then s.setHalf k (.kept (Reg.THS_TRNG.off 0 0) ((w >>> 32).setWidth 32)) else s
    | none => s
  match Master.th m, pairOfMaster m with
  | some t, k =>
    if (s.thread t).await.isSome then s.awaitDone t w false
    else match k with
      | some k => if half then s.emit (.half k (w.setWidth 32)) else s.emit (.read m (Reg.THS_TRNG.off 0 0) w)
      | none => s.emit (.read m (Reg.THS_TRNG.off 0 0) w)
  | none, _ => s.emit (.read m (Reg.THS_TRNG.off 0 0) w)

/-- A read of THS_TRNG: a stopped TRNG gives zero with an error; a full one its bits, which are consumed; an empty one
makes the read wait. -/
def State.trngTake (s : State) (m : Master) : Option Word × State :=
  if s.flag F.THS_STAT_TRNGFAIL then (some 0, s.ctlErr m false .stateRule (Reg.THS_TRNG.off 0 0))
  else if s.sec.trngFull then
    let (w, s) := s.trng64
    (some w, s.setSec { s.sec with trngFull := false })
  else (none, s)

/-- The read of a master that no instruction makes, or that has waited. -/
def State.trngRead (s : State) (m : Master) (half : Bool) : State :=
  match s.trngTake m with
  | (some w, s) => s.trngDeliver m half w
  | (none, s) => s.setSec { s.sec with trngWait := s.sec.trngWait ++ [(m, half)] }

/-- TRNG_READ (R410). -/
def execTrngRead (m : Master) (s : State) : Host.Outcome State Fault Refusal :=
  .next <|
    if !s.live then s
    else if m = .debug ∧ !s.scope 0 then (s.ctlErr m false .master (Reg.THS_TRNG.off 0 0)).emit (.read m (Reg.THS_TRNG.off 0 0) 0)
    else s.trngRead m false

/-- TRNG_REFILL (R410): a read that waits is served. -/
def execTrngRefill (s : State) : Host.Outcome State Fault Refusal :=
  .next <|
    if s.flag F.THS_STAT_TRNGFAIL || s.sec.erasing || s.sec.trngFull then s
    else
      let s := s.setSec { s.sec with trngFull := true }
      match s.sec.trngWait with
      | [] => s
      | (m, half) :: rest => (s.setSec { s.sec with trngWait := rest }).trngRead m half

/-- TRNG_HEALTH_FAILURE (R410, R397 source 9): reads that wait get zero. -/
def execTrngHealthFailure (s : State) : Host.Outcome State Fault Refusal :=
  .next <|
    if !s.thistle || s.flag F.THS_STAT_TRNGFAIL then s
    else
      let ms := s.sec.trngWait
      let s := (s.setSec { s.sec with trngWait := [], trngFull := false }).setFld F.THS_STAT_TRNGFAIL 1
      let s := ms.foldl (fun s m => s.trngRead m.1 m.2) s
      let (w, s) := s.draw
      s.alarm 9 1 (w.toNat % 256)

end Sys2Proof.Machine
end

