-- ==== Sys2Proof/Machine/Ras.lean ====
section
/-! DEFINITION. Keep words, scrubbing, error injection, and the failure and restart of slices, clusters, cores, mesh
quadrants, threads and link engines (R241, R402 to R408, R413 to R440). -/
namespace Sys2Proof.Machine

/-! ### Keep words (R402 to R408) -/

/-- The offset of a Keep word in the Keeper window. -/
def keepOff (w : Nat) : Nat := 0x400 + 8 * w

/-- The bits of a Keep word that hold a field; none: a reserved word (R402, and the field tables of the words). -/
def keepMask (w : Nat) : Option (BitVec 32) :=
  if w = 0 then some 0xF07
  else if w = 1 then some 0xF0F
  else if w = 2 then some 0xFFFF0F
  else if w = 3 then some 0x80003FFC
  else if w = 4 then some 0x1F3FFF
  else if w = 5 then some 0xF
  else if w = 6 then some 0xFFFFFFFF
  else if w = 7 then some 0xF
  else if w ≤ 10 then some 0xFFFFFFFF
  else if 16 ≤ w ∧ w < 48 then some 0xFFFF
  else if 128 ≤ w ∧ w < 150 then some 0xFFFFFF
  else if 256 ≤ w ∧ w < 384 then some 0xFFFFFFFF
  else if 1024 ≤ w then some 0xFFFFFFFF
  else none

/-- Thistle writes the word (R402). -/
def keepThistle (w : Nat) : Bool := w == 5 || w == 6 || decide (256 ≤ w ∧ w < 384)

/-- A field of a Keep value. -/
def kf (v : BitVec 32) (hi lo : Nat) : Nat := getBits (v.setWidth 64) hi lo

/-- A value holds a reserved encoding (R35, R326, R406, R407). -/
def keepReserved (w : Nat) (v : BitVec 32) : Bool :=
  match w with
  | 0 => kf v 11 8 == 0
  | 1 => decide (kf v 2 0 < 2 ∨ 4 < kf v 2 0 ∨ kf v 11 8 = 0)
  | 3 => [1, 2, 3, 4, 5, 6].any (fun i => kf v (2 * i + 1) (2 * i) == 0)
  | 4 => decide (kf v 13 0 < 100 ∨ 10000 < kf v 13 0 ∨ kf v 19 16 = 0)
  | _ => false

/-- A write that a word's rule discards (R326, R396, R406, R436). -/
def keepForbidden (w : Nat) (old v : BitVec 32) : Bool :=
  if w = 1 then decide (kf v 2 0 < kf old 2 0 ∨ kf v 11 8 < kf old 11 8) || (old.getLsbD 3 && !v.getLsbD 3)
  else if w = 3 then
    old.getLsbD 31 && (!v.getLsbD 31 || [1, 2, 3, 4, 5, 6].any (fun i => decide (kf v (2 * i + 1) (2 * i) < kf old (2 * i + 1) (2 * i))))
  else if w = 7 then old &&& ~~~v != 0 || v == 0xF
  else if 8 ≤ w ∧ w ≤ 10 then decide (v.toNat < old.toNat)
  else if 16 ≤ w ∧ w < 48 then decide (kf old 15 8 &&& (255 - kf v 15 8) ≠ 0)
  else false

/-- A write to a Keep word (R402, R403); while 16 writes are queued it waits at the mesh stop (R404). -/
def State.actKeep (s : State) (m : Master) (w : Nat) (v : BitVec 32) : State :=
  let off := keepOff w
  match keepMask w with
  | none => s.ctlErr m true .noRegister off
  | some mask =>
    let v := v &&& mask
    let old := s.keepRd w
    if 16 ≤ s.keepQ.length then s.setBoard { s.board with keepWait := s.board.keepWait ++ [(m, w, v)] }
    else if m ≠ .keeper ∨ keepThistle w then s.ctlErr m true .master off
    else if s.keepWorn w then s.ctlErr m true .worn off
    else if keepReserved w v then s.ctlErr m true .reserved off
    else if keepForbidden w old v then s.ctlErr m true .stateRule off
    else
      let s := s.keepPut w v
      if w = 1 then s.linkPolicy old v else s

/-- KEEP_WORD_WRITE (R402). -/
def execKeepWordWrite (m : Master) (w : Fin 4096) (v : BitVec 32) (s : State) : Host.Outcome State Fault Refusal :=
  .next (s.gate m (keepOff w.val) (fun s => s.actKeep m w.val v))

/-- Writes that wait at the mesh stop are performed while there is room (R404). -/
def State.keepGo (s : State) : List (Master × Nat × BitVec 32) → State
  | [] => s
  | (m, w, v) :: r => (s.actKeep m w v).keepGo r

/-- KEEP_WRITE_PERSISTED (R404): the oldest queued write has reached the array, and the next one starts. -/
def execKeepWritePersisted (s : State) : Host.Outcome State Fault Refusal :=
  let s : State := { s with keepQ := s.keepQ.drop 1 }
  .next ((s.setBoard { s.board with keepWait := [] }).keepGo s.board.keepWait)

/-! ### Scrubbing (R418 to R420) -/

/-- The scrub assignment of a target in the plan in force: its first unit and count. -/
def State.scrubOf (s : State) (n : Nat) : Option (Nat × Nat) :=
  let o := 0x60_0000 + 8 * n
  let w := s.planWord o
  if s.planBad o ∨ !bitOf w 0 then none else some (getBits w 39 8, getBits w 51 40)

/-- A DRAM superline is read by the scrubber (R286, R288, R420): a device in error is corrected and the burst rewritten. -/
def State.scrubDram (s : State) (ch sl : Nat) : State :=
  let l := (s.chan ch).line sl
  if !s.chanUp ch ∨ l.code = 0 then s
  else
    let n := l.bursts.length
    let s := ((s.bumpBy .MC_BURSTRD n ch).charge 0 7 n false).cmdBursts ch cmdRd sl l.bursts
    let (bad, s) := s.burstsRead ch sl l.tid l.bad l.bursts
    let fixed := l.bursts.filter (fun j => mgetD l.bad j 0 == 1)
    let (b, s) := ((s.charge 0 7 fixed.length false).cmdBursts ch cmdWr sl fixed).burstsWritten ch fixed l.bad
    let s := s.setChan ch ((s.chan ch).putLine sl { l with bad := b })
    if bad.isEmpty then s else s.countUe ch

/-- An uncorrectable word of a private cache (R415): index i of array kind k of core c. -/
def State.scrubCache (s : State) (c k i tid : Nat) : State :=
  let unc (kind : Nat) (s : State) : State := s.arrUncorr kind (coreTarget c) (coreSub c k) i tid
  let x := s.core c
  match k with
  | 0 =>
    let st := mgetD x.l1i (i / 32) .empty
    unc 0x02 (s.setCore c { x with l1i := mput x.l1i (i / 32) { st with ways := merase st.ways (i / 8 % 4) } })
  | 1 =>
    match mget (mgetD x.l1d (i / 64) .empty).ways (i / 8 % 8) with
    | none => unc 0x02 s
    | some g => match s.l2Find c g with
      | some (w, e) =>
        if e.dirty then unc 0x03 (s.l2Put c w { e with poison := true }) else unc 0x02 (s.l1dDrop c g)
      | none => unc 0x02 (s.l1dDrop c g)
  | 2 =>
    match mget (mgetD x.l2 (i / 128) .empty).ways (i / 8 % 16) with
    | none => unc 0x02 s
    | some e =>
      if e.dirty then unc 0x03 (s.l2Put c (i / 8 % 16) { e with poison := true })
      else unc 0x02 ((s.l2Drop c e.gran).dirLeave (e.gran * 64) c)
  | 3 => unc 0x02 (s.setCore c (x.tlbDrop (i / 4) (i % 4)))
  | 4 => unc 0x02 (s.setCore c { x with walk := x.walk.eraseIdx i })
  | _ => unc 0x02 (s.setCore c (x.predDrop i))

/-- An uncorrectable word of an LLC slice (R415). A directory word stays as it is; whether the slice then fails is
reported by SLICE_FAILURE. -/
def State.scrubLlc (s : State) (p sub i : Nat) : State :=
  let unc (kind : Nat) (s : State) : State := s.arrUncorr kind (64 + p / 8) sub i 0
  if 8 ≤ sub then unc 0x03 s
  else
    let k := 384 * p + i / 512
    let w := i / 32 % 16
    let j := i / 8 % 4
    let st := mgetD s.llc k .empty
    match mget st.ways w with
    | none => unc 0x02 s
    | some e => match mget e.sec j with
      | none => unc 0x02 s
      | some x =>
        let put (sec : SMap Sector) : State := { s with llc := mput s.llc k { st with ways := mput st.ways w { e with sec := sec } } }
        if x.dirty then unc 0x03 (put (mput e.sec j { x with poison := true })) else unc 0x02 (put (merase e.sec j))

/-- A word of the crossbar buffer is uncorrectable: the packet that lies in its group is discarded and counted (R415). -/
def State.xbarLose (s : State) (i : Nat) : State :=
  let s : State := { s with errs := merase s.errs (errKey 152 0 i) }
  let here (w : Waiting) : Bool := w.word / 8 == i / 8
  if s.ports.any (fun e => e.2.egress.any here) then
    let s : State := { s with ports := s.ports.map (fun e => (e.1, { e.2 with egress := e.2.egress.filter (fun w => !here w) })) }
    s.bump .MAP_XBARDROPCNT
  else s

/-- A word of an array that the scrubber finds uncorrectable (R415). A plan word that is to come is judged when it becomes
current (R417). -/
def State.scrubBad (s : State) (n sub i : Nat) : State :=
  if n < 32 then
    match (mgetD (s.chan (n - 16)).md (mdSet (i / 8)) .empty).find (fun e => e.line == i / 8) with
    | some (_, e) => if e.dirty then s.freeze (n - 16) .mdUncorrectable (some (i / 8 * 128)) else s.arrUncorr 0x02 n sub i 0
    | none => s.arrUncorr 0x02 n sub i 0
  else if n < 64 then s.scrubCache (8 * (n - 32) + sub % 8) (sub / 8) i 0
  else if n < 96 then s.scrubLlc (8 * (n - 64) + sub % 8) sub i
  else if n < 112 then
    let e := 8 * (n - 96) + sub % 8
    if sub / 8 = 0 then (s.dmemRead e i 0).2.2
    else if sub / 8 < 3 then (s.progRead e (sub / 8) i 0).2.2
    else
      let x := s.engine e
      (s.setEngine e { x with cache := [] }).arrUncorr 0x02 n sub i 0
  else if n = 152 then s.xbarLose i
  else if n = 148 then s.lockstepFail true 0
  else if n = 150 then s
  else if n = 149 then s.lockstepFail false 0
  else s.arrCorrect n sub i 0

/-- The size of an array of a target other than DRAM in units of R418: 64-byte groups (R36, R103, R162 to R166, R232, R247,
R293, R348, R402, R449; a plan table counts both its banks), or microwords (R320). -/
def arrayUnits (n sub : Nat) : Nat :=
  let k := sub / 8
  if n < 32 then (if sub = 0 then 8704 + Config.scrubUnits n sub else 0)
  else if n < 64 then (if k < 2 then 1024 else if k = 2 then 32768 else if k < 6 then Config.scrubUnits n sub else 0)
  else if n < 96 then (if k = 0 then 24576 + Config.scrubUnits n sub else if k = 1 then Config.scrubUnits n sub else 0)
  else if n < 112 then (if k = 0 then 4096 else if k < 3 then 1024 else if k = 3 then 512 else 0)
  else if n < 148 then (if sub < 2 then 16384 else 0)
  else if n = 148 then (if sub = 0 then 32768 else 0)
  else if n = 149 then (if sub = 0 then 16384 else 0)
  else if n = 150 then (if sub < 6 then 32768 else 0)
  else if n = 151 then (if sub = 0 then 512 else 0)
  else if n = 152 then (if sub = 0 then 589824 else 0)
  else if n = 153 then (if sub < 4 then Config.scrubUnits n sub else 0)
  else 0

/-- The array and the unit in it that a unit of a target names: the arrays lie end to end in the order of SUB. -/
def unitPlace (n : Nat) : Nat → Nat → Nat → Option (Nat × Nat)
  | 0, _, _ => none
  | f + 1, sub, u =>
    if u < arrayUnits n sub then some (sub, u) else unitPlace n f (sub + 1) (u - arrayUnits n sub)

/-- A group of words of an array is read (R414, R415, R420). -/
def State.scrubWords (s : State) (n sub g : Nat) : State :=
  let ks := (s.errs.map (fun e => e.1)).filter (fun k => k / 2 ^ 40 == n && k / 2 ^ 32 % 2 ^ 8 == sub && k % 2 ^ 32 / 8 == g)
  ks.foldl (fun s k =>
    let i := k % 2 ^ 32
    match s.arrJudge n sub i with
    | (.corrected, s) => s.arrCorrect n sub i 0
    | (.uncorrectable, s) => s.scrubBad n sub i
    | (_, s) => s) s

/-- A microword of the active bank (SUB 0) or of the shadow bank is read (R322); an uncorrectable shadow word has no
outcome of its own. -/
def State.scrubStore (s : State) (n sub i : Nat) : State :=
  if sub = 0 then (if s.flag F.LE_STAT_HALTED n then s else (s.ucFetch n i).2)
  else
    let a := s.leBank n
    let y := (s.le n).word (1 - a) i
    if y.bad = 1 then (s.ucPut n (1 - a) i y.w).bump .LE_CSCECNT n else s

/-- SCRUB_READ (R420): a unit of the frame's assignment, until the seal deadline. -/
def execScrubRead (target : Fin 256) (unit : BitVec 32) (s : State) : Host.Outcome State Fault Refusal :=
  let n := target.val
  let u := unit.toNat
  .next <|
    match s.scrubOf n with
    | none => s
    | some (first, count) =>
      let done := mgetD s.scrubbed n []
      if !s.live ∨ s.tick.sealClosed ∨ u < first ∨ first + count ≤ u ∨ done.contains u then s
      else
        let s : State := { s with scrubbed := mput s.scrubbed n (u :: done) }
        if n < 16 then s.scrubDram n u
        else match unitPlace n 64 0 u with
          | none => s
          | some (sub, g) => if 112 ≤ n ∧ n < 148 then s.scrubStore (n - 112) sub g else s.scrubWords n sub g

/-- Units of the frame's assignments that are not done are dropped at the seal deadline (R420). -/
def State.scrubDeadline (s : State) : State :=
  let left := (List.range 155).filterMap (fun n => match s.scrubOf n with
    | none => none
    | some (_, c) => let d := c - (mgetD s.scrubbed n []).length; if d = 0 then none else some (n, d))
  if left.isEmpty then s
  else (left.foldl (fun s e => s.record { kind := 0x16, target := e.1, sev := 0, detail := e.2 }) s).bump .ERR_SCRUBMISSCNT

/-! ### Error injection (R421 to R423) -/

/-- A master that may write ERR_FLIPMASK and ERR_FLIPDATA. -/
def mayInject (m : Master) : Bool := match m with | .keeper => true | .debug => true | _ => false

/-- A write to ERR_FLIPMASK[n] (R421, R439): devices 10 to 14 are reserved. -/
def State.actFlipMask (s : State) (m : Master) (n : Nat) (v : Word) : State :=
  let off := Reg.ERR_FLIPMASK.off 0 n
  let bad (d : Nat) : Bool := decide (10 ≤ d ∧ d ≤ 14)
  if !mayInject m then s.ctlErr m true .master off
  else if bad (F.ERR_FLIPMASK_DEV0.of v) || bad (F.ERR_FLIPMASK_DEV1.of v) then s.ctlErr m true .reserved off
  else s.wr .ERR_FLIPMASK (v &&& Reg.ERR_FLIPMASK.row.rw) 0 n

/-- A write to ERR_FLIPDATA[n]. -/
def State.actFlipData (s : State) (m : Master) (n : Nat) (v : Word) : State :=
  let off := Reg.ERR_FLIPDATA.off 0 n
  if !mayInject m then s.ctlErr m true .master off
  else if s.flag F.ERR_FLIPMASK_ARM 0 n then s.ctlErr m true .stateRule off
  else s.wr .ERR_FLIPDATA v 0 n

/-- ARM_ERROR_INJECTION (R421). -/
def execArmErrorInjection (m : Master) (n : Fin 155) (v : Word) (s : State) : Host.Outcome State Fault Refusal :=
  .next (s.ctlW m .ERR_FLIPMASK 0 n.val (fun s => s.actFlipMask m n.val v))

/-! ### Slices (R241, R433) -/

/-- The lines and directory entries of logical slice l leave physical slice p: dirty sectors are written back, and the
entries go to where l's allocations go. -/
def State.sliceLeave (s : State) (l p : Nat) : State :=
  let mine (k n : Nat) : Bool := decide (n * p ≤ k ∧ k < n * (p + 1))
  let ls := (s.llc.filter (fun e => mine e.1 384)).flatMap (fun e => (e.2.ways.filter (fun w => w.2.lslice == l)).map (fun w => w.2))
  let s := ls.foldl (fun s e => s.llcFlush p e) s
  let s : State := { s with llc := s.llc.map (fun e =>
    if mine e.1 384 then (e.1, { e.2 with ways := e.2.ways.filter (fun w => w.2.lslice != l) }) else e) }
  let ds := (s.dir.filter (fun e => mine e.1 4096)).flatMap (fun e =>
    (e.2.ways.filter (fun w => sliceOf (w.2.gran * 64) == l)).map (fun w => w.2))
  let s : State := { s with dir := s.dir.map (fun e =>
    if mine e.1 4096 then (e.1, { e.2 with ways := e.2.ways.filter (fun w => sliceOf (w.2.gran * 64) != l) }) else e) }
  ds.foldl (fun s d => s.dirSetTo (d.gran * 64) d.st d.pinned) s

/-- No logical slice is homed at a physical slice, so it clears its record of TIDs with dirty data (R433). -/
def State.sliceEmptied (s : State) (p : Nat) : State :=
  if (List.range 256).any (fun l => s.fld F.MAP_SLICE_CUR 0 l == p) then s else { s with dirty := merase s.dirty p }

/-- SLICE_RETARGET_DONE (R241). -/
def execSliceRetargetDone (l : Fin 256) (s : State) : Host.Outcome State Fault Refusal :=
  let n := l.val
  .next <|
    if s.flag F.MAP_SLICE_BUSY 0 n then
      let cur := s.fld F.MAP_SLICE_CUR 0 n
      let s := s.sliceLeave n cur
      ((s.setFld F.MAP_SLICE_CUR (s.fld F.MAP_SLICE_TARGET 0 n) 0 n).setFld F.MAP_SLICE_BUSY 0 0 n).sliceEmptied cur
    else s

/-- The slice that takes the place of a failed one: the same slice of the next cluster in service. -/
def State.sliceSpare (s : State) (p : Nat) : Option Nat :=
  ((List.range 31).map (fun k => (p / 8 + 1 + k) % 32 * 8 + p % 8)).find? (fun q => s.sliceUp q)

/-- A logical slice moves away from a failed physical slice. -/
def State.sliceMove (s : State) (l p q : Nat) : State :=
  let cur := s.fld F.MAP_SLICE_CUR 0 l
  let s := ((s.setFld F.MAP_SLICE_TARGET q 0 l).setFld F.MAP_SLICE_BUSY 1 0 l)
  let s := if cur = p then s else s.sliceLeave l cur
  let s := (s.setFld F.MAP_SLICE_CUR q 0 l).setFld F.MAP_SLICE_BUSY 0 0 l
  s.setBoard { s.board with dirScan := if s.board.dirScan.contains l then s.board.dirScan else s.board.dirScan ++ [l] }

/-- A slice fails (R433): its tags are not read again, the TIDs whose dirty data it held are reported, and its logical
slices move. -/
def State.failSlice (s : State) (p : Nat) : State :=
  if s.board.sliceBad.contains p then s
  else
    let lost := mgetD s.dirty p 0
    let s := (List.range 16).foldl (fun s k =>
      s.wr .ERR_LOSTTID (s.rd .ERR_LOSTTID 0 k ||| (lost >>> (64 * k)).setWidth 64) 0 k) s
    let s := s.setFld F.ERR_STAT_LOSTDATA 1
    let s : State := { s with llc := dropRange s.llc (384 * p) (384 * (p + 1)), dir := dropRange s.dir (4096 * p) (4096 * (p + 1)) }
    let s := s.setBoard { s.board with sliceBad := s.board.sliceBad ++ [p] }
    let s := s.record { kind := 0x0A, target := 64 + p / 8, sub := p % 8, sev := 3 }
    match s.sliceSpare p with
    | none => s
    | some q =>
      (List.range 256).foldl (fun s l =>
        if s.fld F.MAP_SLICE_CUR 0 l = p ∨ (s.flag F.MAP_SLICE_BUSY 0 l ∧ s.fld F.MAP_SLICE_TARGET 0 l = p) then s.sliceMove l p q
        else s) s

/-- SLICE_FAILURE (R433). -/
def execSliceFailure (sl : Fin 256) (s : State) : Host.Outcome State Fault Refusal :=
  .next (if s.live then s.failSlice sl.val else s)

/-- DIRECTORY_REPORTS_COMPLETE (R433): every granule that an L2 holds and that is homed there has its entry. -/
def execDirectoryReportsComplete (l : Fin 256) (s : State) : Host.Outcome State Fault Refusal :=
  .next <|
    if s.board.dirScan.contains l.val then
      let gs := s.cores.flatMap (fun c => c.2.l2.flatMap (fun e => e.2.ways.map (fun w => w.2.gran)))
      let s := (gs.filter (fun g => sliceOf (g * 64) == l.val)).foldl (fun s g => s.dirReport (g * 64)) s
      s.setBoard { s.board with dirScan := s.board.dirScan.filter (fun x => x != l.val) }
    else s

/-! ### Clusters, cores and quadrants (R432 to R434, R437) -/

/-- A core leaves service: its threads stop, and ERR_CORESTAT shows it. -/
def State.coreOut (s : State) (c : Nat) : State :=
  let s := [thOf c 0, thOf c 1].foldl (fun s t => s.setThread t { s.thread t with run := .off, resv := none, hold := false }) s
  let s := s.setFld F.ERR_CORESTAT_INSVC (s.fld F.ERR_CORESTAT_INSVC 0 (c / 8) &&& (255 - 2 ^ (c % 8))) 0 (c / 8)
  s.setCore c { s.core c with failed := true }

/-- CORE_FAILURE (R437). -/
def execCoreFailure (c : Fin 256) (s : State) : Host.Outcome State Fault Refusal :=
  .next (if s.live && s.domOn (clDom (c.val / 8)) then s.coreOut c.val else s)

/-- A directory entry that names a failed cluster is resolved (R434): E is poisoned in the LLC, S loses the cluster. -/
def State.dirResolve (s : State) (cl : Nat) (d : DirEnt) : State :=
  let a := d.gran * 64
  match d.st with
  | .e c =>
    if c / 8 ≠ cl then s
    else
      let (x, s) : Sector × State := match s.l2Find c d.gran with
        | some (_, e) => (⟨e.data, true, true, e.tid, e.codec, e.y⟩, s)
        | none => (⟨0, true, true, 0, 0, false⟩, s)
      (s.dirErase a).llcDirty a c x
  | .s v =>
    if v.getLsbD cl then
      let v := v &&& ~~~(1#32 <<< cl)
      if v = 0 then s.dirErase a
      else match s.dirFind a with | some (p, w, e) => s.dirPut p a w { e with st := .s v } | none => s
    else s

/-- A cluster fails (R434). -/
def State.failCluster (s : State) (n : Nat) : State :=
  let s := s.wr .MAP_INSVCA (setBit (s.rd .MAP_INSVCA) n false)
  let s := (List.range 8).foldl (fun s i => s.failSlice (8 * n + i)) s
  let s := (List.range 8).foldl (fun s i => s.coreOut (8 * n + i)) s
  let ds := s.dir.flatMap (fun e => e.2.ways.map (fun w => w.2))
  let s := ds.foldl (fun s d => s.dirResolve n d) s
  let s := (List.range 8).foldl (fun s i => s.setCore (8 * n + i) { Core.initial with failed := true }) s
  s.record { kind := 0x0B, target := 32 + n, sev := 3 }

/-- CLUSTER_FAILURE (R434). -/
def execClusterFailure (cl : Fin 32) (s : State) : Host.Outcome State Fault Refusal :=
  .next (if s.live && s.domOn (clDom cl.val) then s.failCluster cl.val else s)

/-- A group of signal engines fails (R429): its jobs go. -/
def State.failGroup (s : State) (g : Nat) : State :=
  let s := s.setService 1 g false
  (List.range 8).foldl (fun s i =>
    let e := 8 * g + i
    match (s.engine e).job with
    | none => s
    | some j => ((s.dmaStopAll e).stale e j.outmask.toNat).engineRest e) s

/-- The quadrant of a stop (R228). -/
def quadOf (stop : Nat) : Nat := (if 60 ≤ stop then 2 else 0) + (if stop % 12 < 6 then 0 else 1)

/-- A mesh quadrant fails, and its blocks with it (R432). -/
def State.failQuadrant (s : State) (n : Nat) : State :=
  if s.board.meshOut.getLsbD n then s
  else
    let s := (s.setBoard { s.board with meshOut := s.board.meshOut ||| (1#4 <<< n) }).setFld F.ERR_STAT_MESHDEG 1
    let s := s.record { kind := 0x0C, target := 153, sub := n, sev := 3 }
    let s := (List.range 32).foldl (fun s c =>
      if quadOf (coreStop (16 * c)) = n ∧ s.domOn (clDom c) then s.failCluster c else s) s
    let s := (List.range 16).foldl (fun s g => if quadOf (sgStop g) = n ∧ s.domOn (sgDom g) then s.failGroup g else s) s
    let s := (List.range 16).foldl (fun s c => if quadOf (mcStop c) = n ∧ s.flag F.MC_STAT_INSVC c then s.retireChan c else s) s
    let s := (List.range 36).foldl (fun s i => s.linkOff (s.lane0 (36 * n + i))) s
    [2 * n, 2 * n + 1].foldl (fun s k => s.setLink k { s.link k with l0 := false }) s

/-- MESH_QUADRANT_FAILURE (R432). -/
def execMeshQuadrantFailure (q : Fin 4) (s : State) : Host.Outcome State Fault Refusal :=
  .next (if s.live then s.failQuadrant q.val else s)

/-- MESH_QUADRANT_REJOIN (R432). -/
def execMeshQuadrantRejoin (q : Fin 4) (s : State) : Host.Outcome State Fault Refusal :=
  .next <|
    if s.live && s.board.meshOut.getLsbD q.val then
      let s := s.setBoard { s.board with meshOut := s.board.meshOut &&& ~~~(1#4 <<< q.val) }
      s.setFld F.ERR_STAT_MESHDEG (b2n (s.board.meshOut != 0))
    else s

/-- The request that a requester waits for completes as poisoned (R416): the access of a thread, by its number, or the
DRAM-cache load of signal engine e, 0x8000 + e (entry 163). -/
def State.poisonFor (s : State) (id : Nat) : State :=
  if id < 514 then (if (s.thread id).await.isSome then s.awaitDone id 0 true else s)
  else if 0x8000 ≤ id ∧ id < 0x8080 then
    (if (s.engine (id - 0x8000)).miss.isEmpty then s else s.missFailed (id - 0x8000))
  else s

/-- MESH_REQUEST_REISSUE (R432): the lost request has gone again, or is lost a second time and completes as poisoned. -/
def execMeshRequestReissue (id : BitVec 16) (tid : Fin 1024) (lost : Bool) (s : State) : Host.Outcome State Fault Refusal :=
  .next (if s.live then
      let s := s.record { kind := 0x17, target := 153, sev := if lost then 2 else 1, tid := tid.val, detail := if lost then 2 else 1 }
      if lost then s.poisonFor id.toNat else s
    else s)

/-! ### Restarts (R434, R435) -/

/-- A write to ERR_THRCTL (R434, R439). -/
def State.actThrCtl (s : State) (m : Master) (v : Word) : State :=
  let t := F.ERR_THRCTL_THREAD.of v
  if !bitOf v 9 then s
  else if (s.thread t).run ≠ .stopped then s.ctlErr m true .stateRule (Reg.ERR_THRCTL.off 0 0)
  else s.startAt t (s.startPc t)

/-- RESTART_THREAD (R434). -/
def execRestartThread (m : Master) (v : Word) (s : State) : Host.Outcome State Fault Refusal :=
  .next (s.ctlW m .ERR_THRCTL 0 0 (fun s => s.actThrCtl m v))

/-- A link engine starts from its shadow bank: the banks swap, its threads start at microword 0, and its ports go from
DOWN (R435, R443). -/
def State.startLe (s : State) (n : Nat) : State :=
  let s := ((s.swapBanks n).setFld F.LE_STAT_MIRRORED 0 n).setFld F.LE_STAT_HALTED 0 n
  (List.range 4).foldl (fun s t => s.kick (4 * n + t)) s

/-- A write to ERR_LERESTART (R435, R439). -/
def State.actLeRestart (s : State) (m : Master) (v : Word) : State :=
  let n := F.ERR_LERESTART_ENGINE.of v
  let off := Reg.ERR_LERESTART.off 0 0
  if 36 ≤ n then s.ctlErr m true .reserved off
  else if !bitOf v 6 then s
  else if !s.flag F.LE_STAT_HALTED n || !(s.le n).verified then s.ctlErr m true .stateRule off
  else s.startLe n

/-- RESTART_LINK_ENGINE (R435). -/
def execRestartLinkEngine (m : Master) (v : Word) (s : State) : Host.Outcome State Fault Refusal :=
  .next (s.ctlW m .ERR_LERESTART 0 0 (fun s => s.actLeRestart m v))

end Sys2Proof.Machine
end

