-- ==== Sys2Proof/Machine/Boot.lean ====
section
/-! DEFINITION. Resets and starts, Keeper ROM, the boot lock point, thread and Cadence starts, management messages, JTAG and
debug sessions, supplies, reference clocks and temperature (R441 to R463, R466 to R485). -/
namespace Sys2Proof.Machine

/-! ### Reset and start (R441, R442, R466 to R469) -/

/-- A reset of every domain but AO, unless the device is already in reset. -/
def State.deviceReset (s : State) : State := if s.board.inReset then s else s.enterReset .device

/-- PWRGOOD_CHANGE (R442). -/
def execPwrgoodChange (high : Bool) (s : State) : Host.Outcome State Fault Refusal :=
  let s := s.setBoard { s.board with pwrgood := high, railDown := s.board.railDown && !high }
  .next (if high then s.tryStart else s.deviceReset)

/-- RESET_N_CHANGE (R442). -/
def execResetNChange (high : Bool) (s : State) : Host.Outcome State Fault Refusal :=
  let s := s.setBoard { s.board with resetN := high }
  .next (if high then s.tryStart else s.deviceReset)

/-- COLD_START (R441, R466): VAO and VIN_CORE come up. -/
def execColdStart (s : State) : Host.Outcome State Fault Refusal := .next s.coldReset.tryStart

/-- A supply fault of an external rail but VAO, or of both reference clocks (R469, R472): LASTFAULT names it. -/
def State.supplyReset (s : State) (code : Nat) : State :=
  let s := s.deviceReset.setFld F.KPR_SUPSTAT_LASTFAULT code
  let s := s.setBoard { s.board with railDown := s.board.railDown || code != 8 }
  if code = 1 then s.setSec { s.sec with haltedOff := false } else s

/-- A regulator output leaves its range: the domain fails (R429, R469). -/
def State.domainFault (s : State) (d : Nat) : State :=
  if !s.live ∨ !s.domOn d then s
  else if d = 0 then s
  else if d = 1 then s.lockstepFail true 0
  else if d = 2 then s.lockstepFail false 0
  else if d < 7 then s.failQuadrant (d - 3)
  else if d < 39 then s.failCluster (d - 7)
  else if d < 55 then s.failGroup (d - 39)
  else if d < 71 then (if s.flag F.MC_STAT_INSVC (d - 55) then s.retireChan (d - 55) else s)
  else [0, 1, 2].foldl (fun s k => let n := 3 * (d - 71) + k; if s.flag F.LE_STAT_HALTED n then s else s.haltLe n) s

/-- SUPPLY_FAULT (R468, R469). -/
def execSupplyFault (rail : Rail) (s : State) : Host.Outcome State Fault Refusal :=
  .next <| match rail with
  | .vao => s.coldReset
  | .vinCore => s.supplyReset 1
  | .vddq => s.supplyReset 3
  | .vsdA => s.supplyReset 4
  | .vsdH => s.supplyReset 5
  | .vio => s.supplyReset 6
  | .domain d => s.domainFault d.val

/-! ### Reference clocks and temperature (R472, R481, R485) -/

/-- The OK bit of a reference input. -/
def refOk (i : RefIn) : Fld := match i with | .a => F.KPR_SUPSTAT_REFA_OK | .b => F.KPR_SUPSTAT_REFB_OK
def refNo (i : RefIn) : Nat := match i with | .a => 0 | .b => 1
def otherRef (i : RefIn) : RefIn := match i with | .a => .b | .b => .a

/-- REFCLK_MISSING (R472): failover, or a hold where the other input is missing too. -/
def execRefclkMissing (inp : RefIn) (s : State) : Host.Outcome State Fault Refusal :=
  let s := s.setFld (refOk inp) 0
  .next <|
    if s.fld F.KPR_SUPSTAT_REFSEL ≠ refNo inp then s
    else if s.flag (refOk (otherRef inp)) then
      (s.setFld F.KPR_SUPSTAT_REFSEL (refNo (otherRef inp))).setFld F.KPR_SUPSTAT_FAILOVER 1
    else s.setBoard { s.board with refHold := true }

/-- REFCLK_RETURN (R472): within a hold the device selects the input that returns; a device that waits in reset for a clock
leaves reset. -/
def execRefclkReturn (inp : RefIn) (s : State) : Host.Outcome State Fault Refusal :=
  let s := s.setFld (refOk inp) 1
  .next (if s.board.refHold then (s.setBoard { s.board with refHold := false }).setFld F.KPR_SUPSTAT_REFSEL (refNo inp) else s.tryStart)

/-- REFCLK_HOLD_EXPIRY (R472). -/
def execRefclkHoldExpiry (s : State) : Host.Outcome State Fault Refusal :=
  .next (if s.board.refHold then (s.setBoard { s.board with refHold := false }).supplyReset 8 else s)

/-- THERMAL_TRIP (R481). -/
def execThermalTrip (s : State) : Host.Outcome State Fault Refusal :=
  .next ((s.setFld F.KPR_SUPSTAT_TTRIP 1).setFld F.KPR_SUPSTAT_THOT 1)

/-- THERMTRIP_N_RELEASE (R481): every sensor reads 105 °C or less. -/
def execThermtripNRelease (s : State) : Host.Outcome State Fault Refusal :=
  .next ((s.setFld F.KPR_SUPSTAT_TTRIP 0).setFld F.KPR_SUPSTAT_THOT 0)

/-! ### Keeper ROM (R443 to R445) -/

/-- The boot stops (R445): PQ00 to PQ11 are off. -/
def State.bootStop (s : State) (cause result : Nat) : State :=
  let s := (List.range 12).foldl (fun s i => if s.domOn (71 + i) then s.domainOff (71 + i) else s) s
  ((s.setFld F.KPR_BOOTSTAT_STAGE 3).setFld F.KPR_BOOTSTAT_CAUSE cause).setFld F.KPR_BOOTSTAT_RESULT result

/-- Keeper RAM where the firmware goes, at most 1 MiB (R443, R444). -/
def romDest : Option (ImgDest × Nat) := some (.ram 0, 0x10_0000)

/-- Step 3 from one slot: the RESULT. -/
def State.romVerify (s : State) (b : BootInput) (slot : Bool) : Nat × State :=
  s.imgFinish (if slot then b.slotB else b.slotA) romDest

/-- Step 3 (R443): the preferred slot, and with FALLBACK the other: the slot taken, or the last RESULT. -/
def State.romImage (s : State) (b : BootInput) (pref : Bool) : Sum Nat Bool × State :=
  match s.romVerify b pref with
  | (1, s) => (.inr pref, s)
  | (r, s) =>
    if s.keepFld 2 1 1 = 1 then
      match s.romVerify b (!pref) with
      | (1, s) => (.inr (!pref), s)
      | (r, s) => (.inl r, s)
    else (.inl r, s)

/-- Step 4 for the engines from n on (R443): a microcode image that fails gives its RESULT. -/
def State.romEngines (s : State) (ucs : List Image) (k n : Nat) : Option Nat × State :=
  match k with
  | 0 => (none, s)
  | k + 1 =>
    match ucs[n]? with
    | none => (some 2, s)
    | some i =>
      match s.imgFinish i (some (.shadow n 0, 0x4_0000)) with
      | (1, s) => (s.startLe n).romEngines ucs k (n + 1)
      | (r, s) => (some r, s)

/-- Step 4: PQ00 to PQ11 are switched on, and the engines start. -/
def State.romMicrocode (s : State) (ucs : List Image) : Option Nat × State :=
  ((List.range 12).foldl (fun s i => (s.domainOn (71 + i)).setFld F.ENL_PWRCTL_ON 1 0 (71 + i)) s).romEngines ucs 36 0

/-- Steps 3 and 4 are done: firmware is entered next. -/
def State.romDone (s : State) (slot : Bool) : State :=
  (s.setBoard { s.board with entry := true, cache := true, cacheSlot := slot }).setFld F.KPR_BOOTSTAT_SLOT (b2n slot)

/-- Step 3 where the image comes from the cache (R443): an empty cache holds no image. -/
def State.romCache (s : State) (b : BootInput) : Sum Nat Bool × State :=
  if s.board.cache then
    match s.romVerify b s.board.cacheSlot with
    | (1, s) => (.inr s.board.cacheSlot, s)
    | (r, s) => (.inl r, s)
  else (.inl 2, s)

/-- The core map that KPR_SPARE gives a cluster (R436, R437): failed cores that are no spares, in ascending order, are paired
with spares that have not failed; each spare serves the number of its partner, and unpaired ones serve none. -/
def coreMap (w : BitVec 32) : Word :=
  let spare (p : Nat) : Bool := w.getLsbD p
  let failed (p : Nat) : Bool := w.getLsbD (8 + p)
  let pairs := ((List.range 8).filter (fun p => failed p && !spare p)).zip ((List.range 8).filter (fun p => spare p && !failed p))
  let phys (c : Nat) : Nat := ((pairs.find? (fun e => e.1 == c)).map (fun e => e.2)).getD c
  let insvc (c : Nat) : Bool := (!spare c && !failed c) || pairs.any (fun e => e.1 == c)
  BitVec.ofNat 64 ((List.range 8).foldl (fun n c => n + b2n (insvc c) * 2 ^ c + phys c * 2 ^ (3 * c + 8)) 0)

/-- Keeper ROM sets the core maps (R437); a restart of Keeper alone leaves the running cores as they are (entry 167). -/
def State.romCores (s : State) : State :=
  if 4 ≤ s.board.kind then s
  else (List.range 32).foldl (fun s k =>
    let m := coreMap (s.keepRd (16 + k))
    if s.rd .ERR_CORESTAT 0 k = m then s else s.wr .ERR_CORESTAT m 0 k) s

/-- ROM runs its steps for a kind of start. -/
def State.romRun (s : State) (b : BootInput) : State :=
  let k := s.board.kind
  let cached := k == 3 || k == 5
  let s := (s.setFld F.KPR_BOOTSTAT_KIND k).romCores
  if !cached && k != 4 && !b.flashOk then s.bootStop 1 0
  else if !cached && !b.readOk then s.bootStop 2 0
  else
    let pref := if k = 4 then s.board.slot else s.keepFld 2 0 0 == 1
    match if cached then s.romCache b else s.romImage b pref with
    | (.inl r, s) => s.bootStop 3 r
    | (.inr slot, s) =>
      if k = 4 ∨ k = 5 then s.romDone slot
      else match s.romMicrocode (if slot then b.ucodeB else b.ucodeA) with
        | (some r, s) => s.bootStop 4 r
        | (none, s) => s.romDone slot

/-- KEEPER_ROM_BOOT (R443). -/
def execKeeperRomBoot (b : BootInput) (s : State) : Host.Outcome State Fault Refusal :=
  .next (if s.live ∧ s.board.romReady then (s.setBoard { s.board with romReady := false }).romRun b else s)

/-- KEEPER_FIRMWARE_ENTRY (R444, R463): at S, IE 0, g1 the kind and g2 the slot. -/
def execKeeperFirmwareEntry (s : State) : Host.Outcome State Fault Refusal :=
  .next <|
    if s.live ∧ s.board.entry then
      let s := (s.setBoard { s.board with entry := false }).startAt 512 0x10_0000
      let x := ((s.thread 512).setReg 1 (BitVec.ofNat 64 s.board.kind) false).setReg 2
        (BitVec.ofNat 64 (b2n s.board.cacheSlot)) false
      (s.setThread 512 x).setFld F.KPR_BOOTSTAT_STAGE (if s.board.locked then 2 else 1)
    else s

/-- KEEPER_LOCKSTEP_MISMATCH (R441, R429). -/
def execKeeperLockstepMismatch (s : State) : Host.Outcome State Fault Refusal :=
  .next (if s.live then s.lockstepFail true 0 else s)

/-! ### Lock point, threads, Cadence (R447, R448, R451, R453, R462) -/

/-- A write to KPR_BOOTCTL (R447). -/
def State.actBootCtl (s : State) (v : Word) : State :=
  if bitOf v 0 then (s.setBoard { s.board with locked := true, lockedAo := true }).setFld F.KPR_BOOTSTAT_STAGE 2 else s

/-- BOOT_LOCK (R447). -/
def execBootLock (m : Master) (s : State) : Host.Outcome State Fault Refusal :=
  .next (s.ctlW m .KPR_BOOTCTL 0 0 (fun s => s.actBootCtl 1))

/-- A write to CL_STARTPC of a device thread (R434, R447, R448). -/
def State.actStartPc (s : State) (m : Master) (t : Nat) (v : Word) : State :=
  if !bitOf v 0 then s.wr .CL_STARTPC (v &&& ~~~3#64) (t / 16) (t % 16)
  else if !s.board.locked || !bitOf (s.rd .MAP_INSVCA) (t / 16) || decide ((s.thread t).run ≠ .off) then
    s.ctlErr m true .stateRule (Reg.CL_STARTPC.off (t / 16) (t % 16))
  else (s.wr .CL_STARTPC (v &&& ~~~3#64) (t / 16) (t % 16)).startAt t (v &&& ~~~3#64)

/-- START_THREAD (R448). -/
def execStartThread (m : Master) (t : Fin 512) (v : Word) (s : State) : Host.Outcome State Fault Refusal :=
  .next (s.ctlW m .CL_STARTPC (t.val / 16) (t.val % 16) (fun s => s.actStartPc m t.val v))

/-- A write to KPR_RESTART (R451). -/
def State.actRestart (s : State) (v : Word) : State :=
  if bitOf v 0 then (s.setBoard { s.board with slot := bitOf v 1 }).keeperRestart .live else s

/-- LIVE_RESTART (R451). -/
def execLiveRestart (m : Master) (v : Word) (s : State) : Host.Outcome State Fault Refusal :=
  .next (s.ctlW m .KPR_RESTART 0 0 (fun s => s.actRestart v))

/-- The Cadence pair starts at local 0x0010_0000 with g1 = 4 (R453); after a lockstep mismatch LOCKSTEP is set (R46). -/
def State.cadencePairStart (s : State) : State :=
  let s := s.startAt 513 0x10_0000
  let s := s.setThread 513 ((s.thread 513).setReg 1 4 false)
  if s.board.cadFail then (s.setBoard { s.board with cadFail := false }).cadEvent F.CAD_STAT_LOCKSTEP else s

/-- A write to KPR_CADCTL (R453, R463). -/
def State.actCadCtl (s : State) (v : Word) : State :=
  let s := if bitOf v 0 then s.cadencePairStop else s
  if bitOf v 1 then s.cadencePairStart else s

/-- STOP_CADENCE (R453). -/
def execStopCadence (m : Master) (s : State) : Host.Outcome State Fault Refusal :=
  .next (s.ctlW m .KPR_CADCTL 0 0 (fun s => s.actCadCtl 1))

/-- START_CADENCE (R453). -/
def execStartCadence (m : Master) (s : State) : Host.Outcome State Fault Refusal :=
  .next (s.ctlW m .KPR_CADCTL 0 0 (fun s => s.actCadCtl 2))

/-- A write to CAD_DOORBELL (R462). -/
def State.actDoorbell (s : State) (m : Master) (v : Word) : State :=
  if m ≠ .keeper then s.ctlErr m true .master (Reg.CAD_DOORBELL.off 0 0)
  else if bitOf v 0 then s.cadenceInt 3 else s

/-- CADENCE_DOORBELL (R462). -/
def execCadenceDoorbell (m : Master) (v : Word) (s : State) : Host.Outcome State Fault Refusal :=
  .next (s.ctlW m .CAD_DOORBELL 0 0 (fun s => s.actDoorbell m v))

/-! ### Management bus and mailbox (R452, R454 to R456) -/

/-- Keeper firmware runs. -/
def State.firmwareUp (s : State) : Bool := s.live && decide ((s.thread 512).run = .running ∨ (s.thread 512).run = .waiting)

/-- The bytes of a message frame with a status (R455). -/
def frameBytes (msg : MgmtMsg) (status : Byte) : List Byte :=
  [msg.apiver, msg.op, msg.len.setWidth 8, (msg.len >>> 8).setWidth 8, msg.tag.setWidth 8, (msg.tag >>> 8).setWidth 8, status, 0]
    ++ msg.payload

/-- A response frame in KPR_MBOXRSP, and DONE (R455). -/
def State.mailboxAnswer (s : State) (msg : MgmtMsg) (status : Byte) : State :=
  let bs := frameBytes msg status
  let s := (List.range 32).foldl (fun s i =>
    s.wr .KPR_MBOXRSP (BitVec.ofNat 64 (packed 8 ((List.range 8).map (fun k => ((bs[8 * i + k]?).getD 0).toNat)))) 0 i) s
  (s.setFld F.KPR_MBOXDB_BUSY 0).setFld F.KPR_MBOXDB_DONE 1

/-- The header of the request in KPR_MBOXREQ, without payload. -/
def State.mailboxHeader (s : State) : MgmtMsg :=
  let w := s.rd .KPR_MBOXREQ 0 0
  ⟨byteOf w 0, byteOf w 1, 0, (w >>> 32).setWidth 16, []⟩

/-- A write to KPR_MBOXDB (R452, R455, R463): a request that finds no firmware is answered BUSY. -/
def State.actMboxDb (s : State) (m : Master) (v : Word) : State :=
  let n := F.KPR_MBOXDB_LEN.of v
  let off := Reg.KPR_MBOXDB.off 0 0
  if s.flag F.KPR_MBOXDB_BUSY then s.ctlErr m true .stateRule off
  else if n < 8 ∨ 256 < n then s.ctlErr m true .reserved off
  else if s.firmwareUp then (s.setFld F.KPR_MBOXDB_BUSY 1).keeperInt 7
  else s.mailboxAnswer s.mailboxHeader 1

/-- MAILBOX_DOORBELL (R455). -/
def execMailboxDoorbell (m : Master) (v : Word) (s : State) : Host.Outcome State Fault Refusal :=
  .next (s.ctlW m .KPR_MBOXDB 0 0 (fun s => s.actMboxDb m v))

/-- MAILBOX_RESPONSE (R455). -/
def execMailboxResponse (rsp : MgmtMsg) (status : Byte) (s : State) : Host.Outcome State Fault Refusal :=
  .next (if s.firmwareUp && s.flag F.KPR_MBOXDB_BUSY then s.mailboxAnswer rsp status else s)

/-- A response on the management bus: the request's header with a payload. -/
def State.mgmtAnswer (s : State) (msg : MgmtMsg) (status : Byte) (payload : List Byte) : State :=
  s.emit (.mgmt status { msg with len := BitVec.ofNat 16 payload.length, payload := payload })

/-- The bytes of a word. -/
def wordBytes (w : Word) : List Byte := (List.range 8).map (fun i => byteOf w i)

/-- Who answers R456's operations: ROM at API version 1 while the boot is stopped, or firmware, whose own versions and OP
bitmap are free values (entry 6). Otherwise BUSY (R445, R452, R456). -/
def State.answerOp (s : State) (msg : MgmtMsg) (payload : List Byte) : State :=
  let rom := s.live && s.fld F.KPR_BOOTSTAT_STAGE == 3
  if rom then
    if msg.apiver ≠ 1 then s.mgmtAnswer msg 3 [] else s.mgmtAnswer msg 0 payload
  else if s.firmwareUp then s.mgmtAnswer msg 0 payload
  else s.mgmtAnswer msg 1 []

/-- GET_VERSION (R456): lowest and highest API version, KPR_DEVID, KPR_SERIAL, 256-bit bitmap. -/
def State.getVersion (s : State) (msg : MgmtMsg) : State :=
  let (a, s) := s.draw
  let (b, s) := s.draw
  let (c, s) := s.draw
  let (d, s) := s.draw
  let (e, s) := s.draw
  let up := s.firmwareUp
  let hi : Byte := if up then e.setWidth 8 else 1
  let map := if up then [a ||| 0xE, b, c, d] else [0xE, 0, 0, 0]
  s.answerOp msg ([1, hi] ++ wordBytes (s.rd .KPR_DEVID) ++ wordBytes (s.rd .KPR_SERIAL) ++ map.flatMap wordBytes)

def execGetVersion (msg : MgmtMsg) (s : State) : Host.Outcome State Fault Refusal := .next (s.getVersion msg)

/-- GET_BOOTSTAT (R456). -/
def State.getBootstat (s : State) (msg : MgmtMsg) : State := s.answerOp msg (wordBytes (s.rd .KPR_BOOTSTAT))

def execGetBootstat (msg : MgmtMsg) (s : State) : Host.Outcome State Fault Refusal := .next (s.getBootstat msg)

/-- The bytes of a record of the ring; an index that holds none reads zero. -/
def State.recordBytes (s : State) (i : Nat) : List Byte :=
  match mget s.ring (i % 4096) with
  | some r => [0, 1, 2, 3].flatMap (fun k => wordBytes (r.word k))
  | none => List.replicate 32 0

/-- GET_RECORDS (R456): records from a first index. -/
def State.getRecords (s : State) (msg : MgmtMsg) (first count : Nat) : State :=
  s.answerOp msg ((List.range count).flatMap (fun i => s.recordBytes (first + i)))

def execGetRecords (msg : MgmtMsg) (first : Fin 4096) (count : Fin 8) (s : State) : Host.Outcome State Fault Refusal :=
  .next (s.getRecords msg first.val count.val)

/-- MANAGEMENT_BUS_MESSAGE (R445, R452, R454): firmware is interrupted; ROM answers the three operations it knows, whose
GET-RECORDS payload is first index and count, and BUSY otherwise. After an I3C message SMBus is no longer answered. -/
def execManagementBusMessage (i3c : Bool) (msg : MgmtMsg) (s : State) : Host.Outcome State Fault Refusal :=
  .next <|
    if !i3c && s.board.i3cOnly then s
    else
      let s := if i3c then s.setBoard { s.board with i3cOnly := true } else s
      if s.firmwareUp then s.keeperInt 6
      else if s.live && s.fld F.KPR_BOOTSTAT_STAGE == 3 then
        let b (i : Nat) : Nat := ((msg.payload[i]?).getD 0).toNat
        match msg.op with
        | 1 => s.getVersion msg
        | 2 => s.getBootstat msg
        | 3 => s.getRecords msg (b 0 + 256 * b 1) (min (b 2) 7)
        | _ => s.mgmtAnswer msg 1 []
      else s.mgmtAnswer msg 1 []

/-! ### JTAG and debug sessions (R407, R457, R458) -/

/-- A JTAG instruction is in force. -/
def State.setIr (s : State) (i : JtagIr) : State := s.setBoard { s.board with jtag := i }

/-- BYPASS (R457). -/
def execBypass (s : State) : Host.Outcome State Fault Refusal := .next ((s.setIr .bypass).emit (.jtag 1 0))

/-- IDCODE (R457). -/
def execIdcode (s : State) : Host.Outcome State Fault Refusal := .next ((s.setIr .idcode).emit (.jtag 32 0x2520_0147))

/-- SAMPLE_PRELOAD (R457): the boundary register's layout is not given. -/
def execSamplePreload (s : State) : Host.Outcome State Fault Refusal := .next (s.setIr .sample)

/-- EXTEST (R457, R458): without a session whose scope includes it, BYPASS. -/
def execExtest (s : State) : Host.Outcome State Fault Refusal :=
  .next (if s.scope 4 then s.setIr .extest else (s.setIr .bypass).emit (.jtag 1 0))

/-- DBGPORT (R457, R458): the transport of control-space accesses and halts, in a session with one of those scopes. -/
def execDbgport (s : State) : Host.Outcome State Fault Refusal :=
  .next (if s.scope 0 || s.scope 1 || s.scope 2 || s.scope 3 then s.setIr .dbgport else (s.setIr .bypass).emit (.jtag 1 0))

/-- Authentication is refused (R398, R452, R458). -/
def State.authRefused (s : State) : Bool :=
  s.flag F.THS_STAT_DBGLOCK || !s.firmwareUp || (!s.board.locked && s.keepFld 2 2 2 == 0)

/-- DEBUG_CHALLENGE (R458): 32 bytes of the TRNG, KPR_DEVID, KPR_SERIAL, 16 zero bytes. -/
def execDebugChallenge (s : State) : Host.Outcome State Fault Refusal :=
  .next <|
    if !s.firmwareUp then s
    else
      let (n, s) : Nat × State := if s.flag F.THS_STAT_TRNGFAIL then (0, s) else s.draws 4
      let c := BitVec.ofNat 256 n
      (s.setSec { s.sec with challenge := some c }).emit (.jtag 512
        (BitVec.ofNat 512 (n + (s.rd .KPR_DEVID).toNat * 2 ^ 256 + (s.rd .KPR_SERIAL).toNat * 2 ^ 320)))

/-- A failed authentication (R397, R404, R407). -/
def State.authFailed (s : State) : State :=
  let (w, s) := s.draw
  let n := s.keepFld 5 3 0 + 1
  if s.keepWorn 5 then s.source 6 (w.toNat % 256)
  else
    let s := s.keepPut 5 (BitVec.ofNat 32 n)
    if s.keepFld 4 19 16 ≤ n then
      let s := if s.keepWorn 5 then s else s.keepPut 5 0
      s.source 6 (w.toNat % 256)
    else s

/-- DEBUG_AUTH_RESPONSE (R458). -/
def execDebugAuthResponse (scope : BitVec 5) (keyIdx : Fin 4) (hashOk sigOk : Bool) (s : State) :
    Host.Outcome State Fault Refusal :=
  .next <|
    if s.sec.challenge.isNone || s.authRefused then s
    else
      let s := s.setSec { s.sec with challenge := none }
      if hashOk && sigOk && !(s.keepRd 7).toNat.testBit keyIdx.val then
        let s := if s.keepFld 5 3 0 = 0 ∨ s.keepWorn 5 then s else s.keepPut 5 0
        s.setBoard { s.board with session := some scope }
      else s.authFailed

/-- DEBUG_AUTH_TIMEOUT (R458). -/
def execDebugAuthTimeout (s : State) : Host.Outcome State Fault Refusal :=
  .next (if s.sec.challenge.isNone || s.authRefused then s else (s.setSec { s.sec with challenge := none }).authFailed)

/-- TRST_N_ASSERT (R457, R458). -/
def execTrstNAssert (s : State) : Host.Outcome State Fault Refusal := .next (s.endSession.setIr .idcode)

/-! ### Halting threads (R460) -/

/-- A thread halts at its commit point; an interrupt entry in progress is completed first. -/
def State.haltThread (s : State) (t : Nat) : State :=
  let s := match mget s.entering t with | some e => s.enterVec t e | none => s
  let x := s.thread t
  if x.run = .running ∨ x.run = .waiting then
    (s.setThread t { x with run := .halted, resv := none, hold := false }).wakeCore (coreOf t)
  else s

/-- HALT_THREAD (R460); no scope halts Keeper or Cadence (R458). -/
def execHaltThread (t : Th) (s : State) : Host.Outcome State Fault Refusal :=
  let off := Reg.CL_STARTPC.off (t.val / 16) (t.val % 16)
  .next (if akz32 t.val then (if s.live then s.ctlErr .debug true .master off else s)
    else s.mayHalt 2 off (fun s => s.haltThread t.val))

/-- RELEASE_THREAD (R460). -/
def execReleaseThread (t : Th) (s : State) : Host.Outcome State Fault Refusal :=
  let off := Reg.CL_STARTPC.off (t.val / 16) (t.val % 16)
  .next (if akz32 t.val then (if s.live then s.ctlErr .debug true .master off else s)
    else s.mayHalt 2 off (fun s =>
      if (s.thread t.val).run = .halted then s.setThread t.val { s.thread t.val with run := .running } else s))

end Sys2Proof.Machine
end

