-- ==== Sys2Proof/Machine/Plan.lean ====
section
/-! DEFINITION. The structural checks of a seal (R39, R49): link slots (R335), DRAM windows (R279), jobs (R172), energy
grants (R364), timer reloads (R181) and scrub assignments (R419). Words of a table are named by their index in the
Cadence window, offset / 8. -/
namespace Sys2Proof.Machine

/-! ### The next bank -/

/-- A word of the next bank: as written, or the current bank's (R38). -/
def State.nextWord (s : State) (i : Nat) : Word :=
  if (mget s.wflag i).isSome then mgetD s.nxt i 0 else mgetD s.cur i 0

/-- A word of the next bank is the poisoned word of the current bank (R417). -/
def State.nextBad (s : State) (i : Nat) : Bool := (mget s.wflag i).isNone && (mget s.curBad i).isSome

/-- The first word of table t. -/
def tableBase (t : Nat) : Nat := 0x2_0000 * (t + 1)

/-- Word i of table t in the next bank. -/
def State.planNext (s : State) (t i : Nat) : Word := s.nextWord (tableBase t + i)

/-- The words of a table, counted from its first, that are not zero or are poisoned. -/
def State.planWords (s : State) (t : Nat) : List Nat :=
  let ks := s.cur.map (fun e => e.1) ++ (s.nxt.map (fun e => e.1) ++ s.curBad.map (fun e => e.1))
  (ks.filter (fun k => k / 0x2_0000 == t + 1 && (s.nextWord k != 0 || s.nextBad k))).map (fun k => k % 0x2_0000)

/-- The least number of a list. -/
def least (l : List Nat) : Option Nat :=
  l.foldl (fun a n => match a with | none => some n | some m => some (min m n)) none

/-- The first failing index of a table. -/
def firstFail (l : List Nat) (p : Nat → Bool) : Option Nat := least (l.filter p)

/-! ### What is in force in frame n + 1 (R21) -/

/-- A timing change takes effect at the next tick. -/
def State.timingNext (s : State) : Bool :=
  s.flag F.CAD_STAT_TIMING_ARMED && decide (s.rd .CAD_TIMING_AT = s.frame + 1)

def State.nextTf (s : State) : Nat := if s.timingNext then s.fld F.CAD_TIMING_NEXT_TF else s.tf

def State.nextSflen (s : State) : Nat := if s.timingNext then s.fld F.CAD_TIMING_NEXT_SFLEN else s.fld F.CAD_TIMING_SFLEN

def State.nextPos (s : State) : Nat :=
  if s.timingNext then 0 else ((s.rd .CAD_SFPOS).toNat + 1) % s.fld F.CAD_TIMING_SFLEN

/-! ### Table 0: link slots -/

/-- A port whose link carries slots (R331): lane 0 of an ACTIVE link with SLOTTAB. -/
def State.slotLink (s : State) (p : Nat) : Bool :=
  s.linkUp p && s.featOn p 0 && decide (3 ≤ s.pfld F.LE_PORTSTAT_VER p)

/-- The slot of a port's table is a C0 slot of a flow. -/
def State.slotOf (s : State) (p k f : Nat) : Bool :=
  let w := s.planNext 0 (64 * p + k)
  getBits w 1 0 == 1 && getBits w 15 4 == f

/-- The first slot of the group that slot k belongs to: back to FIRST, over adjacent slots of the flow. -/
def State.groupStart (s : State) (p f : Nat) : Nat → Option Nat
  | 0 => if bitOf (s.planNext 0 (64 * p)) 2 then some 0 else none
  | k + 1 =>
    if bitOf (s.planNext 0 (64 * p + (k + 1))) 2 then some (k + 1)
    else if s.slotOf p k f then s.groupStart p f k else none

/-- The slots of a group from its first. -/
def State.groupLen (s : State) (p f g : Nat) : Nat :=
  1 + ((List.range (63 - g)).takeWhile (fun n =>
    s.slotOf p (g + 1 + n) f && !bitOf (s.planNext 0 (64 * p + (g + 1 + n))) 2)).length

/-- Slots that a message of MSGMAX and its header need on a link. -/
def State.slotsFor (s : State) (l p mx : Nat) : Nat :=
  let b := s.slotBytes l p
  if b = 0 then 65 else (mx + 32 + b - 1) / b

/-- An entry of the link slot table fails (R335). -/
def State.slotFails (s : State) (i : Nat) : Bool :=
  let w := s.planNext 0 i
  let p := i / 64
  let k := i % 64
  let kind := getBits w 1 0
  let f := getBits w 15 4
  let inp := getBits w 23 16
  let l := s.nextTf * 20 / 64
  if s.nextBad (tableBase 0 + i) || decide (144 ≤ p) || decide (s.lane0 p ≠ p) || decide (getBits w 63 30 ≠ 0)
      || decide (kind = 3) || decide (144 ≤ inp ∧ inp < 255) then true
  else if kind = 0 then false
  else if !s.slotLink p || s.portLeaving p || !bitOf (s.rd .MAP_INSVCP 0 (p / 64)) (p % 64) then true
  else if kind = 1 ∧ 16 < (List.range (k + 1)).countP (fun j => getBits (s.planNext 0 (64 * p + j)) 1 0 == 1) then true
  else if f = 0 || !s.flag F.MAP_FLOW_V 0 f || s.fabric.flowClr.contains f || decide (s.fld F.MAP_FLOW_CLASS 0 f ≠ kind - 1) then true
  else
    let mx := s.fld F.MAP_FLOW_MSGMAX 0 f
    match (if kind = 1 then s.groupStart p f k else some k) with
    | none => true
    | some g =>
      let n := if kind = 1 then s.groupLen p f g else 1
      if kind = 1 ∧ (n < s.slotsFor l p mx ∨ 320 < n * l) then true
      else if inp = 255 then false
      else if !s.slotLink inp then true
      else
        let d : Int := ((g : Int) - (getBits w 29 24 : Nat)) * (l : Nat)
        let spanIn := s.slotsFor l inp mx * l
        let lo : Int := sexNat 24 (s.pfld F.LE_PORTDLY_DLY inp) + 120 + ((spanIn - n * l : Nat) : Int)
        !decide (lo ≤ d ∧ d ≤ 360)

/-! ### Table 1: DRAM windows -/

/-- An entry of the DRAM window table fails (R279). -/
def State.windowFails (s : State) (i : Nat) : Bool :=
  let w := s.planNext 1 i
  let ch := i / 8
  let kind := getBits w 1 0
  let a := getBits w 11 2
  let b := getBits w 21 12
  if s.nextBad (tableBase 1 + i) || decide (128 ≤ i) || decide (getBits w 63 22 ≠ 0) || decide (kind = 3) then true
  else if kind = 0 then false
  else if b ≤ a ∨ s.nextTf < b then true
  else if (List.range 8).any (fun k =>
      let v := s.planNext 1 (8 * ch + k)
      decide (8 * ch + k ≠ i) && (getBits v 1 0 == 1 || getBits v 1 0 == 2)
        && decide (max a (getBits v 11 2) < min b (getBits v 21 12))) then true
  else decide (kind = 2 ∧ b - a < 60) || !s.flag F.MC_STAT_INSVC ch

/-! ### Table 2: jobs -/

/-- Word w of slot j of an engine's next list (R170). -/
def State.jobNext (s : State) (e j w : Nat) : Word := s.planNext 2 (8 * (4 * e + j) + w)

/-- A valid window word is malformed (R172): SIZE, BASE, or a range that reaches control space. -/
def badWindow (w : Word) : Bool :=
  let size := getBits w 57 52
  let base := getBits w 51 0 * 4096
  bitOf w 59 && decide (size < 12 ∨ 52 < size ∨ base % 2 ^ size ≠ 0 ∨ ctlBase < base % 2 ^ 52 + 2 ^ size)

/-- The next frame lies inside the declared span of the engine's superframe job, whether or not the job still runs. -/
def State.spansNext (s : State) (e : Nat) : Bool :=
  match (s.engine e).span with
  | some last => !s.timingNext && decide (s.frame.toNat < last.toNat)
  | none => false

/-- A job-list entry fails (R172). -/
def State.jobFails (s : State) (n : Nat) : Bool :=
  let e := n / 4
  let j := n % 4
  let w0 := s.jobNext e j 0
  let kind := getBits w0 1 0
  let p0 := getBits w0 15 4
  let p1 := getBits w0 59 48
  let budget := getBits (s.jobNext e j 1) 31 0
  let lim := 15 * s.nextTf - 210
  let kindAt (i : Nat) : Nat := getBits (s.jobNext e i 0) 1 0
  let fj := (List.range (j + 1)).filter (fun i => kindAt i == 1)
  let reserved := (decide (512 ≤ n) && (List.range 8).any (fun k => s.planNext 2 (8 * n + k) != 0)) || (List.range 8).any (fun k => s.nextBad (tableBase 2 + 8 * n + k))
    || decide (getBits w0 31 27 ≠ 0 ∨ getBits w0 47 42 ≠ 0 ∨ getBits w0 63 60 ≠ 0) || decide (kind = 3)
    || decide (getBits (s.jobNext e j 3) 63 8 ≠ 0) || (List.range 4).any (fun k => getBits (s.jobNext e j (4 + k)) 63 60 != 0)
    || decide (kind = 1 ∧ (p0 ≠ 0 ∨ p1 ≠ 0))
  let place := kind == 2 && (j != 0 || [1, 2, 3].any (fun i => kindAt i != 0))
  let pos := kind == 2 && decide (p1 < p0 ∨ s.nextSflen ≤ p1)
  let frameBudget := kind == 1 &&
    decide (lim < fj.foldl (fun a i => a + getBits (s.jobNext e i 1) 31 0) 0 + 8 * (fj.length - 1))
  let sfBudget := kind == 2 && decide ((p1 - p0) * 15 * s.nextTf + lim < budget)
  let window := (List.range 4).any (fun k => badWindow (s.jobNext e j (4 + k)))
  let running := s.spansNext e && (List.range 8).any (fun k => (mget s.wflag (tableBase 2 + 8 * n + k)).isSome)
  let absent := kind != 0 && (!s.domOn (sgDom (e / 8)) || !(s.fld F.SG_STAT_INSVC (e / 8)).testBit (e % 8)
    || s.fabric.leaving.contains (1, e / 8))
  reserved || place || pos || frameBudget || sfBudget || window || running || absent

/-- The entries of the job list with a word that is not zero, is poisoned, or has its written flag set. -/
def State.jobEntries (s : State) : List Nat :=
  (s.planWords 2).map (fun i => i / 8)
    ++ ((s.wflag.map (fun e => e.1)).filter (fun k => k / 0x2_0000 == 3)).map (fun k => k % 0x2_0000 / 8)

/-! ### Table 3: energy grants -/

/-- The C0 reserve that a TID's jobs of the next frame need (R364). -/
def State.c0Need (s : State) (t : Nat) : Nat :=
  (s.jobEntries.filter (fun n => n < 512)).eraseDups.foldl (fun a n =>
    let e := n / 4
    let w0 := s.jobNext e (n % 4) 0
    let energy := getBits (s.jobNext e (n % 4) 1) 63 32
    let p0 := getBits w0 15 4
    let p1 := getBits w0 59 48
    let frames := p1 - p0 + 1
    if !bitOf w0 2 || decide (getBits w0 41 32 ≠ t) then a
    else if getBits w0 1 0 = 1 then a + energy
    else if getBits w0 1 0 = 2 ∧ p0 ≤ s.nextPos ∧ s.nextPos ≤ p1 ∧ (s.nextPos = p0 ∨ s.spansNext e) then
      a + (energy + frames - 1) / frames
    else a) 0

/-- The first failure of the energy grant table, check by check (R364). -/
def State.grantsFail (s : State) : Option Nat :=
  let ws := s.planWords 3
  let word (i : Nat) : Word := s.planNext 3 i
  let reserved := firstFail ws (fun i => s.nextBad (tableBase 3 + i) || decide (1056 ≤ i)
    || decide (1024 ≤ i ∧ getBits (word i) 63 3 ≠ 0))
  let cap := firstFail ws (fun i => decide (1024 ≤ i ∧ 6 ≤ getBits (word i) 2 0))
  let total := (List.range 1024).foldl (fun a t => a + getBits (word t) 31 0 + getBits (word t) 63 32) 0
  let sum := if s.fld F.ENL_DEVCFG_PSUST * s.nextTf * 10 < total then some 0xFFFF else none
  let c0 := firstFail (List.range 1024) (fun t => decide (getBits (word t) 63 32 < s.c0Need t))
  reserved.orElse (fun _ => cap.orElse (fun _ => sum.orElse (fun _ => c0)))

/-! ### Tables 4 and 5: timer reloads, scrub assignments -/

/-- A timer reload fails (R181). -/
def State.reloadFails (s : State) (i : Nat) : Bool :=
  let w := s.planNext 4 i
  s.nextBad (tableBase 4 + i) || decide (128 ≤ i ∨ getBits w 63 32 ≠ 0) || decide (1 ≤ getBits w 31 0 ∧ getBits w 31 0 ≤ 15)

/-- The power domain of a target's arrays (R374, R413); the gateways, the mesh and the device lie in domains that software
leaves on. -/
def targetDom (n : Nat) : Nat :=
  if n < 32 then mcDom (n % 16) else if n < 96 then clDom (n % 32) else if n < 112 then sgDom (n - 96)
  else if n < 148 then leDom (n - 112) else if n = 148 then 1 else if n = 149 ∨ n = 150 then 2
  else if n = 152 ∨ n = 153 then 3 else 0

/-- The size of a target in units: every superline of a channel's capacity, or its arrays together (R413, R419). -/
def State.targetUnits (s : State) (n : Nat) : Nat :=
  if n < 16 then s.fld F.MC_CFG_CAPG n * gib / 256
  else (List.range 64).foldl (fun a k => a + arrayUnits n k) 0

/-- A scrub assignment fails (R419). -/
def State.scrubFails (s : State) (n : Nat) : Bool :=
  let w := s.planNext 5 n
  let first := getBits w 39 8
  let count := getBits w 51 40
  s.nextBad (tableBase 5 + n) || decide (155 ≤ n) || decide (getBits w 7 1 ≠ 0 ∨ getBits w 63 52 ≠ 0)
    || (bitOf w 0 && (!s.domOn (targetDom n) || decide (count = 0) || (decide (n < 16) && decide (64 < count))
        || decide (s.targetUnits n < first + count)))

/-! ### The seal -/

/-- The first failing table and entry (R39, R49). -/
def State.planFails (s : State) : Option (Nat × Nat) :=
  let t0 := (firstFail (s.planWords 0) s.slotFails).map (fun d => (0, d))
  let t1 := (firstFail (s.planWords 1) s.windowFails).map (fun d => (1, d))
  let t2 := (firstFail s.jobEntries s.jobFails).map (fun d => (2, d))
  let t3 := s.grantsFail.map (fun d => (3, d))
  let t4 := (firstFail (s.planWords 4) s.reloadFails).map (fun d => (4, d))
  let t5 := (firstFail (s.planWords 5) s.scrubFails).map (fun d => (5, d))
  t0.orElse (fun _ => t1.orElse (fun _ => t2.orElse (fun _ => t3.orElse (fun _ => t4.orElse (fun _ => t5)))))

/-- CAD_SEALSTAT after a seal write (R49). -/
def State.sealResult (s : State) (result table detail : Nat) : State :=
  s.wr .CAD_SEALSTAT (BitVec.ofNat 64 (result + 8 * table + 2 ^ 16 * detail))

/-- A write to CAD_SEAL (R39): the conditions in the order of the rule. -/
def State.actSeal (s : State) (v : Word) : State :=
  if !s.tick.started then s.sealResult 6 0 0
  else if s.tick.sealClosed then s.sealResult 2 0 0
  else if v ≠ s.frame + 1 then s.sealResult 3 0 0
  else if s.flag F.CAD_STAT_SEALED then s.sealResult 4 0 0
  else match s.planFails with
    | some (t, d) => s.sealResult 5 t d
    | none => (s.sealResult 1 0 0).setFld F.CAD_STAT_SEALED 1

/-- CAD_SEAL (R39). -/
def execCadSeal (m : Master) (v : Word) (s : State) : Host.Outcome State Fault Refusal :=
  .next (s.ctlW m .CAD_SEAL 0 0 (fun s => s.actSeal v))

/-! ### Writing a next bank (R36 to R40) -/

/-- A plan-table offset of the Cadence window: the table and the word's index, and whether it is the image of the current
bank. -/
def planAt (o : Nat) : Option (Nat × Nat × Bool) :=
  let img := decide (0x80_0000 ≤ o)
  let b := if img then o - 0x80_0000 else o
  if 0x10_0000 ≤ b ∧ b < 0x70_0000 then some (b / 0x10_0000 - 1, b % 0x10_0000 / 8, img) else none

/-- A 64-bit write to a plan-table word. The image of the current bank takes none (R36); a next bank takes one of Keeper
and Cadence, until a seal is accepted (R37, R38, R40). -/
def State.actPlan (s : State) (m : Master) (off t i : Nat) (img : Bool) (v : Word) : State :=
  if img then s
  else if m ≠ .keeper ∧ m ≠ .cadence then s.ctlErr m true .master off
  else if s.flag F.CAD_STAT_SEALED then s.ctlErr m true .stateRule off
  else
    let k := tableBase t + i
    ({ s with nxt := mset s.nxt k v 0, wflag := mput s.wflag k () }).arrWrite 150 t i

/-- PLAN_TABLE_WRITE (R38): a 64-bit word of the Cadence window's tables. -/
def execPlanTableWrite (m : Master) (off : BitVec 24) (v : Word) (s : State) : Host.Outcome State Fault Refusal :=
  let o := 0x0100_0000 + off.toNat
  .next <| s.gate m o (fun s =>
    match planAt off.toNat with
    | some (t, i, img) => if off.toNat % 8 = 0 then s.actPlan m o t i img v else s.ctlErr m true .noRegister o
    | none => s.ctlErr m true .noRegister o)

end Sys2Proof.Machine
end

