-- ==== Sys2Proof/Machine/Switch.lean ====
section
/-! DEFINITION. The live microcode switch: holding traffic, its end, and the microwords that lead there (R323, R324). -/
namespace Sys2Proof.Machine

/-- What waited for a switch of engine n goes on (R311, R324): a RENEG is applied, Ethernet partners may send, and what was
buffered is taken up; unless the other engine of a bond still holds. -/
def State.resumeTraffic (s : State) (n : Nat) : State :=
  (s.leLinks n).foldl (fun s p =>
    let armed := (s.lanes p).any (fun q => s.flag F.LE_UCSWSTAT_ARMED (q / 4))
    let s : State := if (s.port p).renegDue && !armed then (s.setPort p { s.port p with renegDue := false }).linkDown p false else s
    if s.portHeld p then s
    else
      let s : State := if s.ethPort p then ((s.emit (.pfc p false)).ethResume p false).ethResume p true else s
      let msgs := (s.port p).inMsg
      msgs.foldl (fun s m => s.emit (.linkMsg p m)) ((s.setPort p { s.port p with inMsg := [] }).takeBuffered p)) s

/-- The switch of engine n is over: traffic is held no more, and no thread waits at a switch point. -/
def State.switchOver (s : State) (n : Nat) (ok : Bool) : State :=
  let x := s.le n
  (s.setLe n { x with
    holding := false, swapped := false, lastEnd := some (s.rd .LE_UCSW n, ok),
    thr := x.thr.map (fun e => (e.1, { e.2 with holding := false, released := false })) }).setFld F.LE_UCSWSTAT_ARMED 0 n

/-- The switch of engine n ends, done or abandoned (R324). -/
def State.switchEnd (s : State) (n : Nat) (ok : Bool) : State :=
  let s := s.switchOver n ok
  let s : State := if ok then
      (s.setFld F.LE_UCSWSTAT_DONE 1 n).setFld F.LE_UCSWSTAT_LASTSW (s.rd .LE_UCSW n).toNat n
    else s.setFld F.LE_UCSWSTAT_ABORTED 1 n
  s.resumeTraffic n

/-- MICROWORD_ISSUE (R321, R322, R324): thread th issues the microword at its address. What DPATH and XFER move is not
given (entry 21). -/
def execMicrowordIssue (le : Fin 36) (th : Fin 4) (cond : Bool) (disp : BitVec 14) (s : State) :
    Host.Outcome State Fault Refusal :=
  let n := le.val
  .next <|
    match mget (s.le n).thr th.val with
    | none => s
    | some x =>
      if s.flag F.LE_STAT_HALTED n || s.ucParked n th.val || x.holding then s
      else
        match s.ucFetch n x.addr with
        | (.halt, s) => s
        | (.word w, s) =>
          if (Config.ucSeq (BitVec.ofNat 4 (ucBits w 125 122))).val = 9 then s.haltLe n
          else
            let (d, s) := s.draw
            let y := x.sequence w ((s.le n).holding && !(s.le n).swapped) cond disp.toNat d.toNat
            let s := s.setLe n { s.le n with thr := mput (s.le n).thr th.val y }
            if (s.le n).swapped && s.ucAll n (fun z => z.released) then s.switchEnd n true else s

/-- A write of LE_UCSWSTAT.CANCEL disarms the switch (R323): one that holds traffic is over without a result, its banks as
they were (entry 156). -/
def State.actUcswCancel (s : State) (n : Nat) : State :=
  if !s.flag F.LE_UCSWSTAT_ARMED n then s
  else
    let s : State := if (s.le n).swapped then s.swapBanks n else s
    let s : State := if (s.le n).holding then s.switchOver n false else s.setFld F.LE_UCSWSTAT_ARMED 0 n
    s.resumeTraffic n

/-- CANCEL_MICROCODE_SWITCH (R323). -/
def execCancelMicrocodeSwitch (m : Master) (le : Fin 36) (s : State) : Host.Outcome State Fault Refusal :=
  .next (s.ctlW m .LE_UCSWSTAT le.val 0 (fun s => s.actUcswCancel le.val))

/-- The tick of the frame a switch is armed for: the engine stops taking work, its threads head for switch
points, and Ethernet partners are paused (R324). -/
def State.switchTick (s : State) (n : Nat) : State :=
  if s.flag F.LE_UCSWSTAT_ARMED n && decide (s.rd .LE_UCSW n = s.frame) && !s.flag F.LE_STAT_HALTED n then
    let s := s.setLe n { s.le n with holding := true, swapped := false }
    (s.leLinks n).foldl (fun s p => if s.ethPort p then s.emit (.pfc p true) else s) s
  else s

/-- MICROCODE_SWITCH_ABANDON (R324). -/
def execMicrocodeSwitchAbandon (le : Fin 36) (s : State) : Host.Outcome State Fault Refusal :=
  .next (if (s.le le.val).holding && !(s.le le.val).swapped then s.switchEnd le.val false else s)

/-- MICROCODE_SWITCH_REVERT (R324). -/
def execMicrocodeSwitchRevert (le : Fin 36) (s : State) : Host.Outcome State Fault Refusal :=
  .next (if (s.le le.val).swapped then (s.swapBanks le.val).switchEnd le.val false else s)

end Sys2Proof.Machine
end

