-- ==== Sys2Proof/Machine/Cadence.lean ====
section
/-! DEFINITION. Frames, ticks and the tick monitor, the timing registers, and the Cadence pair (R18 to R50). -/
namespace Sys2Proof.Machine

/-! ### Start, acquisition and timing registers -/

/-- A write to CAD_CTRL (R47): RUN is never cleared, and ACQUIRE is 0 once RUN is set. What acquisition has chosen is given
up, so that the first tick starts CAD_FRAMESET (entry 38). -/
def State.actCadCtrl (s : State) (v : Word) : State :=
  let run := s.flag F.CAD_CTRL_RUN || bitOf v 0
  let acq := bitOf v 1 && !run
  let s := (s.setFld F.CAD_CTRL_RUN (b2n run)).setFld F.CAD_CTRL_ACQUIRE (b2n acq)
  let s := s.setFld F.CAD_STAT_RUN (b2n run)
  if acq then s else s.setTick { s.tick with acq := none }

/-- START_LOCAL_TICK (R47). -/
def execStartLocalTick (m : Master) (s : State) : Host.Outcome State Fault Refusal :=
  .next (s.ctlW m .CAD_CTRL 0 0 (fun s => s.actCadCtrl 1))

/-- SET_ACQUIRE (R47). -/
def execSetAcquire (m : Master) (on : Bool) (s : State) : Host.Outcome State Fault Refusal :=
  .next (s.ctlW m .CAD_CTRL 0 0 (fun s => s.actCadCtrl (if on then 2 else 0)))

/-- A write to CAD_FRAMESET (R33). -/
def State.actFrameset (s : State) (m : Master) (v : Word) : State :=
  if s.flag F.CAD_CTRL_RUN then s.ctlErr m true .stateRule (Reg.CAD_FRAMESET.off 0 0)
  else s.setTick { s.tick with frameSet := v }

/-- CAD_FRAMESET_WRITE (R33). -/
def execCadFramesetWrite (m : Master) (v : Word) (s : State) : Host.Outcome State Fault Refusal :=
  .next (s.ctlW m .CAD_FRAMESET 0 0 (fun s => s.actFrameset m v))

/-- A write to CAD_TIMING_NEXT (R18, R21, R48). -/
def State.actTimingNext (s : State) (m : Master) (v : Word) : State :=
  let off := Reg.CAD_TIMING_NEXT.off 0 0
  let tf := F.CAD_TIMING_NEXT_TF.of v
  let sf := F.CAD_TIMING_NEXT_SFLEN.of v
  if tf < 100 ∨ 800 < tf ∨ sf = 0 ∨ 4096 < sf then s.ctlErr m true .reserved off
  else if s.flag F.CAD_STAT_TIMING_ARMED then s.ctlErr m true .stateRule off
  else s.wr .CAD_TIMING_NEXT (v &&& Reg.CAD_TIMING_NEXT.row.rw)

/-- CAD_TIMING_NEXT_WRITE (R21). -/
def execCadTimingNextWrite (m : Master) (v : Word) (s : State) : Host.Outcome State Fault Refusal :=
  .next (s.ctlW m .CAD_TIMING_NEXT 0 0 (fun s => s.actTimingNext m v))

/-- A frame is at least CAD_FRAMECNT + 2. -/
def State.farEnough (s : State) (f : Word) : Bool := decide (s.frame.toNat + 2 ≤ f.toNat)

/-- A write to CAD_TIMING_AT: arm, move or cancel (R21). -/
def State.actTimingAt (s : State) (m : Master) (v : Word) : State :=
  let off := Reg.CAD_TIMING_AT.off 0 0
  let armed := s.flag F.CAD_STAT_TIMING_ARMED
  let run := s.flag F.CAD_CTRL_RUN
  let ok := !run || (if armed then s.farEnough (s.rd .CAD_TIMING_AT) && (v == 0 || s.farEnough v) else s.farEnough v)
  if !ok then s.ctlErr m true .stateRule off
  else (s.wr .CAD_TIMING_AT v).setFld F.CAD_STAT_TIMING_ARMED (b2n (v != 0))

/-- ARM_TIMING_CHANGE (R21). -/
def execArmTimingChange (m : Master) (v : Word) (s : State) : Host.Outcome State Fault Refusal :=
  .next (s.ctlW m .CAD_TIMING_AT 0 0 (fun s => s.actTimingAt m v))

/-- CANCEL_TIMING_CHANGE (R21). -/
def execCancelTimingChange (m : Master) (s : State) : Host.Outcome State Fault Refusal :=
  .next (s.ctlW m .CAD_TIMING_AT 0 0 (fun s => s.actTimingAt m 0))

/-! ### The local tick (R20, R21, R33, R41) -/

/-- The new T_f and superframe length take effect. -/
def State.takeTiming (s : State) : State :=
  (s.wr .CAD_TIMING (s.rd .CAD_TIMING_NEXT)).setFld F.CAD_STAT_TIMING_ARMED 0

/-- CAD_FRAMECNT and CAD_SFPOS at the first tick: CAD_FRAMESET at position 0, or what acquisition chose, advanced by
one; an armed change whose frame is not above the new number takes effect and leaves the position (R21, R33). -/
def State.firstFrame (s : State) : State :=
  let (f, pos) := match s.tick.acq with
    | some (f, p) => (f + 1, p + 1)
    | none => (s.tick.frameSet, 0)
  let s := s.wr .CAD_FRAMECNT f
  let s := if s.flag F.CAD_STAT_TIMING_ARMED && decide ((s.rd .CAD_TIMING_AT).toNat ≤ f.toNat) then s.takeTiming else s
  let s := s.wr .CAD_SFPOS (BitVec.ofNat 64 (pos % s.fld F.CAD_TIMING_SFLEN))
  let s := (s.setFld F.CAD_CTRL_RUN 1).setFld F.CAD_CTRL_ACQUIRE 0
  (s.setFld F.CAD_STAT_RUN 1).setTick { s.tick with started := true, acq := none, fresh := false }

/-- CAD_FRAMECNT and CAD_SFPOS at a later tick; an armed change takes effect at its frame and starts a superframe. -/
def State.nextFrame (s : State) : State :=
  let now := s.timingNext
  let pos := s.nextPos
  let s := s.wr .CAD_FRAMECNT (s.frame + 1)
  let s := if now then s.takeTiming else s
  s.wr .CAD_SFPOS (BitVec.ofNat 64 pos)

/-- A written word of the next bank becomes current (R38); what is wrong in it is found: corrected, or uncorrectable for
the frame (R414, R417). -/
def State.swapWord (s : State) (k : Nat) : State :=
  let t := k / 0x2_0000 - 1
  let i := k % 0x2_0000
  let v := mgetD s.nxt k 0
  let put (s : State) (v : Word) : State := { s with cur := mset s.cur k v 0 }
  let s : State := { s with curBad := merase s.curBad k }
  let lose (s : State) : State := ({ put s v with curBad := mput s.curBad k () }).arrUncorr 0x03 150 t i 0
  match s.arrJudge 150 t i with
  | (.clean, s) => put s v
  | (.corrected, s) => (put s v).arrCorrect 150 t i 0
  | (.uncorrectable, s) => lose s
  | (.beyond, s) => put s (Config.miscorrect k v)

/-- The banks swap: words with the flag set replace their current counterparts, and every flag clears (R38). -/
def State.swapPlan (s : State) : State :=
  let s := (s.wflag.map (fun e => e.1)).foldl (fun s k => s.swapWord k) s
  { s with nxt := [], wflag := [] }

/-- The plan of the frame before runs again (R41); each 64th in a row is to be reported (R43). -/
def State.reusePlan (s : State) : State :=
  let s := ((s.cadEvent F.CAD_STAT_PLAN_LATE).bump .CAD_LATECNT).bump .CAD_LATERUN
  s.setTick { s.tick with fresh := false, lateDue := s.tick.lateDue || decide ((s.rd .CAD_LATERUN).toNat % 64 = 0) }

/-- What happens to the plan at a tick that is not the first (R41). -/
def State.planTick (s : State) : State :=
  if s.flag F.CAD_STAT_SEALED then
    let s := (s.swapPlan).wr .CAD_LATERUN 0
    s.setTick { s.tick with fresh := true }
  else s.reusePlan

/-- CAD_STAT.ACTIVE's codes (R46). -/
def TickSrc.code (t : TickSrc) : Nat := match t with | .a => 0 | .b => 1 | .osc => 2 | .sw => 3

/-- The source chosen by the last evaluation drives the tick from here (R27): ACTIVE and TICK_HOLD show it, frames on
the oscillator are counted, and the end of the 64th of each hold is to be reported (R29). -/
def State.sourceTick (s : State) : State :=
  let t := s.tick
  let s := s.setFld F.CAD_STAT_ACTIVE t.source.code
  let s := s.setFld F.CAD_STAT_TICK_HOLD (b2n (decide (t.source = .osc ∨ t.source = .sw)))
  let free := decide (t.source = .osc ∧ t.hold = 64)
  s.setTick { t with hold := if t.source = .osc then min 65 (t.hold + 1) else 0, freeDue := t.freeDue || free }

/-- A link frame begins on every port (R331): its slots are still to come, and reservations count afresh (R333, R347). -/
def State.linkFrames (s : State) : State :=
  { s with
    ports := s.ports.map (fun e => (e.1, { e.2 with pos := 0, freed := [], took := [] })), fabric := { s.fabric with c1used := [] } }

/-- What the tick does to a port: a link whose policy took it down goes (R311), link keys change (R393), and a link of
version 3 or later carries a marker (R31), unless a microcode switch holds it (R324); its time stamp is in cycles of the always-on clock (entry 132). -/
def State.portTick (s : State) (p : Nat) : State :=
  let s := if (s.port p).downDue then s.linkDown p false else s
  let s := s.rekeyTick p
  if s.linkUp p && decide (3 ≤ s.pfld F.LE_PORTSTAT_VER p) && !s.portHeld p then
    s.emit (.marker p s.frame (s.rd .CAD_SFPOS).toNat s.aoTime) else s

/-- What the other blocks do at the tick, which ends a frame of the given T_f. -/
def State.blocksTick (s : State) (ended : Option Nat) : State :=
  let s := ((s.groupsTick).fabricTick).ledgerTick ended
  let s := s.linkFrames
  let s := (List.range 36).foldl (fun s n => (s.switchTick n).bondSwitchTick n) s
  let s := (List.range 144).foldl (fun s p => s.portTick p) s
  s.cadenceInt 1

/-- The local tick may come: RUN is set, or acquisition has chosen a frame (R33, R47). -/
def State.tickDue (s : State) : Bool :=
  s.live && (s.flag F.CAD_CTRL_RUN || (s.flag F.CAD_CTRL_ACQUIRE && s.tick.acq.isSome))

/-- A local tick. The plan of the frame before governs until the 20 ns point (R23). -/
def State.localTick (s : State) : State :=
  let old := s
  let ended := if s.tick.started then some s.tf else none
  let s := if s.tick.started then s.nextFrame.planTick else s.firstFrame
  let s := (s.setFld F.CAD_STAT_SEALED 0).wr .CAD_SEALSTAT 0
  let s : State := { s with was := old.cur, wasBad := old.curBad }
  let s := s.setTick { s.tick with sealClosed := false, effectDue := true, frameOff := 0 }
  s.sourceTick.blocksTick ended

/-- LOCAL_TICK (R23). -/
def execLocalTick (s : State) : Host.Outcome State Fault Refusal := .next (if s.tickDue then s.localTick else s)

/-- LATE_RUN_RAS_EVENT (R43). -/
def execLateRunRasEvent (s : State) : Host.Outcome State Fault Refusal :=
  .next <|
    if s.tick.lateDue then
      (s.setTick { s.tick with lateDue := false }).record
        { kind := 0x11, target := 150, sev := 0, detail := (s.rd .CAD_LATERUN).toNat }
    else s

/-- PLAN_TAKES_EFFECT (R23): the 20 ns point. The current bank governs from here. -/
def execPlanTakesEffect (s : State) : Host.Outcome State Fault Refusal :=
  .next <|
    if s.tick.effectDue && s.live then
      let s : State := { s.setTick { s.tick with effectDue := false } with was := [], wasBad := [] }
      let s := ((s.reloadAll).fabricTwenty).applyCaps
      { s with scrubbed := [] }
    else s

/-- SEAL_DEADLINE (R39, R344, R420). -/
def execSealDeadline (s : State) : Host.Outcome State Fault Refusal :=
  .next <|
    if s.tick.started && !s.tick.sealClosed && s.live then
      ((s.setTick { s.tick with sealClosed := true }).scrubDeadline).creditDeadline
    else s

/-! ### Tick inputs (R24, R31) -/

/-- TICK_EDGE (R24): an edge within 100 ns of the local tick is present for its frame; a later one of the same input replaces
it (entry 133). -/
def execTickEdge (inp : TickInput) (ns : Int) (s : State) : Host.Outcome State Fault Refusal :=
  .next <|
    if s.live && decide (-100 ≤ ns ∧ ns ≤ 100) then
      match inp with
      | .a => s.setTick { s.tick with edgeA := some ns }
      | .b => s.setTick { s.tick with edgeB := some ns }
    else s

/-- SPEEDWELL_MARKER_RECEIVE (R31, R22): `stamp` is when the marker's tick shows at the receiver, in ns after the local
tick; the link delay is in units of 0.5 ns (R309). -/
def execSpeedwellMarkerReceive (port : Fin 144) (frame : Word) (sfpos : BitVec 12) (stamp : Int) (s : State) :
    Host.Outcome State Fault Refusal :=
  let p := port.val
  .next <|
    if s.live && s.linkUp p && decide (3 ≤ s.pfld F.LE_PORTSTAT_VER p) then
      let k : Marker := { port := p, frame := frame, sfpos := sfpos.toNat,
                          tick := 2 * stamp - sexNat 24 (s.pfld F.LE_PORTDLY_DLY p) }
      let s := s.setTick { s.tick with markers := s.tick.markers ++ [k] }
      if s.tick.started && decide (sfpos.toNat ≠ (s.rd .CAD_SFPOS).toNat) then s.cadEvent F.CAD_STAT_SF_MISMATCH else s
    else s

/-! ### The evaluation (R25 to R30, R32, R34, R50) -/

/-- The classification of R25. -/
def Tick.classify (t : Tick) : TickClass :=
  match t.edgeA, t.edgeB with
  | some a, some b => if (a - b).natAbs ≤ 20 then .agreement else .disagreement
  | none, none => .loss
  | _, _ => .disagreement

/-- A marker's tick, in units of 0.5 ns, lies within 20 ns of an edge. -/
def near (tick : Int) (e : Option Int) : Bool :=
  match e with
  | some x => decide ((tick - 2 * x).natAbs ≤ 40)
  | none => false

/-- The vote of a marker (R32). -/
def Tick.vote (t : Tick) (k : Marker) : Vote :=
  match t.classify with
  | .loss => match t.voteMem.find? (fun e => e.1 == k.port) with
    | some (_, v) => v
    | none => .none
  | _ =>
    let a := near k.tick t.edgeA
    let b := near k.tick t.edgeB
    if a && !b then .a else if b && !a then .b else .none

/-- The votes under Loss that an evaluation with agreement leaves: each port's nearer edge, where it lay within 20 ns (R32). -/
def Tick.remember (t : Tick) : List (Nat × Vote) :=
  match t.edgeA, t.edgeB with
  | some a, some b => t.markers.map (fun k =>
      let da := (k.tick - 2 * a).natAbs
      let db := (k.tick - 2 * b).natAbs
      (k.port, if 40 < min da db then .none else if da ≤ db then .a else .b))
  | _, _ => t.voteMem

/-- How many markers vote so. -/
def Tick.votes (t : Tick) (v : Vote) : Nat := t.markers.countP (fun k => decide (t.vote k = v))

/-- The majority of R32, if one exists. -/
def Tick.majority (t : Tick) : Vote :=
  let n := t.markers.length
  if n < 3 then .none
  else if n < 2 * t.votes .a then .a
  else if n < 2 * t.votes .b then .b
  else .none

/-- Put a number into a rising list. -/
def insertInt (x : Int) : List Int → List Int
  | [] => [x]
  | y :: l => if x ≤ y then x :: y :: l else y :: insertInt x l

/-- The median of a list, the earlier of two middle values (R32). -/
def median (l : List Int) : Int := ((l.foldr insertInt [])[(l.length - 1) / 2]?).getD 0

/-- A majority of the markers carries another frame number (R34). -/
def Tick.misses (t : Tick) (f : Word) : Bool :=
  decide (3 ≤ t.markers.length) && decide (t.markers.length < 2 * t.markers.countP (fun k => decide (k.frame ≠ f)))

/-- The input that Keep word 0 names as PRIMARY (R35). -/
def State.primary (s : State) : TickSrc := if s.keepFld 0 2 2 = 0 then .a else .b

/-- The discrepancy count at an evaluation (R26): the running count, whether it reaches N, and the count that was
filtered. The cycles since the evaluation before are those of the frame that has ended; N follows T_f in force, and a count that
has reached N shows no more (entry 133). -/
def State.discStep (s : State) (c : TickClass) : Option Nat × Bool × Option Nat :=
  match s.tick.disc with
  | none => (if c = .disagreement ∧ ¬ s.tick.spent then some 0 else none, false, none)
  | some n =>
    let n := n + s.tick.evalTf
    if s.keepFld 0 11 8 * s.tf ≤ n then (none, true, none)
    else if c = .agreement then (none, false, some n)
    else (some n, false, none)

/-- The source for following ticks (R27). -/
def State.sourceFor (s : State) (t : Tick) (c : TickClass) (maj : Vote) (ended : Bool) : TickSrc :=
  if ended then s.primary
  else match c with
    | .loss => if maj = .none then .osc else .sw
    | _ =>
      if t.fault then
        match s.keepFld 0 1 0 with
        | 0 => if t.edgeA.isSome then .a else .b
        | 1 => if t.edgeB.isSome then .b else .a
        | 2 => match maj with | .a => .a | .b => .b | .none => .osc
        | _ => .osc
      else if c = .agreement ∧ ¬ t.lossHold then s.primary
      else t.source

/-- CAD_TMON after an evaluation (R50). -/
def tmonWord (t : Tick) : Word :=
  let phase := match t.edgeA, t.edgeB with
    | some a, some b => encInt 16 (a - b)
    | _, _ => 0x8000
  BitVec.ofNat 64 (phase + 2 ^ 16 * (t.disc.getD 0) + 2 ^ 32 * min 64 t.hold + 2 ^ 40 * min 255 (t.votes .a)
    + 2 ^ 48 * min 255 (t.votes .b) + 2 ^ 56 * min 255 t.markers.length)

/-- An evaluation while ticks run (R25). -/
def State.evaluate (s : State) : State :=
  let t := s.tick
  let c := t.classify
  let maj := t.majority
  let (disc, raised, filtered) := s.discStep c
  let agree := if c = .agreement then t.agree + 1 else 0
  let fault := t.fault || raised
  let ended := decide (16 ≤ agree) && (fault || t.lossHold)
  let lossHold := t.lossHold || (decide (c = .loss) && !fault)
  let miss := if t.misses s.frame then t.missRun + 1 else 0
  let t1 : Tick := { t with disc := disc, evalTf := s.tf, spent := (t.spent || raised) && decide (c ≠ .agreement), fault := fault, agree := agree, lossHold := lossHold, missRun := miss }
  let t2 : Tick :=
    { t1 with
      source := s.sourceFor t1 c maj ended
      srcPhase := if maj = .none then t.srcPhase else median ((t.markers.filter (fun k => decide (t.vote k = maj))).map (fun k => k.tick))
      voteMem := if c = .agreement then t.remember else t.voteMem
      faultDue := t.faultDue || raised
      missDue := t.missDue || decide (miss = 3)
      clearAt := if ended && t.clearAt.isNone then some (s.frame + 1) else t.clearAt
      edgeA := none
      edgeB := none
      markers := [] }
  let s := (s.wr .CAD_TMON (tmonWord t1)).setTick t2
  match filtered with
  | some n => (s.bump .CAD_TDISCCNT).record { kind := 0x0F, target := 154, sev := 0, detail := n }
  | none => s

/-- TICK_MONITOR_EVALUATION (R25): before the first tick it serves acquisition and MARKERS alone. -/
def execTickMonitorEvaluation (s : State) : Host.Outcome State Fault Refusal :=
  .next <|
    if !s.live then s
    else if s.tick.started then s.evaluate
    else
      let t := s.tick
      (s.setFld F.CAD_TMON_MARKERS (min 255 t.markers.length)).setTick
        { t with evalMarks := t.markers, markers := [], edgeA := none, edgeB := none }

/-- TICK_DISCREPANCY_FAULT (R26). -/
def execTickDiscrepancyFault (s : State) : Host.Outcome State Fault Refusal :=
  .next <|
    if s.tick.faultDue then
      let s := s.setTick { s.tick with faultDue := false }
      ((s.cadEvent F.CAD_STAT_TDISC_FAULT).bump .CAD_TFAULTCNT).record { kind := 0x10, target := 154, sev := 1, detail := 1 }
    else s

/-- TICK_FREERUN (R29). -/
def execTickFreerun (s : State) : Host.Outcome State Fault Refusal :=
  .next <|
    if s.tick.freeDue then
      let s := s.setTick { s.tick with freeDue := false }
      (s.setFld F.CAD_STAT_TICK_FREERUN 1).record { kind := 0x10, target := 154, sev := 1, detail := 2 }
    else s

/-- TICK_FAULT_CLEAR (R30): at the tick after the 16th agreement. -/
def execTickFaultClear (s : State) : Host.Outcome State Fault Refusal :=
  .next <|
    match s.tick.clearAt with
    | none => s
    | some f =>
      if f.toNat ≤ s.frame.toNat then
        let s := s.setTick { s.tick with clearAt := none, fault := false, lossHold := false, freeDue := false }
        (s.setFld F.CAD_STAT_TICK_HOLD 0).setFld F.CAD_STAT_TICK_FREERUN 0
      else s

/-- The unique largest group of at least 3 markers that agree on frame and position (R33). -/
def Tick.chosen (t : Tick) : Option (Word × Nat) :=
  let size (g : Word × Nat) : Nat := t.evalMarks.countP (fun k => decide ((k.frame, k.sfpos) = g))
  let groups := (t.evalMarks.map (fun k => (k.frame, k.sfpos))).eraseDups
  match groups.filter (fun g => groups.all (fun h => decide (size h ≤ size g))) with
  | [g] => if 3 ≤ size g then some g else none
  | _ => none

/-- FRAME_ACQUISITION (R33). -/
def execFrameAcquisition (s : State) : Host.Outcome State Fault Refusal :=
  .next <|
    if s.flag F.CAD_CTRL_ACQUIRE && !s.tick.started then
      match s.tick.chosen with
      | some g => s.setTick { s.tick with acq := some g }
      | none => s
    else s

/-- FCNT_MISMATCH (R34). -/
def execFcntMismatch (s : State) : Host.Outcome State Fault Refusal :=
  .next <|
    if s.tick.missDue then
      let s := s.setTick { s.tick with missDue := false }
      ((s.cadEvent F.CAD_STAT_FCNT_MISMATCH).bump .CAD_FCMISCNT).record { kind := 0x10, target := 154, sev := 1, detail := 3 }
    else s

/-! ### The Cadence pair (R44, R451, R453) -/

/-- CADENCE_LOCKSTEP_MISMATCH (R44). -/
def execCadenceLockstepMismatch (s : State) : Host.Outcome State Fault Refusal :=
  .next (if s.live && decide ((s.thread 513).run ≠ .off ∧ (s.thread 513).run ≠ .stopped) then s.lockstepFail false 0 else s)

/-- CADENCE_RESTART (R44, R46): Keeper firmware restarts a pair that the checker has stopped. -/
def execCadenceRestart (s : State) : Host.Outcome State Fault Refusal :=
  .next <|
    if s.live && s.board.cadFail then s.cadencePairStart else s

end Sys2Proof.Machine
end

