-- ==== Sys2Proof/Machine/Ctl.lean ====
section
/-! DEFINITION. Control-space access (R2 to R11, R459): what a read of a register or aperture returns and does, what a
write does, and the half-word accesses of AKZ32 cores. -/
namespace Sys2Proof.Machine

/-! ### Places of control space that hold no register of a map -/

/-- What lies at an 8-byte-aligned offset of control space (R36, R188, R220, R293, R327, R402, R408, R438, R453). -/
inductive CtlPlace where
  | reg (r : Reg) (b i : Nat)
  | keep (w : Nat)
  | keepCount (w : Nat)
  | plan (t i : Nat) (img : Bool)
  | cadRam (i : Nat)
  | ring (i w : Nat)
  | snapshot (c i : Nat)
  | shadow (n i : Nat)
  | engineMem (e kind i : Nat)
  | nothing
deriving DecidableEq, Repr

/-- The place at an offset. -/
def ctlPlace (off : Nat) : CtlPlace :=
  let b := off / 0x0100_0000
  let o := off % 0x0100_0000
  if off % 8 ≠ 0 then .nothing
  else match regAt off with
    | some (r, b, i) => .reg r b i
    | none =>
      if b = 0 ∧ 0x400 ≤ o ∧ o < 0x8400 then .keep ((o - 0x400) / 8)
      else if b = 0 ∧ 0x1_0000 ≤ o ∧ o < 0x1_8000 then .keepCount ((o - 0x1_0000) / 8)
      else if b = 1 ∧ 0xF0_0000 ≤ o then .cadRam ((o - 0xF0_0000) / 8)
      else if b = 1 then (match planAt o with | some (t, i, img) => .plan t i img | none => .nothing)
      else if b = 4 ∧ 0x10_0000 ≤ o ∧ o < 0x12_0000 then .ring ((o - 0x10_0000) / 32) (o % 32 / 8)
      else if 0x40 ≤ b ∧ b < 0x50 ∧ 0x1_0000 ≤ o ∧ o < 0x1_8000 then .snapshot (b - 0x40) ((o - 0x1_0000) / 8)
      else if 0x50 ≤ b ∧ b < 0x74 ∧ 0x10_0000 ≤ o ∧ o < 0x14_0000 then .shadow (b - 0x50) ((o - 0x10_0000) / 8)
      else match apertureAt off with
        | some (e, k, i) => .engineMem e k i
        | none => .nothing

/-- The domain of the block that holds the place is on. -/
def State.placeOn (s : State) (p : CtlPlace) : Bool :=
  match p with
  | .reg r b _ => s.winOn r.row.win b
  | .snapshot c _ => s.winOn .mc c
  | .shadow n _ => s.winOn .le n
  | .engineMem e _ _ => s.winOn .se e
  | .nothing => false
  | _ => true

/-! ### What registers show -/

/-- A register that only Keeper may write, and that reads as zero to other masters (R411). -/
def keeperOnly (r : Reg) : Bool :=
  match r with
  | .THS_KEYCMD => true
  | .THS_KEYBUF => true
  | .THS_IMGSRC => true
  | .THS_IMGDST => true
  | .THS_IMGCMD => true
  | .THS_HOLDCLR => true
  | _ => false

/-- The value a register shows (R10): what it holds, what follows from other state, or a value the manual leaves
open (entry 6). -/
def State.shows (s : State) (r : Reg) (b i : Nat) : Word × State :=
  match r with
  | .KPR_CADCTL => (BitVec.ofNat 64 (4 * b2n (decide ((s.thread 513).run = .stopped))), s)
  | .KPR_SUPSTAT =>
    let (w, s) := s.draw
    (setBits (s.rd .KPR_SUPSTAT) 31 16 w.toNat, s)
  | .ENL_USED => (s.usedWord i, s)
  | .THS_ZSTAT =>
    let n := match s.sec.zrun with | some (n, lim) => min n lim | none => 0
    (setBits (s.rd .THS_ZSTAT) 48 32 n, s)
  | .SG_STAT => (setBit (s.rd .SG_STAT b) 8 true, s)
  | .SG_FCYC => (BitVec.ofNat 64 (15 * s.tick.frameOff % 65536), s)
  | .SG_TMRCNT =>
    (setBits (s.rd .SG_TMRCNT b i) 31 0 (mgetD (s.group b).count i (s.fld F.SG_TMRCNT_COUNT b i)), s)
  | .SG_CAPDATA => (s.capData b i, s)
  | .SE_EVPEND => (BitVec.ofNat 64 (s.evPend b), s)
  | .MC_QSTAT => (s.qstat b, s)
  | .MC_CMPSTAT => (s.cmpstat b, s)
  | .MC_MIRSTAT => (s.mirstat b, s)
  | .MC_KEYVALID => (s.keyvalid b i, s)
  | .LE_PORTSTAT => (s.portStat (4 * b + i), s)
  | _ => (s.rd r b i, s)

/-- A read clears the RC bits to their reset value (R10). -/
def State.rcClear (s : State) (r : Reg) (b i : Nat) : State :=
  let m := r.row.rc
  if m = 0 then s else s.wr r ((s.rd r b i &&& ~~~m) ||| (r.reset i &&& m)) b i

/-! ### Reads -/

/-- What a read returns: data with its poison; or it waits for the TRNG (R410). -/
inductive CtlRead where
  | data (v : Word) (poison : Bool)
  | wait
deriving DecidableEq, Repr

/-- A read by a permitted master of a place whose domain is on. -/
def State.readPlace (s : State) (m : Master) (off : Nat) (p : CtlPlace) (quiet : Bool) : CtlRead × State :=
  match p with
  | .reg .THS_TRNG _ _ =>
    if quiet then
      if s.flag F.THS_STAT_TRNGFAIL then (.data 0 false, s)
      else if s.sec.trngFull then (.data (Config.trng s.sec.trngCnt) false, s)
      else
        let (w, s) := s.draw
        (.data w false, s)
    else match s.trngTake m with
      | (some w, s) => (.data w false, s)
      | (none, s) => (.wait, s)
  | .reg r b i =>
    if keeperOnly r ∧ m ≠ .keeper then (.data 0 false, s)
    else
      let (v, s) := s.shows r b i
      (.data v false, if quiet then s else s.rcClear r b i)
  | .keep w => let (v, s) := s.keepSee w; (.data (v.setWidth 64) false, s)
  | .keepCount w => (.data (BitVec.ofNat 64 (s.keepCount w + 2 ^ 20 * b2n (s.keepWorn w))) false, s)
  | .plan t i img =>
    let k := tableBase t + i
    if img then (.data (mgetD s.cur k 0) (mget s.curBad k).isSome, s) else (.data (s.nextWord k) (s.nextBad k), s)
  | .cadRam i =>
    if m = .debug then (.data 0 false, s.ctlErr m false .master off)
    else (.data ((mgetD s.cram (2 * i) 0).setWidth 64 ||| ((mgetD s.cram (2 * i + 1) 0).setWidth 64 <<< 32)) false, s)
  | .ring i w => (.data (match mget s.ring i with | some r => r.word w | none => 0) false, s)
  | .snapshot c i =>
    if m ≠ .keeper then (.data 0 false, s.ctlErr m false .master off)
    else match (s.chan c).snap with
      | none => (.data 0 false, s)
      | some x => (.data (x.word i) false, s)
  | .shadow _ _ => (.data 0 false, s)
  | .engineMem e k i =>
    let (bad, v, s) := s.apRead e k i
    (.data v bad, s)
  | .nothing => (.data 0 false, s)

/-- A 64-bit read of control space (R7, R10, R375, R458, R459). -/
def State.ctlRead (s : State) (m : Master) (off : Nat) (quiet : Bool) : CtlRead × State :=
  let p := ctlPlace off
  if m = .debug ∧ !s.scope 0 then (.data 0 false, s.ctlErr m false .master off)
  else if !s.placeOn p then (.data 0 false, s.ctlErr m false .noRegister off)
  else s.readPlace m off p quiet

/-! ### Writes -/

/-- A write by access type (R8, R10): RW fields take their bits, W1C bits clear where a 1 is written. -/
def State.plainWrite (s : State) (r : Reg) (b i : Nat) (v : Word) : State :=
  let w := r.row
  s.wr r (((s.rd r b i &&& ~~~w.rw) ||| (v &&& w.rw)) &&& ~~~(v &&& w.w1c)) b i

/-- A write to LK fields: discarded and logged after the lock point (R10, R447). -/
def State.lockedWrite (s : State) (m : Master) (r : Reg) (b i : Nat) (locked : Bool) (v : Word) : State :=
  if locked then s.ctlErr m true .locked (r.off b i)
  else s.wr r ((s.rd r b i &&& ~~~r.row.lk) ||| (v &&& r.row.lk)) b i

/-- The write's value holds an encoding that its field's table reserves (R9, R189, R294, R328, R356, R383); registers
with a rule of their own judge theirs there. LE_PCIECFG.MODE CXL with MAXGEN below 5 counts as one (entry 142). -/
def regReserved (r : Reg) (b : Nat) (v : Word) : Bool :=
  match r with
  | .ENL_DEVCFG =>
    let s := F.ENL_DEVCFG_PSUST.of v
    let e := F.ENL_DEVCFG_PEXC.of v
    let x := F.ENL_DEVCFG_XMS.of v
    decide (s < 100 ∨ 900 < s ∨ e < s ∨ 1150 < e ∨ x < 1 ∨ 10 < x)
  | .MAP_FABCTL => decide (F.MAP_FABCTL_DEFMAX.of v = 0 ∨ F.MAP_FABCTL_HOPMAX.of v = 0)
  | .SG_CAPCTL => decide (F.SG_CAPCTL_EDGE.of v = 0)
  | .MC_RHCTL => decide (F.MC_RHCTL_K.of v < 6 ∨ 14 < F.MC_RHCTL_K.of v)
  | .LE_PCIECFG =>
    let mode := F.LE_PCIECFG_MODE.of v
    let gen := F.LE_PCIECFG_MAXGEN.of v
    decide (mode = 3 ∨ (F.LE_PCIECFG_X16.of v = 1 ∧ b / 2 % 2 = 1) ∨ (mode ≠ 0 ∧ (gen = 0 ∨ gen = 7)) ∨ (mode = 2 ∧ gen < 5))
  | .LE_PCIEWIN => decide (F.LE_PCIEWIN_V.of v = 1 ∧ F.LE_PCIEWIN_SIZE.of v < 12)
  | .LE_ETHQCTL => decide (9 < F.LE_ETHQCTL_LOGN.of v)
  | _ => false

/-- A 64-bit write that reaches a register: the action of its own rule, or the write of its access type (R10). -/
def State.regWrite (s : State) (m : Master) (r : Reg) (b i : Nat) (v : Word) : State :=
  let off := r.off b i
  if keeperOnly r ∧ m ≠ .keeper then s.ctlErr m true .master off
  else if regReserved r b v then s.ctlErr m true .reserved off
  else match r with
    | .KPR_BOOTCTL => s.actBootCtl v
    | .KPR_RESTART => s.actRestart v
    | .KPR_CADCTL => s.actCadCtl v
    | .KPR_MBOXDB => s.actMboxDb m v
    | .CAD_CTRL => s.actCadCtrl v
    | .CAD_TIMING_NEXT => s.actTimingNext m v
    | .CAD_TIMING_AT => s.actTimingAt m v
    | .CAD_FRAMESET => s.actFrameset m v
    | .CAD_SEAL => s.actSeal v
    | .CAD_DOORBELL => s.actDoorbell m v
    | .ENL_DEVCFG => s.lockedWrite m r b i s.board.lockedAo v
    | .ENL_ACCTSET => s.actAcctSet m v
    | .ENL_RTC => if m = .keeper then s.plainWrite r b i v else s.ctlErr m true .master off
    | .ENL_DORMCTL => if bitOf v 0 then s.actDorm m else s
    | .ENL_PWRCTL => s.actPwr m i (bitOf v 0)
    | .ENL_PLVL => s.actPlvl m i v
    | .THS_RAISE => s.actRaiseAlarm m v
    | .THS_HOLDCLR => s.actHoldClr m v
    | .THS_KEYCMD => s.actKeyCmd m v
    | .THS_IMGCMD => s.actImgCmd m v
    | .ERR_THRCTL => s.actThrCtl m v
    | .ERR_LERESTART => s.actLeRestart m v
    | .ERR_FLIPMASK => s.actFlipMask m i v
    | .ERR_FLIPDATA => s.actFlipData m i v
    | .MAP_NODE => s.lockedWrite m r b i s.board.locked v
    | .MAP_SVCCTL => s.actSvc m v
    | .MAP_SVCSTAT => s.actSvcStat v
    | .MAP_RBASE => s.actRbound m r i v
    | .MAP_RLIM => s.actRbound m r i v
    | .MAP_RCFG => s.actRcfg m i v
    | .MAP_SLICE => s.actSlice m i v
    | .MAP_LEASEA => s.actLeaseA m i v
    | .MAP_LEASEB => s.actLeaseB m i v
    | .MAP_BORROWA => s.actBorrowA i v
    | .MAP_FLOW => s.actFlow m i v
    | .CL_SRLCTL => s.actSrlctl m (8 * b + i) v
    | .CL_STARTPC => s.actStartPc m (16 * b + i) v
    | .CL_IRAISE => s.actRaise b v
    | .SG_TIODRV => s.actTioDrv m b v
    | .SG_TMRCTL => s.actTmrCtl b i v
    | .SE_SWFRAME => s.actSwFrame m b v
    | .SE_SWSTAT => s.actSwStat b v
    | .SE_DMACTL => s.actDmaCtl (stopOf m) b i v
    | .MC_CFG => s.actMcCfg m b v
    | .MC_WQ_HI => s.actWq m b true v
    | .MC_WQ_LO => s.actWq m b false v
    | .MC_FRZCTL => s.actFrzCtl m b v
    | .MC_MIRCTL => if bitOf v 0 then s.actMirCtl m b v else s
    | .MC_CMPCTL => s.actCmpCtl b v
    | .LE_CTL => if bitOf v 0 then s.actCopy m b else s
    | .LE_UCSW => s.actUcsw m b v
    | .LE_UCSWSTAT =>
      let s := s.plainWrite r b i v
      if bitOf v 1 then s.actUcswCancel b else s
    | .LE_PORTCFG => s.actPortCfg m (4 * b + i) v
    | .LE_PCIECFG => if s.board.locked then s.ctlErr m true .locked off else s.setPcieCfg b (v &&& r.row.lk)
    | .LE_ETHQBASE => if s.flag F.LE_ETHQCTL_EN b i then s.ctlErr m true .stateRule off else s.plainWrite r b i v
    | .LE_ETHQCTL =>
      if s.flag F.LE_ETHQCTL_EN b i && bitOf v 0 then s.ctlErr m true .stateRule off else s.plainWrite r b i v
    | _ => s.plainWrite r b i v

/-- A write of 64 bits of Cadence RAM through its aperture: discarded while the pair runs (R453). -/
def State.cadRamWrite (s : State) (m : Master) (off i : Nat) (v : Word) : State :=
  let r := (s.thread 513).run
  if r ≠ .off ∧ r ≠ .stopped then s.ctlErr m true .stateRule off
  else
    ({ s with cram := mset (mset s.cram (2 * i) (v.setWidth 32) 0) (2 * i + 1) ((v >>> 32).setWidth 32) 0 }).arrWrite 149 0 i

/-- A write that reaches a place whose domain is on. -/
def State.writePlace (s : State) (m : Master) (off : Nat) (p : CtlPlace) (v : Word) : State :=
  match p with
  | .reg r b i => s.regWrite m r b i v
  | .keep w => s.actKeep m w (v.setWidth 32)
  | .keepCount _ => s
  | .plan t i img => s.actPlan m off t i img v
  | .cadRam i => s.cadRamWrite m off i v
  | .ring _ _ => s
  | .snapshot _ _ => s
  | .shadow n i => s.actShadow m n i v
  | .engineMem e k i => s.apWrite m off e k i v
  | .nothing => s

/-- A 64-bit write to control space (R7, R10, R375, R458). -/
def State.ctlWrite (s : State) (m : Master) (off : Nat) (v : Word) : State :=
  let p := ctlPlace off
  s.gate m off (fun s => if s.placeOn p then s.writePlace m off p v else s.ctlErr m true .noRegister off)

/-! ### The rows -/

/-- REGISTER_WRITE (R10). -/
def execRegisterWrite (m : Master) (off : BitVec 40) (v : Word) (s : State) : Host.Outcome State Fault Refusal :=
  .next (s.ctlWrite m off.toNat v)

/-- What a read returns goes to its master; poison is consumed as R416 says: by a core as a MACHINE-CHECK, whose
XTF_INST the row leaves open (entry 6), by a debug session as zero with a record. -/
def State.readTo (s : State) (m : Master) (off : Nat) (quiet : Bool) : State :=
  if !s.live then s
  else match s.ctlRead m off quiet with
    | (.wait, s) => s.setSec { s.sec with trngWait := s.sec.trngWait ++ [(m, false)] }
    | (.data v false, s) => s.emit (.read m off v)
    | (.data v true, s) =>
      match m, Master.th m with
      | .debug, _ => (s.record { kind := 0x04, target := 154, sev := 2 }).emit (.read m off 0)
      | _, some t =>
        let (w, s) := s.draw
        s.machineCheck t (w.toNat % 2 ^ 32) (BitVec.ofNat 64 (ctlBase + off)) (s.globalOf (ctlBase + off))
      | _, none => s.emit (.read m off v)

/-- RC_REGISTER_READ (R10). -/
def execRcRegisterRead (m : Master) (off : BitVec 40) (s : State) : Host.Outcome State Fault Refusal :=
  .next (s.readTo m off.toNat false)

/-- DEBUG_READ (R459). -/
def execDebugRead (off : BitVec 40) (s : State) : Host.Outcome State Fault Refusal :=
  .next (s.readTo .debug off.toNat false)

/-- QUIET_DEBUG_READ (R459). -/
def execQuietDebugRead (off : BitVec 40) (s : State) : Host.Outcome State Fault Refusal :=
  .next (s.readTo .debug off.toNat true)

/-- MAILBOX_DONE_READ (R455). -/
def execMailboxDoneRead (m : Master) (s : State) : Host.Outcome State Fault Refusal :=
  .next (s.readTo m (Reg.KPR_MBOXDB.off 0 0) false)

/-- ENGINE_APERTURE_ACCESS (R188, R164): a read, or a write of the word given. -/
def execEngineApertureAccess (m : Master) (off : BitVec 40) (w : Option Word) (s : State) :
    Host.Outcome State Fault Refusal :=
  .next <|
    match w with
    | none => s.readTo m off.toNat false
    | some v => s.ctlWrite m off.toNat v

/-! ### Half-word accesses (R4 to R6) -/

/-- A write of the low word of the register at off is staged (R4 step 1, R5, R6). -/
def State.lowWrite (s : State) (k : Akz32) (off : Nat) (v : BitVec 32) : State := s.setHalf k (.staged off v)

/-- A write of the high word commits the staged low word with it, or is discarded (R4 step 2, R5, R6). -/
def State.highWrite (s : State) (k : Akz32) (off : Nat) (v : BitVec 32) : State :=
  let err (s : State) : State := s.ctlErr (akzMaster k) true .akz32 (off + 4)
  match s.half k with
  | .empty => err s
  | .staged o lo => if o = off then (s.setHalf k .empty).ctlWrite (akzMaster k) off (v ++ lo) else err (s.setHalf k .empty)
  | .kept _ _ => err (s.setHalf k .empty)

/-- A read of the low word reads all 64 bits and keeps the high word; a staged word is discarded with an error (R4
step 3, R6). -/
def State.lowRead (s : State) (k : Akz32) (off : Nat) : CtlRead × State :=
  let s := match s.half k with
    | .staged _ _ => (s.setHalf k .empty).ctlErr (akzMaster k) false .akz32 off
    | _ => s
  match s.ctlRead (akzMaster k) off false with
  | (.data v p, s) => (.data v p, s.setHalf k (.kept off ((v >>> 32).setWidth 32)))
  | (.wait, s) => (.wait, s)

/-- A read of the high word returns the kept word once, or zero with an error (R4 step 4, R5, R6). -/
def State.highRead (s : State) (k : Akz32) (off : Nat) : BitVec 32 × State :=
  match s.half k with
  | .kept o v => if o = off then (v, s.setHalf k .empty) else (0, s.ctlErr (akzMaster k) false .akz32 (off + 4))
  | _ => (0, s.ctlErr (akzMaster k) false .akz32 (off + 4))

/-- The offset of the register that holds a word. -/
def regOff (off : BitVec 40) : Nat := off.toNat / 8 * 8

/-- AKZ32_LOW_WORD_WRITE (R4 to R6). -/
def execAkz32LowWordWrite (k : Akz32) (off : BitVec 40) (v : BitVec 32) (s : State) : Host.Outcome State Fault Refusal :=
  .next (if s.live then s.lowWrite k (regOff off) v else s)

/-- AKZ32_HIGH_WORD_WRITE (R4 to R6). -/
def execAkz32HighWordWrite (k : Akz32) (off : BitVec 40) (v : BitVec 32) (s : State) : Host.Outcome State Fault Refusal :=
  .next (if s.live then s.highWrite k (regOff off) v else s)

/-- AKZ32_LOW_WORD_READ (R4 to R6). -/
def execAkz32LowWordRead (k : Akz32) (off : BitVec 40) (s : State) : Host.Outcome State Fault Refusal :=
  .next <|
    if !s.live then s
    else match s.lowRead k (regOff off) with
      | (.data v false, s) => s.emit (.half k (v.setWidth 32))
      | (.data _ true, s) =>
        let (w, s) := s.draw
        s.machineCheck (akzTh k) (w.toNat % 2 ^ 32) (BitVec.ofNat 64 (0x8000_0000 + regOff off)) (s.globalOf (ctlBase + regOff off))
      | (.wait, s) => s.setSec { s.sec with trngWait := s.sec.trngWait ++ [((akzMaster k), true)] }

/-- AKZ32_HIGH_WORD_READ (R4 to R6). -/
def execAkz32HighWordRead (k : Akz32) (off : BitVec 40) (s : State) : Host.Outcome State Fault Refusal :=
  .next <|
    if !s.live then s
    else
      let (v, s) := s.highRead k (regOff off)
      s.emit (.half k v)

end Sys2Proof.Machine
end

