-- ==== Sys2Proof/Machine/AkzMem.lean ====
section
/-! DEFINITION. Data accesses and instruction fetch of AKZ threads: where an address lies, the causes of R99 from alignment
on, and the access itself in local memory, in control space, over the fabric and in the RAM of a pair (R67 to R81, R115,
R119, R135, R149, R218, R222, R415, R416, R449). -/
namespace Sys2Proof.Machine

/-! ### Where an address lies -/

/-- The targets of an access: local memory, control space, fabric memory, the ROM or RAM of a pair, nothing. -/
inductive Tgt where
  | mem (a : Nat) (l : Loc)
  | ctl (off : Nat)
  | fabric (node a : Nat)
  | rom
  | ram (o : Nat)
  | nothing
deriving DecidableEq, Repr

/-- One piece of an access, within a 64-byte line: its address, its bytes, how many bytes of the access come before it,
and what translation gives. -/
structure Piece where
  va   : Word
  n    : Nat
  skip : Nat
  tgt  : Tgt
  xl   : Xlat
deriving DecidableEq, Repr

/-- The pieces of an access of n bytes. -/
def splitLine (va : Word) (n : Nat) : List (Word × Nat × Nat) :=
  let room := 64 - va.toNat % 64
  if n ≤ room then [(va, n, 0)] else [(va, room, 0), (va + BitVec.ofNat 64 room, n - room, room)]

/-- The target of a global address (R135). -/
def State.tgtOf (s : State) (ga : Word) : Tgt :=
  match s.space ga with
  | .mem a l => .mem a l
  | .ctl off => .ctl off
  | .fabric d a => .fabric d a
  | .nothing => .nothing

/-- The global address of an address in a pair's window: A32WIN × 2^28 + offset (R449). -/
def Thread.windowAt (x : Thread) (a : Nat) : Word := BitVec.ofNat 64 (getBits (x.csrv 0x440) 35 0 * 2 ^ 28 + a % 2 ^ 28)

/-- The target of a local address of a pair, and its global address (R449). -/
def State.tgt32 (s : State) (t : Nat) (va : Word) : Tgt × Word :=
  let a := va.toNat % 2 ^ 32
  let keeper := t == 512
  if a < 0x1_0000 then (if keeper then .rom else .nothing, va)
  else if 0x10_0000 ≤ a ∧ a < (if keeper then 0x30_0000 else 0x20_0000) then (.ram (a - 0x10_0000), va)
  else if 0x4000_0000 ≤ a ∧ a < 0x5000_0000 then
    let ga := (s.thread t).windowAt a
    (s.tgtOf ga, ga)
  else if 0x8000_0000 ≤ a then (.ctl (a - 0x8000_0000), va)
  else (.nothing, va)

/-- The target an address would have, whatever the permissions. -/
def State.peek (s : State) (t : Nat) (va : Word) : Option Tgt :=
  let x := s.thread t
  if akz32 t then some (s.tgt32 t va).1
  else if x.ctx = .bare then some (s.tgtOf va)
  else match (s.core (coreOf t)).tlbFind x va with
    | some (_, _, e) => some (s.tgtOf (e.global va))
    | none => none

/-- A target is fabric memory. -/
def Tgt.isFabric (g : Tgt) : Bool := match g with | .fabric _ _ => true | _ => false

/-- The TID an access carries; AKZ32 accesses carry 0 (R449). -/
def State.accTid (s : State) (t : Nat) : Nat := if akz32 t then 0 else (s.thread t).tid

/-! ### The causes of a trap before the access (R99 rows 4 to 8) -/

/-- Each part of an access is translated: the trap it would take, or its piece. -/
def State.judgeParts (s : State) (t inst : Nat) (a : Acc) (needR needW : Bool) :
    List (Word × Nat × Nat) → List (Sum Trap Piece) × State
  | [] => ([], s)
  | (va, n, k) :: rest =>
    let (r, s) : Sum Trap Piece × State :=
      if akz32 t then
        let (g, ga) := s.tgt32 t va
        (.inr ⟨va, n, k, g, ⟨ga, false, 0, none⟩⟩, s)
      else match s.translate t va a needR needW with
        | (.inl (cause, info), s) => (.inl ⟨cause, inst, va, info⟩, s)
        | (.inr xl, s) => (.inr ⟨va, n, k, s.tgtOf xl.ga, xl⟩, s)
    let (rs, s) := s.judgeParts t inst a needR needW rest
    (r :: rs, s)

/-- The trap of a part, if it takes one. -/
def partTrap (r : Sum Trap Piece) : Option Trap := match r with | .inl k => some k | .inr _ => none

/-- The pieces of an access, or its trap: a page that misses comes before one that refuses (R68, R99 rows 5 and 6, R143). -/
def State.resolve (s : State) (t inst : Nat) (a : Acc) (needR needW : Bool) (parts : List (Word × Nat × Nat)) :
    Sum Trap (List Piece) × State :=
  let (rs, s) := s.judgeParts t inst a needR needW parts
  let traps := rs.filterMap partTrap
  match traps.find? (fun k => k.cause == 0x06) with
  | some k => (.inl k, s)
  | none => match traps with
    | k :: _ => (.inl k, s)
    | [] => (.inr (rs.filterMap (fun r => match r with | .inr p => some p | .inl _ => none)), s)

/-- A control-space access of a size or alignment that is refused (R3, R68, R222). -/
def ctlBad (t : Nat) (va : Word) (n off : Nat) : Bool :=
  va.toNat % n != 0 || (if pcieSpace off then n == 8 && decide (off < 0x9000_0000) else n != (if akz32 t then 4 else 8))

/-- XTF_INFO of the ACCESS-FAULT that a piece takes (R93, R218, R449). -/
def Piece.fault (p : Piece) (t : Nat) (va : Word) (n : Nat) (write : Bool) : Option Nat :=
  match p.tgt with
  | .ctl off => if ctlBad t va n off then some 1 else none
  | .nothing => some 2
  | .rom => if write then some 2 else none
  | _ => none

/-- An access to an address without memory is counted, logged and takes ACCESS-FAULT (R218). -/
def State.noMemTrap (s : State) (t inst : Nat) (va ga : Word) : State :=
  (s.noMemory (s.accTid t) ga).trap t ⟨0x04, inst, va, 2⟩

/-- Everything before the access itself: the pieces of the access, or the state in which its trap has been taken. `strict`:
an atomic or an f-register access, which must be aligned (R68); `no`: the memory types that ATOMIC-SPACE refuses (R77). -/
def State.front (s : State) (t inst : Nat) (va : Word) (n : Nat) (a : Acc) (needR needW strict : Bool)
    (no : Tgt → Option Nat) : Option (List Piece) × State :=
  let ps := splitLine va n
  if va.toNat % n ≠ 0 ∧ (strict || ps.any (fun p => match s.peek t p.1 with | some g => g.isFabric | none => false)) then
    (none, s.trap t ⟨0x03, inst, va, 0⟩)
  else
    match s.resolve t inst a needR needW ps with
    | (.inl k, s) => (none, s.trap t k)
    | (.inr ps, s) =>
      match ps.findSome? (fun p => no p.tgt) with
      | some i => (none, s.trap t ⟨0x09, inst, va, i⟩)
      | none =>
        match ps.findSome? (fun p => (p.fault t va n needW).map (fun i => (p, i))) with
        | some (p, 1) => (none, s.trap t ⟨0x04, inst, p.va, 1⟩)
        | some (p, _) => (none, s.noMemTrap t inst p.va p.xl.ga)
        | none => (some ps, s)

/-- Ordinary accesses are refused by no memory type. -/
def anySpace (_ : Tgt) : Option Nat := none

/-- Fetch-and-ops are refused in control space (R77). -/
def noControl (g : Tgt) : Option Nat := match g with | .ctl _ => some 2 | _ => none

/-- LDRES and STCOND are refused in control space and in fabric memory (R77). -/
def onlyLocal (g : Tgt) : Option Nat := match g with | .ctl _ => some 2 | .fabric _ _ => some 1 | _ => none

/-! ### The RAM of a pair (R415, R449) -/

/-- The array target of a pair's RAM (R413). -/
def ramTarget (t : Nat) : Nat := if t = 512 then 148 else 149

/-- The 32-bit words of a pair's RAM. -/
def State.ramWords (s : State) (t : Nat) : SMap (BitVec 32) := if t = 512 then s.kram else s.cram

def State.setRam (s : State) (t : Nat) (m : SMap (BitVec 32)) : State :=
  if t = 512 then { s with kram := m } else { s with cram := m }

/-- A 64-bit word of the RAM. -/
def State.ram64 (s : State) (t i : Nat) : Nat :=
  (mgetD (s.ramWords t) (2 * i) 0).toNat + 2 ^ 32 * (mgetD (s.ramWords t) (2 * i + 1) 0).toNat

/-- A 64-bit word is read through its code; an uncorrectable one is a lockstep mismatch of the pair (R415). -/
def State.ramCheck (s : State) (t i : Nat) : Option Nat × State :=
  match s.arrJudge (ramTarget t) 0 i with
  | (.clean, s) => (some (s.ram64 t i), s)
  | (.corrected, s) => (some (s.ram64 t i), s.arrCorrect (ramTarget t) 0 i 0)
  | (.uncorrectable, s) => (none, s.lockstepFail (t == 512) 0)
  | (.beyond, s) =>
    let (v, s) := s.draw
    (some v.toNat, s)

/-- The 64-bit words that n bytes at o touch, as one number; none: the pair has failed. -/
def State.ramSpan (s : State) (t o n : Nat) : Option Nat × State :=
  (List.range ((o + n - 1) / 8 + 1 - o / 8)).foldl (fun acc j =>
    match acc with
    | (none, s) => (none, s)
    | (some v, s) => match s.ramCheck t (o / 8 + j) with
      | (none, s) => (none, s)
      | (some w, s) => (some (v + w * 2 ^ (64 * j)), s)) (some 0, s)

/-- A 64-bit word is written. -/
def State.ramPut64 (s : State) (t i v : Nat) : State :=
  (s.setRam t (mset (mset (s.ramWords t) (2 * i) (BitVec.ofNat 32 v) 0) (2 * i + 1) (BitVec.ofNat 32 (v / 2 ^ 32)) 0)).arrWrite
    (ramTarget t) 0 i

/-- n bytes are written at o; false: the pair has failed. -/
def State.ramStore (s : State) (t o n d : Nat) : Bool × State :=
  match s.ramSpan t o n with
  | (none, s) => (false, s)
  | (some v, s) =>
    let sh := 8 * (o % 8)
    let v := v - v / 2 ^ sh % 2 ^ (8 * n) * 2 ^ sh + d % 2 ^ (8 * n) * 2 ^ sh
    (true, ((List.range ((o + n - 1) / 8 + 1 - o / 8)).foldl (fun s j => s.ramPut64 t (o / 8 + j) (v / 2 ^ (64 * j) % 2 ^ 64)) s).storeResv
      (ramGran t o))

/-! ### Reading and writing one piece -/

/-- Why an access that passed its checks does not complete: memory is missing or withdrawn, it must wait and is tried again,
a frozen channel holds a pair's write, or the pair has failed. -/
inductive Halt where
  | noMemory (p : Piece)
  | withdrawn (p : Piece)
  | wait
  | held
  | failed
deriving DecidableEq, Repr

/-- A Sorrel thread's access to its own region (R78, R115). -/
def State.ownRegion (s : State) (t a : Nat) : Bool := s.sorrel t && s.inRegion (coreOf t) a

/-- A granule is in a core's L1D, and the thread does not bypass it. -/
def State.l1dHit (s : State) (t gran : Nat) : Bool := !s.sorrel t && s.l1dHas (coreOf t) gran

/-- The activity of a core's data access (R357): L1, and L2 where L1 misses. -/
def State.chargeData (s : State) (t gran : Nat) : State :=
  let s := if s.sorrel t then s else s.chargeCore t 2 1
  if s.l1dHit t gran then s else s.chargeCore t 3 1

def Piece.halt (p : Piece) (f : GranFail) : Halt :=
  match f with | .noMemory => .noMemory p | .withdrawn => .withdrawn p | .wait => .wait

/-- A piece is read: its bytes as a number, and poison. `excl`: the granule is obtained in state E. -/
def State.readPiece (s : State) (t : Nat) (p : Piece) (excl : Bool) : Sum Halt (Nat × Bool) × State :=
  match p.tgt with
  | .mem a l =>
    if akz32 t then
      match s.ncRead a l (1#4 <<< (a / 64 % 4)) 0 false (srcOf t) with
      | (.done f, s) => (.inr (f.data.toNat / 2 ^ (8 * (a % 256)) % 2 ^ (8 * p.n), f.ue.getLsbD (a / 64 % 4)), s)
      | (.noMemory, s) => (.inl (.noMemory p), s)
      | (.withdrawn, s) => (.inl (.withdrawn p), s)
      | (.held, s) => (.inl .wait, s)
    else
      let c := coreOf t
      match (s.chargeData t (a / 64)).coreRead c a (s.thread t).tid p.xl.y (s.sorrel t) (s.ownRegion t a)
          (excl && !s.lockedElse c a) (srcOf t) with
      | (.inl f, s) => (.inl (p.halt f), s)
      | (.inr (g, po), s) => (.inr (g.toNat / 2 ^ (8 * (a % 64)) % 2 ^ (8 * p.n), po), s)
  | .ram o =>
    match s.ramSpan t o p.n with
    | (some v, s) => (.inr (v / 2 ^ (8 * (o % 8)) % 2 ^ (8 * p.n), false), s)
    | (none, s) => (.inl .failed, s)
  | _ =>
    -- Keeper ROM, whose contents the manual does not give: a free value (entry 6)
    let (w, s) := s.draw
    (.inr (w.toNat % 2 ^ (8 * p.n), false), s)

/-- A piece of a value is written. A write of a pair that a frozen channel holds is performed when the channel is decided,
and the pair's instruction waits for that (R71, R289). -/
def State.writePiece (s : State) (t : Nat) (p : Piece) (v : Word) : Option Halt × State :=
  let d := v.toNat / 2 ^ (8 * p.skip) % 2 ^ (8 * p.n)
  match p.tgt with
  | .mem a l =>
    if akz32 t then
      match s.ncWrite a l ((BitVec.allOnes p.n).setWidth 256 <<< (a % 256)) (BitVec.ofNat 2048 d <<< (8 * (a % 256))) 0 0 false
          (srcOf t) with
      | (.noMemory, s) => (some (.noMemory p), s)
      | (.withdrawn, s) => (some (.withdrawn p), s)
      | (.held, s) => (some .held, s)
      | (.done _, s) => (none, s)
    else
      let sh := 8 * (a % 64)
      match (s.chargeData t (a / 64)).coreStore (coreOf t) a (s.thread t).tid p.xl.codec p.xl.y (s.ownRegion t a)
          (srcOf t) (BitVec.ofNat 512 ((2 ^ (8 * p.n) - 1) * 2 ^ sh)) (BitVec.ofNat 512 (d * 2 ^ sh)) with
      | (some f, s) => (some (p.halt f), s)
      | (none, s) => (none, s)
  | .ram o =>
    match s.ramStore t o p.n d with
    | (true, s) => (none, s)
    | (false, s) => (some .failed, s)
  | _ => (none, s)

/-- Pieces are read in order of address. -/
def State.readPieces (s : State) (t : Nat) (excl : Bool) : List Piece → Sum Halt (Nat × Bool) × State
  | [] => (.inr (0, false), s)
  | p :: rest =>
    match s.readPiece t p excl with
    | (.inl h, s) => (.inl h, s)
    | (.inr (v, po), s) =>
      match s.readPieces t excl rest with
      | (.inr (w, po'), s) => (.inr (v * 2 ^ (8 * p.skip) + w, po || po'), s)
      | (.inl h, s) => (.inl h, s)

/-- Pieces are written in order of address. -/
def State.writePieces (s : State) (t : Nat) (v : Word) : List Piece → Option Halt × State
  | [] => (none, s)
  | p :: rest =>
    match s.writePiece t p v with
    | (some h, s) => (some h, s)
    | (none, s) => s.writePieces t v rest

/-- Memory takes a write to a piece at once: no frozen channel would hold it (R287, R289). -/
def State.writable (s : State) (p : Piece) : Bool :=
  match p.tgt with
  | .mem _ l => l.cxl || (chansOf l.ch l.mirror).any (fun c => s.takesWrites c)
  | _ => true

/-- A store reaches every granule of a split access before it writes the first (R53): a core obtains them, a pair reads
them and waits while one cannot be written. -/
def State.storePieces (s : State) (t : Nat) (v : Word) (ps : List Piece) : Option Halt × State :=
  match ps with
  | [_] => s.writePieces t v ps
  | _ => match s.readPieces t true ps with
    | (.inl h, s) => (some h, s)
    | (.inr _, s) => if akz32 t && ps.any (fun p => !s.writable p) then (some .wait, s) else s.writePieces t v ps

/-- What an access that does not complete does: a precise trap (R218, R291), or nothing yet. -/
def State.haltTrap (s : State) (t inst : Nat) (h : Halt) : State :=
  match h with
  | .noMemory p => s.noMemTrap t inst p.va p.xl.ga
  | .withdrawn p => s.trap t ⟨0x0A, inst, p.va, 4⟩
  | .wait => s
  | .held => s
  | .failed => s

/-- A use of the TLB that an access makes. -/
def Xlat.use (x : Xlat) (fetch : Bool) : Option TlbUse := x.ent.map (fun e => ⟨fetch, e.1, e.2.1, e.2.2⟩)

/-- What an access will change when its instruction commits: the TLBs (R137), and SRLOUT where it is a Sorrel thread's
outside its region (R119). -/
def State.noteUses (s : State) (t : Nat) (ps : List Piece) : State :=
  let x := s.thread t
  let out (p : Piece) : Bool := match p.tgt with | .mem a _ => !s.inRegion (coreOf t) a | _ => true
  s.setThread t { x with touch := x.touch ++ ps.filterMap (fun p => p.xl.use false), gone := s.sorrel t && ps.any out }

/-- A load that ran ahead commits: its line leaves the fill buffer (R108). The prefetchers train on an access without a
Yarrow tag (R104, R113; entry 137). -/
def State.caughtUp (s : State) (t gran : Nat) (tagged : Bool) : State :=
  let x := s.core (coreOf t)
  (s.setCore (coreOf t) { x with
    fillBuf := x.fillBuf.erase ⟨t % 2, gran⟩,
    train := if tagged then x.train else (gran :: x.train).take 32 }).setThread t
    { s.thread t with ahead := (s.thread t).ahead.erase gran }

/-- An access commits: what it noted, and the replacement state of the caches (R104). `tagged`: the address is tagged, or the
thread is in Yarrow mode. -/
def State.used (s : State) (t : Nat) (ps : List Piece) (tagged : Bool) : State :=
  let s := s.noteUses t ps
  if akz32 t then s
  else ps.foldl (fun s p => match p.tgt with
    | .mem a _ => (s.lineUsed (coreOf t) (a / 64) (s.sorrel t)).caughtUp t (a / 64) (tagged || p.xl.y)
    | _ => s) s

/-! ### Control space -/

/-- The pair of a thread. -/
def pairOf32 (t : Nat) : Akz32 := if t = 512 then .keeper else .cadence

/-- A thread as a master. -/
def masterOf (t : Nat) : Master := if akz32 t then akzMaster (pairOf32 t) else .thread (Fin.ofNat 512 t)

/-- The thread's instruction waits for an access; one to control space was made at commit (R72). -/
def State.awaits (s : State) (t inst : Nat) (va ga : Word) (k : AwaitKind) (atCommit : Bool) : State :=
  s.setThread t { s.thread t with await := some ⟨BitVec.ofNat 32 inst, va, ga, k, atCommit⟩ }

/-- A load from control space (R3 to R6, R222, R410, R416). -/
def State.loadCtl (s : State) (t inst : Nat) (va ga : Word) (off n : Nat) (k : AwaitKind) : State :=
  if pcieSpace off then
    match s.pcieAccess t off n none with
    | (.refuse, s) => s.trap t ⟨0x04, inst, va, 1⟩
    | (.done v, s) => s.finish t k v
    | (.wait, s) => s.awaits t inst va ga k true
  else if akz32 t then
    if off % 8 = 4 then
      let (v, s) := s.highRead (pairOf32 t) (off - 4)
      s.finish t k (v.setWidth 64)
    else match s.lowRead (pairOf32 t) off with
      | (.data v false, s) => s.finish t k v
      | (.data _ true, s) => s.machineCheck t inst va ga
      | (.wait, s) =>
        (s.awaits t inst va ga k true).setSec { s.sec with trngWait := s.sec.trngWait ++ [(masterOf t, true)] }
  else match s.ctlRead (masterOf t) off false with
    | (.data v false, s) => s.finish t k v
    | (.data _ true, s) => s.machineCheck t inst va ga
    | (.wait, s) => (s.awaits t inst va ga k true).setSec { s.sec with trngWait := s.sec.trngWait ++ [(masterOf t, false)] }

/-- A store to control space, performed when the instruction commits (R3 to R6, R72, R222). One to a Keep word waits at the
mesh stop while 16 writes are queued, and its instruction with it (R404). -/
def State.storeCtl (s : State) (t inst : Nat) (va : Word) (off n : Nat) (v : Word) : State :=
  if pcieSpace off then
    match s.pcieAccess t off n (some (BitVec.ofNat 64 (lowN n v))) with
    | (.refuse, s) => s.trap t ⟨0x04, inst, va, 1⟩
    | (_, s) => s.retire t id
  else if akz32 t && decide (0x400 ≤ off ∧ off < 0x8400 ∧ off % 8 = 0 ∧ 16 ≤ s.keepQ.length) then s
  else
    let s := s.retire t id
    if akz32 t then
      if off % 8 = 4 then s.highWrite (pairOf32 t) (off - 4) (v.setWidth 32) else s.lowWrite (pairOf32 t) off (v.setWidth 32)
    else s.ctlWrite (masterOf t) off v

/-! ### Loads and stores -/

/-- A request over the fabric (R345). -/
def State.fabReq (s : State) (t : Nat) (p : Piece) (node a : Nat) (op : FabOp) (aop : Nat) (payload : List Word) : FabReq :=
  ⟨srcOf t, BitVec.ofNat 12 node, BitVec.ofNat 52 a, Fin.ofNat 1024 (s.accTid t), op, false, p.xl.y, p.xl.codec,
    BitVec.ofNat 13 p.n, Fin.ofNat 16 aop, payload⟩

/-- The global address of an access: that of its first piece. -/
def gaOf (ps : List Piece) : Word := match ps with | p :: _ => p.xl.ga | [] => 0

/-- The loaded value goes to its register (R67 to R70). The page's Yarrow attribute is one cause of the result's tag
(R112), which `mk` gives. -/
def State.loadAt (s : State) (t inst : Nat) (va : Word) (n : Nat) (ps : List Piece) (tagged : Bool) (mk : Bool → AwaitKind) :
    State :=
  let k := mk (ps.any (fun p => p.xl.y))
  match ps with
  | [⟨pva, pn, sk, .ctl off, xl⟩] => (s.noteUses t [⟨pva, pn, sk, .ctl off, xl⟩]).loadCtl t inst va xl.ga off n k
  | [⟨pva, pn, sk, .fabric d a, xl⟩] =>
    let p : Piece := ⟨pva, pn, sk, .fabric d a, xl⟩
    ((s.noteUses t [p]).awaits t inst va xl.ga k false).issueOut (s.fabReq t p d a .readReq 0 [])
  | ps =>
    match s.readPieces t false ps with
    | (.inl h, s) => s.haltTrap t inst h
    | (.inr (_, true), s) => s.machineCheck t inst va (gaOf ps)
    | (.inr (v, false), s) => (s.used t ps tagged).finish t k (BitVec.ofNat 64 v)

/-- A load of n bytes. -/
def State.load (s : State) (t inst : Nat) (va : Word) (n : Nat) (strict tagged : Bool) (mk : Bool → AwaitKind) : State :=
  match s.front t inst va n .load true false strict anySpace with
  | (none, s) => s
  | (some ps, s) => s.loadAt t inst va n ps tagged mk

/-- A store that memory has not performed: a trap, or a wait, with what its instruction then writes to rd. -/
def State.storeHalt (s : State) (t inst : Nat) (va : Word) (ps : List Piece) (h : Halt) (rd : Nat) (v : Word) (y : Bool) : State :=
  match h with
  | .held => (s.noteUses t ps).awaits t inst va (gaOf ps) (.stored rd v y) false
  | h => s.haltTrap t inst h

/-- The store of a value of n bytes at its pieces; a fabric store is posted (R74), but a Sorrel thread's is acknowledged
before the next instruction issues (R119). -/
def State.storeAt (s : State) (t inst : Nat) (va : Word) (n : Nat) (v : Word) (ps : List Piece) (tagged : Bool) : State :=
  match ps with
  | [⟨pva, pn, sk, .ctl off, xl⟩] => (s.noteUses t [⟨pva, pn, sk, .ctl off, xl⟩]).storeCtl t inst va off n v
  | [⟨pva, pn, sk, .fabric d a, xl⟩] =>
    let p : Piece := ⟨pva, pn, sk, .fabric d a, xl⟩
    let r := s.fabReq t p d a .write 0 [BitVec.ofNat 64 (lowN n v)]
    let s := (s.noteUses t [p]).retire t id
    (if s.sorrel t then s.awaits t inst va xl.ga .ack true else s).issueOut r
  | ps =>
    match s.storePieces t v ps with
    | (some h, s) => s.storeHalt t inst va ps h 0 0 false
    | (none, s) => (s.used t ps tagged).retire t id

/-- A store of n bytes. -/
def State.store (s : State) (t inst : Nat) (va : Word) (n : Nat) (strict tagged : Bool) (v : Word) : State :=
  match s.front t inst va n .store false true strict anySpace with
  | (none, s) => s
  | (some ps, s) => s.storeAt t inst va n v ps tagged

/-! ### Atomics (R75 to R78) -/

/-- The granule that a reservation on a target names. -/
def Tgt.gran (g : Tgt) (t : Nat) : Nat :=
  match g with
  | .mem a _ => a / 64
  | .ram o => ramGran t o
  | _ => 2 ^ 61

/-- A fetch-and-op of n bytes: one indivisible read and write, at the home node in fabric memory. -/
def State.fetchOp (s : State) (t inst op n rd : Nat) (va x : Word) (tagged : Bool) (mk : Bool → Bool) : State :=
  match s.front t inst va n .atomic true true true noControl with
  | (some [p], s) =>
    let k : AwaitKind := .atomic rd n (mk p.xl.y)
    match p.tgt with
    | .fabric d a =>
      ((s.noteUses t [p]).awaits t inst va p.xl.ga k false).issueOut (s.fabReq t p d a .fetchOp op [BitVec.ofNat 64 (lowN n x)])
    | _ =>
      match s.readPiece t p true with
      | (.inl h, s) => s.haltTrap t inst h
      | (.inr (_, true), s) => s.machineCheck t inst va p.xl.ga
      | (.inr (old, false), s) =>
        match s.writePiece t p (amoApply op n (BitVec.ofNat 64 old) x) with
        | (some h, s) => s.storeHalt t inst va [p] h rd (extend t n true (BitVec.ofNat 64 old)) (mk p.xl.y)
        | (none, s) => (s.used t [p] tagged).finish t k (BitVec.ofNat 64 old)
  | (_, s) => s

/-- LDRES: the granule is obtained in state E, the reservation is set and its hold starts. -/
def State.loadReserve (s : State) (t inst n rd : Nat) (va : Word) (tagged : Bool) (mk : Bool → Bool) : State :=
  match s.front t inst va n .atomic true false true onlyLocal with
  | (some [p], s) =>
    match s.readPiece t p true with
    | (.inl h, s) => s.haltTrap t inst h
    | (.inr (_, true), s) => s.machineCheck t inst va p.xl.ga
    | (.inr (v, false), s) =>
      let s := s.used t [p] tagged
      (s.setThread t { s.thread t with resv := some (p.tgt.gran t), hold := true }).finish t (.atomic rd n (mk p.xl.y))
        (BitVec.ofNat 64 v)
  | (_, s) => s

/-- STCOND: it stores where the reservation is valid and covers the address; the reservation is then cleared. -/
def State.storeCond (s : State) (t inst n rd : Nat) (va v : Word) (tagged y : Bool) : State :=
  match s.front t inst va n .atomic false true true onlyLocal with
  | (some [p], s) =>
    let hit := decide ((s.thread t).resv = some (p.tgt.gran t))
    match (if hit then s.writePiece t p v else (none, s)) with
    | (some h, s) => s.storeHalt t inst va [p] h rd 1 y
    | (none, s) =>
      (if hit then s.used t [p] tagged else s.noteUses t [p]).retire t (fun x => { x.setReg rd (if hit then 1 else 0) y with resv := none, hold := false })
  | (_, s) => s

/-! ### Instruction fetch (R80, R99 row 1, R103, R115) -/

/-- The number of the line an instruction lies in: the global line of a compute thread, the local one of a pair. -/
def fetchLine (t : Nat) (va ga : Word) : Nat := if akz32 t then va.toNat / 64 else ga.toNat / 64

/-- A line of words is at hand; a Sorrel thread's from outside its region counts (R119). -/
def State.fetchedLine (s : State) (t line : Nat) (out : Bool) : State :=
  let x := (s.thread t).lineIn line (s.sorrel t)
  s.setThread t (if s.sorrel t && out then x.fetchOut else x)

/-- A granule is in L1I and reads well; an uncorrectable line is fetched again, and recorded (R415). -/
def State.l1iHit (s : State) (c gran tid : Nat) : Bool × State :=
  let st := mgetD (s.core c).l1i (l1iSet gran) .empty
  match st.find (fun g => g == gran) with
  | none => (false, s)
  | some (w, _) =>
    let (bad, _, s) := s.granRead (coreTarget c) (coreSub c 0) ((l1iSet gran * 4 + w) * 8) tid false 0
    let x := s.core c
    if bad then (false, s.setCore c { x with l1i := dropGran x.l1i (l1iSet gran) gran })
    else (true, s.setCore c { x with l1i := mput x.l1i (l1iSet gran) (st.plru 2 w) })

/-- The line of a compute thread comes from L1I, which a Sorrel thread bypasses, or from L2, with the page's Yarrow
attribute (R103, R115, R119, R148). -/
def State.fetchMem (s : State) (t : Nat) (va ga : Word) (a line : Nat) (y : Bool) : Bool × State :=
  let c := coreOf t
  let tid := (s.thread t).tid
  let srl := s.sorrel t
  let out := !s.inRegion c a
  let (hit, s) := if srl then (false, s) else (s.chargeCore t 2 1).l1iHit c (a / 64) tid
  if hit then (true, s.fetchedLine t line out)
  else
    match (s.chargeCore t 3 1).obtain c a tid y false (s.ownRegion t a) (srcOf t) 1 with
    | (some .noMemory, s) => (false, s.noMemTrap t 0 va ga)
    | (some .withdrawn, s) => (false, s.trap t ⟨0x0A, 0, va, 4⟩)
    | (some .wait, s) => (false, s)
    | (none, s) =>
      let s := if srl then s else s.l1iFill c (a / 64)
      match s.l2Find c (a / 64) with
      | some (w, e) =>
        if e.poison then (false, s.machineCheck t 0 va ga) else (true, (s.l2Touch c (a / 64) w).fetchedLine t line out)
      | none => (true, s.fetchedLine t line out)

/-- A new line is fetched from its target. -/
def State.fetchAt (s : State) (t : Nat) (va : Word) (g : Tgt) (xl : Xlat) (line : Nat) : Bool × State :=
  match g with
  | .mem a l =>
    if akz32 t then
      match s.readPiece t ⟨va, 4, 0, .mem a l, xl⟩ false with
      | (.inl h, s) => (false, s.haltTrap t 0 h)
      | (.inr (_, true), s) => (false, s.machineCheck t 0 va xl.ga)
      | (.inr (_, false), s) => (true, s.fetchedLine t line false)
    else s.fetchMem t va xl.ga a line xl.y
  | .ctl _ => (false, s.trap t ⟨0x04, 0, va, 1⟩)
  | .nothing => (false, s.noMemTrap t 0 va xl.ga)
  | .rom => (true, s.fetchedLine t line false)
  | .ram o =>
    match s.ramCheck t (o / 8) with
    | (some _, s) => (true, s.fetchedLine t line false)
    | (none, s) => (false, s)
  | .fabric d a =>
    let p : Piece := ⟨va, 64, 0, .fabric d a, xl⟩
    (false, (s.awaits t 0 va xl.ga (.fetch line) false).issueOut (s.fabReq t p d (a / 64 * 64) .readReq 0 []))

/-- A Sorrel thread in the first instruction it executes in a line requests the next one (R118): from L2, or over the
normal path; one that does not come at once is fetched when it is reached. -/
def State.fetchNext (s : State) (t : Nat) (va : Word) (xl : Xlat) : State :=
  let line := xl.ga.toNat / 64 + 1
  let ga := xl.ga + 64
  if !s.sorrel t || (s.thread t).fetched.contains line || va.toNat / 4096 != (va.toNat + 64) / 4096 then s
  else match s.tgtOf ga with
    | .mem a _ =>
      match (s.chargeCore t 3 1).obtain (coreOf t) a (s.thread t).tid xl.y false (s.ownRegion t a) (srcOf t) 1 with
      | (none, s) => match s.l2Find (coreOf t) (a / 64) with
        | some (_, e) => if e.poison then s else s.fetchedLine t line (!s.inRegion (coreOf t) a)
        | none => s
      | (some _, s) => s
    | _ => s

/-- The instruction that starts has made no access yet but its fetch (R137). -/
def State.startInsn (s : State) (t : Nat) (xl : Xlat) : State :=
  s.setThread t { s.thread t with touch := (xl.use true).toList, gone := false }

/-- The word at the pc is fetched: true, and the instruction goes on; false, and the fetch has trapped or waits. -/
def State.fetch (s : State) (t : Nat) : Bool × State :=
  let x := s.thread t
  if akz32 t then
    let (g, ga) := s.tgt32 t x.pc
    let line := fetchLine t x.pc ga
    let xl : Xlat := ⟨ga, false, 0, none⟩
    let s := s.startInsn t xl
    if x.fetched.contains line then (true, s) else s.fetchAt t x.pc g xl line
  else
    match s.translate t x.pc .fetch false false with
    | (.inl (cause, info), s) => (false, s.trap t ⟨cause, 0, x.pc, info⟩)
    | (.inr xl, s) =>
      let line := fetchLine t x.pc xl.ga
      let s := s.startInsn t xl
      if x.fetched.head? = some line then (true, s)
      else
        let (ok, s) := if x.fetched.contains line then (true, s.setThread t ((s.thread t).lineIn line true))
          else s.fetchAt t x.pc (s.tgtOf xl.ga) xl line
        if ok then (true, s.fetchNext t x.pc xl) else (false, s)

/-- An instruction of a thread reaches commit (R53, R99, R102): one that cannot issue has no effect yet (entry 8); a
deliverable interrupt is taken first; then the fetch; then the instruction. -/
def State.insn (s : State) (t : Nat) (body : State → State) : State :=
  if !s.atCommit t then s
  else match s.nextVec t false with
    | some e => s.selectVec t e
    | none =>
      if s.fetchGated t then s
      else match s.fetch t with
        | (true, s) => body s
        | (false, s) => s

/-! ### RESERVED-OPCODE and PRIVILEGED-INSTRUCTION (R88, R92, R93) -/

/-- RESERVED-OPCODE. -/
def State.reserved (s : State) (t inst info : Nat) : State := s.trap t ⟨0x01, inst, 0, info⟩

/-- PRIVILEGED-INSTRUCTION. -/
def State.privileged (s : State) (t inst info : Nat) : State := s.trap t ⟨0x02, inst, 0, info⟩

/-- An instruction that AKZ32 reserves with XTF_INFO `info`. -/
def State.only64 (s : State) (t inst info : Nat) (body : State → State) : State :=
  if akz32 t then s.reserved t inst info else body s

/-- An instruction with a lowest privilege. -/
def State.atLeast (s : State) (t inst : Nat) (p : Priv) (body : State → State) : State :=
  if (s.thread t).priv.code < p.code then s.privileged t inst 1 else body s

/-- The tag of a result whose source operands are tagged or not (R112). -/
def Thread.tagOf (x : Thread) (src : Bool) : Bool := x.yarrow || src

end Sys2Proof.Machine
end

