-- ==== Sys2Proof/Machine/AkzInt.lean ====
section
/-! DEFINITION. The integer, immediate, branch and jump instructions of AKZ (R61 to R66, R105, R106, R113). -/
namespace Sys2Proof.Machine

/-! ### Results -/

/-- A register as an unsigned number of w bits. -/
def Thread.num (x : Thread) (w : Nat) (r : Nat) : Nat := (x.reg r).toNat % 2 ^ w

/-- An exact result narrowed to the register width of a thread; a word form's is sign-extended (R62). -/
def narrow (t : Nat) (wf : Bool) (v : Int) : Word :=
  if wf then (BitVec.ofInt 32 v).signExtend 64 else if akz32 t then (BitVec.ofInt 32 v).setWidth 64 else BitVec.ofInt 64 v

/-- The operand width of a form. -/
def formWidth (t : Nat) (wf : Bool) : Nat := if wf then 32 else wid t

/-- An integer instruction commits: a word form is reserved on AKZ32 (R61, R65); a multiply or divide is charged as one
(R357). -/
def State.intOp (s : State) (t inst : Nat) (wf muldiv : Bool) (rd : R5) (src : Thread → Bool) (f : Thread → Nat → Int) : State :=
  s.insn t (fun s =>
    if wf && akz32 t then s.reserved t inst 1
    else
      let x := s.thread t
      let v := narrow t wf (f x (formWidth t wf))
      (if muldiv then s.chargeCore t 4 1 else s).retire t (fun x => x.setReg rd.val v (x.tagOf (src x))))

/-- Format R (R61). -/
def State.opR (s : State) (t : Th) (wf muldiv : Bool) (funct : Nat) (rd rs1 rs2 : R5) (f : Nat → Nat → Nat → Int) :
    Host.Outcome State Fault Refusal :=
  .next (s.intOp t.val (wordR 0x01 rd rs1 rs2 funct) wf muldiv rd (fun x => x.regY rs1.val || x.regY rs2.val)
    (fun x w => f w (x.num w rs1.val) (x.num w rs2.val)))

/-- Format I (R65): the sign-extended immediate is the second operand. -/
def State.opI (s : State) (t : Th) (maj : Nat) (rd rs1 : R5) (imm : BitVec 16) (f : Nat → Nat → Nat → Int) :
    Host.Outcome State Fault Refusal :=
  .next (s.intOp t.val (wordI maj rd rs1 imm) false false rd (fun x => x.regY rs1.val)
    (fun x w => f w (x.num w rs1.val) ((immS imm).toNat % 2 ^ w)))

/-- SHI (R65): shamt[5] is reserved in a word form and on AKZ32. -/
def State.opSh (s : State) (t : Th) (kind : Nat) (wf : Bool) (rd rs1 : R5) (shamt : BitVec 6) (f : Nat → Nat → Nat → Int) :
    Host.Outcome State Fault Refusal :=
  let inst := wordSH rd rs1 kind wf shamt
  .next <|
    if shamt.getLsbD 5 && ((wf && !akz32 t.val) || (!wf && akz32 t.val)) then s.insn t.val (fun s => s.reserved t.val inst 3)
    else s.intOp t.val inst wf false rd (fun x => x.regY rs1.val) (fun x w => f w (x.num w rs1.val) shamt.toNat)

/-! ### OP (R61) -/

def execAdd (t : Th) (rd rs1 rs2 : R5) (s : State) : Host.Outcome State Fault Refusal :=
  s.opR t false false 0x000 rd rs1 rs2 aluAdd
def execSub (t : Th) (rd rs1 rs2 : R5) (s : State) : Host.Outcome State Fault Refusal :=
  s.opR t false false 0x001 rd rs1 rs2 aluSub
def execAnd (t : Th) (rd rs1 rs2 : R5) (s : State) : Host.Outcome State Fault Refusal :=
  s.opR t false false 0x002 rd rs1 rs2 aluAnd
def execOr (t : Th) (rd rs1 rs2 : R5) (s : State) : Host.Outcome State Fault Refusal :=
  s.opR t false false 0x003 rd rs1 rs2 aluOr
def execXor (t : Th) (rd rs1 rs2 : R5) (s : State) : Host.Outcome State Fault Refusal :=
  s.opR t false false 0x004 rd rs1 rs2 aluXor
def execSll (t : Th) (rd rs1 rs2 : R5) (s : State) : Host.Outcome State Fault Refusal :=
  s.opR t false false 0x005 rd rs1 rs2 aluSll
def execSrl (t : Th) (rd rs1 rs2 : R5) (s : State) : Host.Outcome State Fault Refusal :=
  s.opR t false false 0x006 rd rs1 rs2 aluSrl
def execSra (t : Th) (rd rs1 rs2 : R5) (s : State) : Host.Outcome State Fault Refusal :=
  s.opR t false false 0x007 rd rs1 rs2 aluSra
def execSlt (t : Th) (rd rs1 rs2 : R5) (s : State) : Host.Outcome State Fault Refusal :=
  s.opR t false false 0x008 rd rs1 rs2 aluSlt
def execSltu (t : Th) (rd rs1 rs2 : R5) (s : State) : Host.Outcome State Fault Refusal :=
  s.opR t false false 0x009 rd rs1 rs2 aluSltu
def execSeq (t : Th) (rd rs1 rs2 : R5) (s : State) : Host.Outcome State Fault Refusal :=
  s.opR t false false 0x00A rd rs1 rs2 aluSeq
def execSne (t : Th) (rd rs1 rs2 : R5) (s : State) : Host.Outcome State Fault Refusal :=
  s.opR t false false 0x00B rd rs1 rs2 aluSne
def execMul (t : Th) (rd rs1 rs2 : R5) (s : State) : Host.Outcome State Fault Refusal :=
  s.opR t false true 0x010 rd rs1 rs2 aluMul
def execMulh (t : Th) (rd rs1 rs2 : R5) (s : State) : Host.Outcome State Fault Refusal :=
  s.opR t false true 0x011 rd rs1 rs2 aluMulh
def execMulhu (t : Th) (rd rs1 rs2 : R5) (s : State) : Host.Outcome State Fault Refusal :=
  s.opR t false true 0x012 rd rs1 rs2 aluMulhu
def execMulhsu (t : Th) (rd rs1 rs2 : R5) (s : State) : Host.Outcome State Fault Refusal :=
  s.opR t false true 0x013 rd rs1 rs2 aluMulhsu
def execDiv (t : Th) (rd rs1 rs2 : R5) (s : State) : Host.Outcome State Fault Refusal :=
  s.opR t false true 0x018 rd rs1 rs2 aluDiv
def execDivu (t : Th) (rd rs1 rs2 : R5) (s : State) : Host.Outcome State Fault Refusal :=
  s.opR t false true 0x019 rd rs1 rs2 aluDivu
def execRem (t : Th) (rd rs1 rs2 : R5) (s : State) : Host.Outcome State Fault Refusal :=
  s.opR t false true 0x01A rd rs1 rs2 aluRem
def execRemu (t : Th) (rd rs1 rs2 : R5) (s : State) : Host.Outcome State Fault Refusal :=
  s.opR t false true 0x01B rd rs1 rs2 aluRemu
def execAddw (t : Th) (rd rs1 rs2 : R5) (s : State) : Host.Outcome State Fault Refusal :=
  s.opR t true false 0x100 rd rs1 rs2 aluAdd
def execSubw (t : Th) (rd rs1 rs2 : R5) (s : State) : Host.Outcome State Fault Refusal :=
  s.opR t true false 0x101 rd rs1 rs2 aluSub
def execSllw (t : Th) (rd rs1 rs2 : R5) (s : State) : Host.Outcome State Fault Refusal :=
  s.opR t true false 0x105 rd rs1 rs2 aluSll
def execSrlw (t : Th) (rd rs1 rs2 : R5) (s : State) : Host.Outcome State Fault Refusal :=
  s.opR t true false 0x106 rd rs1 rs2 aluSrl
def execSraw (t : Th) (rd rs1 rs2 : R5) (s : State) : Host.Outcome State Fault Refusal :=
  s.opR t true false 0x107 rd rs1 rs2 aluSra
def execMulw (t : Th) (rd rs1 rs2 : R5) (s : State) : Host.Outcome State Fault Refusal :=
  s.opR t true true 0x110 rd rs1 rs2 aluMul
def execDivw (t : Th) (rd rs1 rs2 : R5) (s : State) : Host.Outcome State Fault Refusal :=
  s.opR t true true 0x118 rd rs1 rs2 aluDiv
def execDivuw (t : Th) (rd rs1 rs2 : R5) (s : State) : Host.Outcome State Fault Refusal :=
  s.opR t true true 0x119 rd rs1 rs2 aluDivu
def execRemw (t : Th) (rd rs1 rs2 : R5) (s : State) : Host.Outcome State Fault Refusal :=
  s.opR t true true 0x11A rd rs1 rs2 aluRem
def execRemuw (t : Th) (rd rs1 rs2 : R5) (s : State) : Host.Outcome State Fault Refusal :=
  s.opR t true true 0x11B rd rs1 rs2 aluRemu

/-! ### Immediates (R65) -/

def execAddi (t : Th) (rd rs1 : R5) (imm : BitVec 16) (s : State) : Host.Outcome State Fault Refusal :=
  s.opI t 0x02 rd rs1 imm aluAdd
def execAndi (t : Th) (rd rs1 : R5) (imm : BitVec 16) (s : State) : Host.Outcome State Fault Refusal :=
  s.opI t 0x03 rd rs1 imm aluAnd
def execOri (t : Th) (rd rs1 : R5) (imm : BitVec 16) (s : State) : Host.Outcome State Fault Refusal :=
  s.opI t 0x04 rd rs1 imm aluOr
def execXori (t : Th) (rd rs1 : R5) (imm : BitVec 16) (s : State) : Host.Outcome State Fault Refusal :=
  s.opI t 0x05 rd rs1 imm aluXor
def execSlti (t : Th) (rd rs1 : R5) (imm : BitVec 16) (s : State) : Host.Outcome State Fault Refusal :=
  s.opI t 0x06 rd rs1 imm aluSlt
def execSltiu (t : Th) (rd rs1 : R5) (imm : BitVec 16) (s : State) : Host.Outcome State Fault Refusal :=
  s.opI t 0x07 rd rs1 imm aluSltu
def execSlli (t : Th) (word : Bool) (rd rs1 : R5) (shamt : BitVec 6) (s : State) : Host.Outcome State Fault Refusal :=
  s.opSh t 0 word rd rs1 shamt aluSll
def execSrli (t : Th) (word : Bool) (rd rs1 : R5) (shamt : BitVec 6) (s : State) : Host.Outcome State Fault Refusal :=
  s.opSh t 1 word rd rs1 shamt aluSrl
def execSrai (t : Th) (word : Bool) (rd rs1 : R5) (shamt : BitVec 6) (s : State) : Host.Outcome State Fault Refusal :=
  s.opSh t 2 word rd rs1 shamt aluSra

/-- LUI (R65): sext(imm) × 2^16. -/
def execLui (t : Th) (rd : R5) (imm : BitVec 21) (s : State) : Host.Outcome State Fault Refusal :=
  .next (s.intOp t.val (wordU 0x09 rd imm) false false rd (fun _ => false) (fun _ _ => imm.toInt * 2 ^ 16))

/-- AUIPC (R65): its own address + sext(imm) × 2^16. -/
def execAuipc (t : Th) (rd : R5) (imm : BitVec 21) (s : State) : Host.Outcome State Fault Refusal :=
  .next (s.intOp t.val (wordU 0x0A rd imm) false false rd (fun _ => false) (fun x _ => x.pc.toNat + imm.toInt * 2 ^ 16))

/-! ### Branches and jumps (R66) -/

/-- The tags of a thread's predictor entries (R105). -/
def State.predTag (s : State) (t : Nat) : PredTag :=
  ⟨decide (t % 2 = 1), BitVec.ofNat 10 (s.thread t).tid, (s.thread t).priv⟩

/-- The directions recorded for the branch at the pc, under the thread's own tags (R105). -/
def State.seenAt (s : State) (t : Nat) : List Bool :=
  match (s.core (coreOf t)).dirPred.find? (fun o => decide (o.tag = s.predTag t ∧ o.pc = (s.thread t).pc)) with
  | some e => e.taken
  | none => []

/-- Word i of the predictor array is looked up: entries that its code finds uncorrectable go (R415). -/
def State.predCheck (s : State) (t i : Nat) : State :=
  let c := coreOf t
  match s.arrJudge (coreTarget c) (coreSub c 5) i with
  | (.corrected, s) => s.arrCorrect (coreTarget c) (coreSub c 5) i (s.thread t).tid
  | (.uncorrectable, s) => (s.setCore c ((s.core c).predDrop i)).arrUncorr 0x02 (coreTarget c) (coreSub c 5) i (s.thread t).tid
  | (_, s) => s

/-- The direction predicted for the branch at the pc; a Sorrel thread's is not taken (R105, R115). -/
def State.predictDir (s : State) (t : Nat) : Bool := !s.sorrel t && Config.direction (s.seenAt t)

/-- The direction predictor takes a committed branch; the model keeps the 4,096 newest entries (R105, R106; entry 137). -/
def State.learnDir (s : State) (t : Nat) (taken : Bool) : State :=
  let x := s.thread t
  let c := coreOf t
  let e : DirPred := ⟨s.predTag t, x.pc, taken :: s.seenAt t⟩
  let old := (s.core c).dirPred.filter (fun o => !decide (o.tag = e.tag ∧ o.pc = e.pc))
  (s.setCore c { s.core c with dirPred := (e :: old).take 4096 }).arrWrite (coreTarget c) (coreSub c 5) (x.pc.toNat / 4 % 4096)

/-- The target predicted for a JALR: the top of the return stack where it pops one, else the indirect-target entry at the
hash of the path history; either only under the thread's own tags (R105). -/
def State.predictTarget (s : State) (t : Nat) (pop : Bool) : Option Word :=
  let x := s.thread t
  if s.sorrel t then none
  else if pop then match x.ras with
    | r :: _ => if r.tid.toNat = x.tid ∧ r.priv = x.priv then some r.addr else none
    | [] => none
  else match mget (s.core (coreOf t)).indPred (Config.pathHash x.hist).val with
    | some e => if e.tag = s.predTag t then some e.target else none
    | none => none

/-- The indirect-target table takes a committed JALR at the hash of the path history before it (R105, R106). -/
def State.learnTarget (s : State) (t : Nat) (target : Word) : State :=
  let c := coreOf t
  let i := (Config.pathHash (s.thread t).hist).val
  (s.setCore c { s.core c with indPred := mput (s.core c).indPred i ⟨s.predTag t, target⟩ }).arrWrite (coreTarget c)
    (coreSub c 5) (4096 + i)

/-- A branch or jump that was predicted wrong squashes its wrong path (R106, R108). -/
def State.resolved (s : State) (t : Nat) (wrong : Bool) : State := if wrong && !akz32 t then s.squash t else s

/-- A taken transfer joins the path history (R105). -/
def Thread.tookFrom (x : Thread) (pc : Word) : Thread := { x with hist := ((pc >>> 2).setWidth 19 :: x.hist).take 32 }

/-- A branch commits: it goes to its target or to the next instruction; one with a tagged operand, or of a Yarrow thread, leaves the
predictor as it is (R113). -/
def State.branch (s : State) (t : Nat) (taken tagged : Bool) (off : Word) : State :=
  let x := s.thread t
  let target := cutTo t (x.pc + off * 4)
  let note := !akz32 t && !x.tagOf tagged
  let s := if akz32 t || s.sorrel t then s else s.predCheck t (x.pc.toNat / 4 % 4096)
  let s := s.resolved t (s.predictDir t != taken)
  (if note then s.learnDir t taken else s).retireTo t (if taken then target else x.pc + 4)
    (fun x => if note && taken then x.tookFrom x.pc else x)

/-- Format B. -/
def State.opB (s : State) (t : Th) (rs1 rs2 : R5) (off : BitVec 16) (c : Nat → Nat → Nat → Bool) : Host.Outcome State Fault Refusal :=
  .next (s.insn t.val (fun s =>
    let x := s.thread t.val
    let w := wid t.val
    s.branch t.val (c w (x.num w rs1.val) (x.num w rs2.val)) (x.regY rs1.val || x.regY rs2.val) (immS off)))

/-- Format BI: the immediate is zero-extended for the unsigned conditions. -/
def State.opBI (s : State) (t : Th) (rs1 : R5) (imm : BitVec 10) (off : BitVec 11) (unsigned : Bool) (c : Nat → Nat → Nat → Bool) :
    Host.Outcome State Fault Refusal :=
  .next (s.insn t.val (fun s =>
    let x := s.thread t.val
    let w := wid t.val
    let v : Word := if unsigned then imm.setWidth 64 else immS imm
    s.branch t.val (c w (x.num w rs1.val) (v.toNat % 2 ^ w)) (x.regY rs1.val) (immS off)))

def execBeq (t : Th) (rs1 rs2 : R5) (off : BitVec 16) (s : State) : Host.Outcome State Fault Refusal :=
  s.opB t rs1 rs2 off cmpEq
def execBne (t : Th) (rs1 rs2 : R5) (off : BitVec 16) (s : State) : Host.Outcome State Fault Refusal :=
  s.opB t rs1 rs2 off cmpNe
def execBlt (t : Th) (rs1 rs2 : R5) (off : BitVec 16) (s : State) : Host.Outcome State Fault Refusal :=
  s.opB t rs1 rs2 off cmpLt
def execBge (t : Th) (rs1 rs2 : R5) (off : BitVec 16) (s : State) : Host.Outcome State Fault Refusal :=
  s.opB t rs1 rs2 off cmpGe
def execBltu (t : Th) (rs1 rs2 : R5) (off : BitVec 16) (s : State) : Host.Outcome State Fault Refusal :=
  s.opB t rs1 rs2 off cmpLtu
def execBgeu (t : Th) (rs1 rs2 : R5) (off : BitVec 16) (s : State) : Host.Outcome State Fault Refusal :=
  s.opB t rs1 rs2 off cmpGeu
def execBeqi (t : Th) (rs1 : R5) (imm : BitVec 10) (off : BitVec 11) (s : State) : Host.Outcome State Fault Refusal :=
  s.opBI t rs1 imm off false cmpEq
def execBnei (t : Th) (rs1 : R5) (imm : BitVec 10) (off : BitVec 11) (s : State) : Host.Outcome State Fault Refusal :=
  s.opBI t rs1 imm off false cmpNe
def execBlti (t : Th) (rs1 : R5) (imm : BitVec 10) (off : BitVec 11) (s : State) : Host.Outcome State Fault Refusal :=
  s.opBI t rs1 imm off false cmpLt
def execBgei (t : Th) (rs1 : R5) (imm : BitVec 10) (off : BitVec 11) (s : State) : Host.Outcome State Fault Refusal :=
  s.opBI t rs1 imm off false cmpGe
def execBltui (t : Th) (rs1 : R5) (imm : BitVec 10) (off : BitVec 11) (s : State) : Host.Outcome State Fault Refusal :=
  s.opBI t rs1 imm off true cmpLtu
def execBgeui (t : Th) (rs1 : R5) (imm : BitVec 10) (off : BitVec 11) (s : State) : Host.Outcome State Fault Refusal :=
  s.opBI t rs1 imm off true cmpGeu

/-- A jump commits: rd takes the address after it; the path history and the return stack note it. A jump that writes a
register other than g0 pushes its return address; a JALR that writes none pops one (R105; entry 137). -/
def State.jump (s : State) (t : Nat) (rd : R5) (target : Word) (note pop tagged : Bool) : State :=
  let note := note && !akz32 t
  s.retireTo t target (fun x =>
    let link := cutTo t (x.pc + 4)
    let y := x.setReg rd.val link (x.tagOf tagged)
    if note then
      let y := y.tookFrom x.pc
      { y with ras := if rd.val ≠ 0 then (⟨BitVec.ofNat 10 x.tid, x.priv, link⟩ :: y.ras).take 32 else if pop then y.ras.drop 1 else y.ras }
    else y)

/-- JAL (R66). -/
def execJal (t : Th) (rd : R5) (off : BitVec 21) (s : State) : Host.Outcome State Fault Refusal :=
  .next (s.insn t.val (fun s => s.jump t.val rd ((s.thread t.val).pc + immS off * 4) true false false))

/-- JALR (R66): a target that is no multiple of 4 takes ALIGNMENT. -/
def execJalr (t : Th) (rd rs1 : R5) (imm : BitVec 16) (s : State) : Host.Outcome State Fault Refusal :=
  .next (s.insn t.val (fun s =>
    let x := s.thread t.val
    let target := cutTo t.val (x.reg rs1.val + immS imm)
    let tagged := x.regY rs1.val
    if target.toNat % 4 ≠ 0 then s.trap t.val ⟨0x03, wordI 0x1F rd rs1 imm, target, 0⟩
    else
      let s := if akz32 t.val || s.sorrel t.val then s else s.predCheck t.val (4096 + (Config.pathHash x.hist).val)
      let s := s.resolved t.val ((s.predictTarget t.val (rd.val == 0)).any (fun p => p != target))
      (if x.tagOf tagged || akz32 t.val then s else s.learnTarget t.val target).jump t.val rd target (!x.tagOf tagged) true tagged))

end Sys2Proof.Machine
end

