-- ==== Sys2Proof/Machine/AkzLs.lean ====
section
/-! DEFINITION. The loads, stores, atomics and fences of AKZ (R67 to R81). -/
namespace Sys2Proof.Machine

/-! ### Loads and stores (R67, R83) -/

/-- The effective address. -/
def Thread.ea (x : Thread) (t : Nat) (rs1 : R5) (imm : BitVec 16) : Word := cutTo t (x.reg rs1.val + immS imm)

/-- A load into a general register; `only`: AKZ64 alone has it. -/
def State.loadG (s : State) (t : Th) (maj size : Nat) (signed only : Bool) (rd rs1 : R5) (imm : BitVec 16) :
    Host.Outcome State Fault Refusal :=
  let inst := wordI maj rd rs1 imm
  .next (s.insn t.val (fun s =>
    if only && akz32 t.val then s.reserved t.val inst 2
    else
      let x := s.thread t.val
      s.load t.val inst (x.ea t.val rs1 imm) size false (x.tagOf (x.regY rs1.val))
        (fun y => .load rd.val size signed false (x.tagOf (x.regY rs1.val || y)))))

/-- A store of a general register. -/
def State.storeG (s : State) (t : Th) (maj size : Nat) (only : Bool) (rs2 rs1 : R5) (imm : BitVec 16) :
    Host.Outcome State Fault Refusal :=
  let inst := wordI maj rs2 rs1 imm
  .next (s.insn t.val (fun s =>
    if only && akz32 t.val then s.reserved t.val inst 2
    else
      let x := s.thread t.val
      s.store t.val inst (x.ea t.val rs1 imm) size false (x.tagOf (x.regY rs1.val)) (x.reg rs2.val)))

/-- A load into an f register, which must be aligned (R68). -/
def State.loadF (s : State) (t : Th) (maj size : Nat) (fd rs1 : R5) (imm : BitVec 16) : Host.Outcome State Fault Refusal :=
  let inst := wordI maj fd rs1 imm
  .next (s.insn t.val (fun s => s.only64 t.val inst 2 (fun s =>
    let x := s.thread t.val
    s.load t.val inst (x.ea t.val rs1 imm) size true (x.tagOf (x.regY rs1.val))
      (fun y => .load fd.val size false true (x.tagOf (x.regY rs1.val || y))))))

/-- A store of an f register's bits, whatever its format tag (R83). -/
def State.storeF (s : State) (t : Th) (maj size : Nat) (fs2 rs1 : R5) (imm : BitVec 16) : Host.Outcome State Fault Refusal :=
  let inst := wordI maj fs2 rs1 imm
  .next (s.insn t.val (fun s => s.only64 t.val inst 2 (fun s =>
    let x := s.thread t.val
    s.store t.val inst (x.ea t.val rs1 imm) size true (x.tagOf (x.regY rs1.val)) (x.freg fs2.val))))

def execLb (t : Th) (rd rs1 : R5) (imm : BitVec 16) (s : State) : Host.Outcome State Fault Refusal :=
  s.loadG t 0x0C 1 true false rd rs1 imm
def execLh (t : Th) (rd rs1 : R5) (imm : BitVec 16) (s : State) : Host.Outcome State Fault Refusal :=
  s.loadG t 0x0D 2 true false rd rs1 imm
def execLw (t : Th) (rd rs1 : R5) (imm : BitVec 16) (s : State) : Host.Outcome State Fault Refusal :=
  s.loadG t 0x0E 4 true false rd rs1 imm
def execLd (t : Th) (rd rs1 : R5) (imm : BitVec 16) (s : State) : Host.Outcome State Fault Refusal :=
  s.loadG t 0x0F 8 true true rd rs1 imm
def execLbu (t : Th) (rd rs1 : R5) (imm : BitVec 16) (s : State) : Host.Outcome State Fault Refusal :=
  s.loadG t 0x10 1 false false rd rs1 imm
def execLhu (t : Th) (rd rs1 : R5) (imm : BitVec 16) (s : State) : Host.Outcome State Fault Refusal :=
  s.loadG t 0x11 2 false false rd rs1 imm
def execLwu (t : Th) (rd rs1 : R5) (imm : BitVec 16) (s : State) : Host.Outcome State Fault Refusal :=
  s.loadG t 0x12 4 false true rd rs1 imm
def execSb (t : Th) (rs2 rs1 : R5) (imm : BitVec 16) (s : State) : Host.Outcome State Fault Refusal :=
  s.storeG t 0x14 1 false rs2 rs1 imm
def execSh (t : Th) (rs2 rs1 : R5) (imm : BitVec 16) (s : State) : Host.Outcome State Fault Refusal :=
  s.storeG t 0x15 2 false rs2 rs1 imm
def execSw (t : Th) (rs2 rs1 : R5) (imm : BitVec 16) (s : State) : Host.Outcome State Fault Refusal :=
  s.storeG t 0x16 4 false rs2 rs1 imm
def execSd (t : Th) (rs2 rs1 : R5) (imm : BitVec 16) (s : State) : Host.Outcome State Fault Refusal :=
  s.storeG t 0x17 8 true rs2 rs1 imm
def execFlw (t : Th) (fd rs1 : R5) (imm : BitVec 16) (s : State) : Host.Outcome State Fault Refusal :=
  s.loadF t 0x28 4 fd rs1 imm
def execFld (t : Th) (fd rs1 : R5) (imm : BitVec 16) (s : State) : Host.Outcome State Fault Refusal :=
  s.loadF t 0x29 8 fd rs1 imm
def execFsw (t : Th) (fs2 rs1 : R5) (imm : BitVec 16) (s : State) : Host.Outcome State Fault Refusal :=
  s.storeF t 0x2A 4 fs2 rs1 imm
def execFsd (t : Th) (fs2 rs1 : R5) (imm : BitVec 16) (s : State) : Host.Outcome State Fault Refusal :=
  s.storeF t 0x2B 8 fs2 rs1 imm

/-! ### Atomics (R75 to R78) -/

/-- The size of an atomic. -/
def atomSize (dbl : Bool) : Nat := if dbl then 8 else 4

/-- The word of an atomic. -/
def wordAtom (op : Nat) (dbl : Bool) (rd rs1 rs2 : R5) : Nat := wordR 0x26 rd rs1 rs2 (b2n dbl * 16 + op)

/-- An atomic instruction: the double-word form is reserved on AKZ32. -/
def State.atom (s : State) (t : Th) (op : Nat) (dbl : Bool) (rd rs1 rs2 : R5) (f : State → Nat → Thread → State) :
    Host.Outcome State Fault Refusal :=
  let inst := wordAtom op dbl rd rs1 rs2
  .next (s.insn t.val (fun s =>
    if dbl && akz32 t.val then s.reserved t.val inst 1 else f s inst (s.thread t.val)))

/-- A fetch-and-op. -/
def State.amo (s : State) (t : Th) (op : Nat) (dbl : Bool) (rd rs1 rs2 : R5) : Host.Outcome State Fault Refusal :=
  s.atom t op dbl rd rs1 rs2 (fun s inst x =>
    s.fetchOp t.val inst op (atomSize dbl) rd.val (x.reg rs1.val) (x.reg rs2.val)
      (x.tagOf (x.regY rs1.val)) (fun y => x.tagOf (x.regY rs1.val || x.regY rs2.val || y)))

/-- LDRES (R75, R78). -/
def execLdres (t : Th) (dbl : Bool) (rd rs1 : R5) (s : State) : Host.Outcome State Fault Refusal :=
  s.atom t 0x0 dbl rd rs1 0 (fun s inst x =>
    s.loadReserve t.val inst (atomSize dbl) rd.val (x.reg rs1.val) (x.tagOf (x.regY rs1.val)) (fun y => x.tagOf (x.regY rs1.val || y)))

/-- STCOND (R75, R78). -/
def execStcond (t : Th) (dbl : Bool) (rd rs1 rs2 : R5) (s : State) : Host.Outcome State Fault Refusal :=
  s.atom t 0x1 dbl rd rs1 rs2 (fun s inst x =>
    s.storeCond t.val inst (atomSize dbl) rd.val (x.reg rs1.val) (x.reg rs2.val)
      (x.tagOf (x.regY rs1.val)) (x.tagOf (x.regY rs1.val || x.regY rs2.val)))

def execAswap (t : Th) (dbl : Bool) (rd rs1 rs2 : R5) (s : State) : Host.Outcome State Fault Refusal := s.amo t 0x2 dbl rd rs1 rs2
def execAadd (t : Th) (dbl : Bool) (rd rs1 rs2 : R5) (s : State) : Host.Outcome State Fault Refusal := s.amo t 0x3 dbl rd rs1 rs2
def execAand (t : Th) (dbl : Bool) (rd rs1 rs2 : R5) (s : State) : Host.Outcome State Fault Refusal := s.amo t 0x4 dbl rd rs1 rs2
def execAor (t : Th) (dbl : Bool) (rd rs1 rs2 : R5) (s : State) : Host.Outcome State Fault Refusal := s.amo t 0x5 dbl rd rs1 rs2
def execAxor (t : Th) (dbl : Bool) (rd rs1 rs2 : R5) (s : State) : Host.Outcome State Fault Refusal := s.amo t 0x6 dbl rd rs1 rs2
def execAmin (t : Th) (dbl : Bool) (rd rs1 rs2 : R5) (s : State) : Host.Outcome State Fault Refusal := s.amo t 0x7 dbl rd rs1 rs2
def execAmax (t : Th) (dbl : Bool) (rd rs1 rs2 : R5) (s : State) : Host.Outcome State Fault Refusal := s.amo t 0x8 dbl rd rs1 rs2
def execAminu (t : Th) (dbl : Bool) (rd rs1 rs2 : R5) (s : State) : Host.Outcome State Fault Refusal := s.amo t 0x9 dbl rd rs1 rs2
def execAmaxu (t : Th) (dbl : Bool) (rd rs1 rs2 : R5) (s : State) : Host.Outcome State Fault Refusal := s.amo t 0xA dbl rd rs1 rs2

/-- RESERVATION_HOLD_EXPIRY (R78): the hold ends; the reservation stays. -/
def execReservationHoldExpiry (t : Th) (s : State) : Host.Outcome State Fault Refusal :=
  .next (if (s.thread t.val).hold then s.setThread t.val { s.thread t.val with hold := false } else s)

/-! ### Fences and IFLUSH (R74, R79) -/

/-- FENCE (R74): every earlier access to local or control memory has been performed when its command has run (entry 17). -/
def execFence (t : Th) (s : State) : Host.Outcome State Fault Refusal :=
  .next (s.insn t.val (fun s => s.retire t.val id))

/-- FENCE.F (R74): it waits for the thread's fabric accesses; then a recorded store failure traps, and the record is
cleared. -/
def execFenceF (t : Th) (s : State) : Host.Outcome State Fault Refusal :=
  .next (s.insn t.val (fun s =>
    if s.fabricBusy t.val then s
    else
      let x := s.thread t.val
      match x.storeFail with
      | some (a, why) =>
        (s.setThread t.val { x with storeFail := none }).trap t.val ⟨0x0C, word 0x27 0 0 1, a, why.toNat⟩
      | none => s.retire t.val id))

/-- Every line of a core's L1I goes. -/
def State.l1iFlush (s : State) (c : Nat) : State := s.setCore c { s.core c with l1i := [] }

/-- IFLUSH (R79): the words the thread has fetched from the line go, and the line leaves L1I. An address without a
translation names no line: all of L1I goes. -/
def execIflush (t : Th) (rs1 : R5) (s : State) : Host.Outcome State Fault Refusal :=
  .next (s.insn t.val (fun s =>
    let x := s.thread t.val
    let va := cutTo t.val (x.reg rs1.val)
    let c := coreOf t.val
    if akz32 t.val then
      s.retire t.val (fun x => { x with fetched := x.fetched.erase (va.toNat / 64) })
    else
      let ga : Option Word := if x.ctx = .bare then some va else ((s.core c).tlbFind x va).map (fun h => h.2.2.global va)
      match ga with
      | none => (s.l1iFlush c).retire t.val (fun x => { x with fetched := [] })
      | some ga =>
        let line := ga.toNat / 64
        let gran := localOf ga / 64
        let s := if s.ownNode (nodeOf ga) then
            s.setCore c { s.core c with l1i := dropGran (s.core c).l1i (l1iSet gran) gran }
          else s
        s.retire t.val (fun x => { x with fetched := x.fetched.erase line })))

/-- IFLUSH.A (R79): the same for every line. -/
def execIflushA (t : Th) (s : State) : Host.Outcome State Fault Refusal :=
  .next (s.insn t.val (fun s =>
    (if akz32 t.val then s else s.l1iFlush (coreOf t.val)).retire t.val (fun x => { x with fetched := [] })))

end Sys2Proof.Machine
end

