-- ==== Sys2Proof/Machine/Flags.lean ====
section
/-! DEFINITION. The floating-point flags and the rounding mode of FPSTAT (R82, R86). -/
namespace Sys2Proof.Machine

/-- The exceptions of an operation. -/
structure FpFlags where
  ovf : Bool := false
  ufl : Bool := false
  inx : Bool := false
  dvz : Bool := false
  inv : Bool := false
deriving DecidableEq, Repr

/-- Flags of two parts of an operation. -/
def FpFlags.or (a b : FpFlags) : FpFlags :=
  ⟨a.ovf || b.ovf, a.ufl || b.ufl, a.inx || b.inx, a.dvz || b.dvz, a.inv || b.inv⟩

/-- The bits of FPSTAT that flags set (R86). -/
def FpFlags.bits (f : FpFlags) : Word :=
  BitVec.ofNat 64 (b2n f.ovf + 2 * b2n f.ufl + 4 * b2n f.inx + 8 * b2n f.dvz + 16 * b2n f.inv)

/-- Flags are sticky (R82, R86). -/
def Thread.raise (x : Thread) (f : FpFlags) : Thread := x.setCsr 1 (x.csrv 1 ||| f.bits)

/-- The five roundings. -/
inductive Rnd where
  | even | away | zero | up | down
deriving DecidableEq, Repr

/-- The rounding of an encoding 0b001 to 0b101 (R84). -/
def Rnd.ofCode (n : Nat) : Rnd := match n with | 2 => .away | 3 => .zero | 4 => .up | 5 => .down | _ => .even

/-- The rounding that an instruction asks for: its own, or FPSTAT.RM (R84). -/
def Thread.rounding (x : Thread) (rm : Rm) : Rnd :=
  match rm with
  | .dyn => .ofCode (getBits (x.csrv 1) 10 8)
  | .rne => .even
  | .rna => .away
  | .rtz => .zero
  | .rtp => .up
  | .rtn => .down

end Sys2Proof.Machine
end

