-- ==== Sys2Proof/Machine/Fp.lean ====
section
/-! DEFINITION. Floating-point arithmetic of IEEE 754-2019 for binary32 and binary64, with the choices of R82 to R85. An
operation computes its exact result as an integer times a power of two, with a note of what lies beyond it, and rounds
once. -/
namespace Sys2Proof.Machine

/-! ### Formats and values -/

/-- Fraction bits, exponent bits and bias of a format. -/
def fracBits (dbl : Bool) : Nat := if dbl then 52 else 23
def expBits (dbl : Bool) : Nat := if dbl then 11 else 8
def fpBias (dbl : Bool) : Nat := if dbl then 1023 else 127

/-- The all-ones exponent. -/
def expMax (dbl : Bool) : Nat := 2 ^ expBits dbl - 1

/-- The bits of a sign, an exponent field and a fraction. -/
def fpPack (dbl neg : Bool) (e f : Nat) : Nat := b2n neg * 2 ^ (fracBits dbl + expBits dbl) + e * 2 ^ fracBits dbl + f

/-- The default NaN (R83): sign 0, every other bit 1. -/
def defaultNaN (dbl : Bool) : Nat := fpPack dbl false (expMax dbl) (2 ^ fracBits dbl - 1)

/-- A value: a NaN with its sign and fraction, an infinity, or m × 2^e with a sign. -/
inductive FpVal where
  | nan (neg : Bool) (frac : Nat) (signalling : Bool)
  | inf (neg : Bool)
  | fin (neg : Bool) (m : Nat) (e : Int)
deriving DecidableEq, Repr

/-- The value that bits of a format hold. -/
def fpVal (dbl : Bool) (b : Nat) : FpVal :=
  let fb := fracBits dbl
  let f := b % 2 ^ fb
  let e := b / 2 ^ fb % 2 ^ expBits dbl
  let neg := b / 2 ^ (fb + expBits dbl) % 2 == 1
  let bottom : Int := 1 - fpBias dbl - fb
  if e = expMax dbl then (if f = 0 then .inf neg else .nan neg f (f / 2 ^ (fb - 1) == 0))
  else if e = 0 then .fin neg f bottom
  else .fin neg (f + 2 ^ fb) (bottom + e - 1)

def FpVal.neg (v : FpVal) : Bool := match v with | .nan n _ _ => n | .inf n => n | .fin n _ _ => n

def FpVal.isNaN (v : FpVal) : Bool := match v with | .nan _ _ _ => true | _ => false

def FpVal.isSNaN (v : FpVal) : Bool := match v with | .nan _ _ s => s | _ => false

def FpVal.isZero (v : FpVal) : Bool := match v with | .fin _ 0 _ => true | _ => false

/-- The value with its sign reversed. -/
def FpVal.negate (v : FpVal) : FpVal :=
  match v with
  | .nan n f s => .nan (!n) f s
  | .inf n => .inf (!n)
  | .fin n m e => .fin (!n) m e

/-! ### Results -/

/-- What an operation gives: bits, flags; whether the result is a NaN that takes an operand's payload, whose sign the
manual leaves open; and whether INV is left open, which IEEE 754 does for 0 × ∞ + a quiet NaN (entry 6). -/
structure FpRes where
  bits     : Nat
  flags    : FpFlags := {}
  openSign : Bool := false
  openInv  : Bool := false
deriving DecidableEq, Repr

/-- An invalid operation. -/
def invFlag : FpFlags := { inv := true }

/-- The default NaN with INV. -/
def fpInvalid (dbl : Bool) : FpRes := { bits := defaultNaN dbl, flags := invFlag }

/-- The NaN result of an operation with a NaN among its operands: the payload of the first, quiet; INV where one
signals (R83). -/
def fpNaN (dbl : Bool) (vs : List FpVal) : FpRes :=
  let f := (vs.findSome? (fun v => match v with | .nan _ f _ => some f | _ => none)).getD 0
  let h := 2 ^ (fracBits dbl - 1)
  { bits := fpPack dbl false (expMax dbl) (f % h + h), flags := { inv := vs.any FpVal.isSNaN }, openSign := true }

/-! ### Rounding -/

/-- Whether the magnitude goes up (R84): the kept part is odd; the dropped part against a half (0 below, 1 equal, 2 above);
whether anything is dropped. -/
def roundUp (r : Rnd) (neg odd : Bool) (half : Nat) (inexact : Bool) : Bool :=
  match r with
  | .even => decide (half = 2) || (decide (half = 1) && odd)
  | .away => decide (1 ≤ half)
  | .zero => false
  | .up => !neg && inexact
  | .down => neg && inexact

/-- m × 2^sh and something more below it, as a multiple of 2^(sh + k): the multiple, the comparison of the rest with a
half, and whether there is a rest. -/
def dropBits (m k : Nat) (sticky : Bool) : Nat × Nat × Bool :=
  let d := m % 2 ^ k
  let half : Nat := if 2 * d < 2 ^ k then 0 else if 2 * d = 2 ^ k then (if sticky then 2 else 1) else 2
  (m / 2 ^ k, if k = 0 then 0 else half, decide (d ≠ 0) || sticky)

/-- The exact result ± (m + something in [0, 1)) × 2^e, rounded once to a format; `sticky`: the something is not 0, and m then
has more bits than the format. Tininess is judged before rounding (R82). -/
def fpRound (dbl : Bool) (r : Rnd) (neg : Bool) (m : Nat) (e : Int) (sticky : Bool) : FpRes :=
  let fb := fracBits dbl
  let emin : Int := 1 - fpBias dbl
  if m = 0 then { bits := fpPack dbl neg 0 0 }
  else
    let top : Int := e + Nat.log2 m
    let q : Int := max (top - fb) (emin - fb)
    let (k, half, inexact) := if q ≤ e then (m * 2 ^ (e - q).toNat, 0, sticky) else dropBits m (q - e).toNat sticky
    let k := if roundUp r neg (k % 2 == 1) half inexact then k + 1 else k
    let (k, q) := if k = 2 ^ (fb + 1) then (2 ^ fb, q + 1) else (k, q)
    if q + fb > fpBias dbl then
      let toInf := match r with | .even => true | .away => true | .zero => false | .up => !neg | .down => neg
      { bits := if toInf then fpPack dbl neg (expMax dbl) 0 else fpPack dbl neg (expMax dbl - 1) (2 ^ fb - 1),
        flags := { ovf := true, inx := true } }
    else
      { bits := if k < 2 ^ fb then fpPack dbl neg 0 k else fpPack dbl neg (q + fb + fpBias dbl).toNat (k - 2 ^ fb),
        flags := { inx := inexact, ufl := inexact && decide (top < emin) } }

/-! ### Arithmetic -/

/-- A signed multiple of 2^e' of a finite value, e' ≤ e. -/
def scaled (neg : Bool) (m : Nat) (e e' : Int) : Int :=
  let x : Int := m * 2 ^ (e - e').toNat
  if neg then -x else x

/-- The sum of two finite values, exact before rounding; the sign of an exact zero sum (IEEE 754 6.3). -/
def fpSum (dbl : Bool) (r : Rnd) (n1 : Bool) (m1 : Nat) (e1 : Int) (n2 : Bool) (m2 : Nat) (e2 : Int) : FpRes :=
  let e := min e1 e2
  let x := scaled n1 m1 e1 e + scaled n2 m2 e2 e
  if x = 0 then
    let neg := if m1 = 0 ∧ m2 = 0 ∧ n1 = n2 then n1 else decide (r = .down)
    { bits := fpPack dbl neg 0 0 }
  else fpRound dbl r (decide (x < 0)) x.natAbs e false

/-- FADD, and FSUB as the sum with the second operand negated. -/
def fpAdd (dbl : Bool) (r : Rnd) (a b : FpVal) : FpRes :=
  match a, b with
  | .nan n f s, b => fpNaN dbl [.nan n f s, b]
  | a, .nan n f s => fpNaN dbl [a, .nan n f s]
  | .inf n, .inf k => if n = k then { bits := fpPack dbl n (expMax dbl) 0 } else fpInvalid dbl
  | .inf n, _ => { bits := fpPack dbl n (expMax dbl) 0 }
  | _, .inf n => { bits := fpPack dbl n (expMax dbl) 0 }
  | .fin n1 m1 e1, .fin n2 m2 e2 => fpSum dbl r n1 m1 e1 n2 m2 e2

def fpSub (dbl : Bool) (r : Rnd) (a b : FpVal) : FpRes := if b.isNaN then fpAdd dbl r a b else fpAdd dbl r a b.negate

/-- FMUL. -/
def fpMul (dbl : Bool) (r : Rnd) (a b : FpVal) : FpRes :=
  let neg := a.neg != b.neg
  match a, b with
  | .nan n f s, b => fpNaN dbl [.nan n f s, b]
  | a, .nan n f s => fpNaN dbl [a, .nan n f s]
  | .inf _, b => if b.isZero then fpInvalid dbl else { bits := fpPack dbl neg (expMax dbl) 0 }
  | a, .inf _ => if a.isZero then fpInvalid dbl else { bits := fpPack dbl neg (expMax dbl) 0 }
  | .fin _ m1 e1, .fin _ m2 e2 => fpRound dbl r neg (m1 * m2) (e1 + e2) false

/-- FDIV: the quotient has at least two bits more than the format. -/
def fpDiv (dbl : Bool) (r : Rnd) (a b : FpVal) : FpRes :=
  let neg := a.neg != b.neg
  match a, b with
  | .nan n f s, b => fpNaN dbl [.nan n f s, b]
  | a, .nan n f s => fpNaN dbl [a, .nan n f s]
  | .inf _, .inf _ => fpInvalid dbl
  | .inf _, _ => { bits := fpPack dbl neg (expMax dbl) 0 }
  | _, .inf _ => { bits := fpPack dbl neg 0 0 }
  | .fin _ m1 e1, .fin _ m2 e2 =>
    if m2 = 0 then
      if m1 = 0 then fpInvalid dbl else { bits := fpPack dbl neg (expMax dbl) 0, flags := { dvz := true } }
    else
      let x := m1 * 2 ^ 112
      fpRound dbl r neg (x / m2) (e1 - e2 - 112) (x % m2 != 0)

/-- The integer square root, bit by bit from 2^n down. -/
def isqrt (x : Nat) : Nat → Nat → Nat
  | 0, r => if (r + 1) * (r + 1) ≤ x then r + 1 else r
  | n + 1, r => isqrt x n (if (r + 2 ^ (n + 1)) * (r + 2 ^ (n + 1)) ≤ x then r + 2 ^ (n + 1) else r)

/-- FSQRT: the root of m × 2^(112 or 113) has at least two bits more than the format. -/
def fpSqrt (dbl : Bool) (r : Rnd) (a : FpVal) : FpRes :=
  match a with
  | .nan n f s => fpNaN dbl [.nan n f s]
  | .inf n => if n then fpInvalid dbl else { bits := fpPack dbl false (expMax dbl) 0 }
  | .fin n m e =>
    if m = 0 then { bits := fpPack dbl n 0 0 }
    else if n then fpInvalid dbl
    else
      let odd : Nat := (e % 2).toNat
      let x := m * 2 ^ (112 + odd)
      let root := isqrt x 90 0
      fpRound dbl r false root ((e - odd - 112) / 2) (decide (root * root ≠ x))

/-- The four forms of format F4 (R85): the product, negated or not, plus the third operand, with one rounding. -/
def fpFma (dbl : Bool) (r : Rnd) (negP negC : Bool) (a b c : FpVal) : FpRes :=
  let zeroInf := match a, b with
    | .inf _, b => b.isZero
    | a, .inf _ => a.isZero
    | _, _ => false
  let np := (a.neg != b.neg) != negP
  let c' := if negC then c.negate else c
  if a.isNaN || b.isNaN || c.isNaN then { fpNaN dbl [a, b, c] with openInv := zeroInf && !c.isSNaN }
  else if zeroInf then fpInvalid dbl
  else
    match a, b, c' with
    | .fin _ m1 e1, .fin _ m2 e2, .fin n3 m3 e3 => fpSum dbl r np (m1 * m2) (e1 + e2) n3 m3 e3
    | .fin _ _ _, .fin _ _ _, c' => { bits := fpPack dbl c'.neg (expMax dbl) 0 }
    | _, _, .inf n => if n = np then { bits := fpPack dbl np (expMax dbl) 0 } else fpInvalid dbl
    | _, _, _ => { bits := fpPack dbl np (expMax dbl) 0 }

/-! ### Comparisons, minima and maxima -/

/-- The order of two values that are no NaN: the first is below the second. Zeros compare equal. -/
def fpLt (a b : FpVal) : Bool :=
  match a, b with
  | .inf n, .inf k => n && !k
  | .inf n, _ => n
  | _, .inf n => !n
  | .fin n1 m1 e1, .fin n2 m2 e2 =>
    let e := min e1 e2
    decide (scaled n1 m1 e1 e < scaled n2 m2 e2 e)
  | _, _ => false

def fpEq (a b : FpVal) : Bool := !a.isNaN && !b.isNaN && !fpLt a b && !fpLt b a

/-- The total order that minimum and maximum use: −0 below +0 (R84). -/
def fpBelow (a b : FpVal) : Bool := fpLt a b || (fpEq a b && a.neg && !b.neg)

/-- FMIN, FMAX, FMINN and FMAXN (R84): bits of the operands and their values. -/
def fpMinMax (dbl max number : Bool) (ba bb : Nat) (a b : FpVal) : FpRes :=
  let inv : FpFlags := { inv := a.isSNaN || b.isSNaN }
  if a.isNaN && b.isNaN then fpNaN dbl [a, b]
  else if a.isNaN then (if number then { bits := bb, flags := inv } else fpNaN dbl [a, b])
  else if b.isNaN then (if number then { bits := ba, flags := inv } else fpNaN dbl [a, b])
  else if fpBelow a b != max then { bits := ba } else { bits := bb }

/-- The predicates of op 7 (R84). -/
inductive FpCmp where
  | eq | lt | le | un | ltq | leq
deriving DecidableEq, Repr

/-- A comparison: its answer, and INV. -/
def fpCompare (p : FpCmp) (a b : FpVal) : Bool × Bool :=
  let nan := a.isNaN || b.isNaN
  let snan := a.isSNaN || b.isSNaN
  match p with
  | .eq => (fpEq a b, snan)
  | .lt => (!nan && fpLt a b, nan)
  | .le => (!nan && !fpLt b a, nan)
  | .un => (nan, snan)
  | .ltq => (!nan && fpLt a b, snan)
  | .leq => (!nan && !fpLt b a, snan)

/-! ### Conversions -/

/-- The least and the greatest integer of a type. -/
def IntKind.range (k : IntKind) : Int × Int :=
  match k with
  | .s64 => (-(2 ^ 63), 2 ^ 63 - 1)
  | .u64 => (0, 2 ^ 64 - 1)
  | .s32 => (-(2 ^ 31), 2 ^ 31 - 1)
  | .u32 => (0, 2 ^ 32 - 1)

/-- The sub-operation of a type (R84). -/
def IntKind.code (k : IntKind) : Nat := match k with | .s64 => 0 | .u64 => 1 | .s32 => 2 | .u32 => 3

/-- FCVI (R84): the integer, with INV for a NaN or a value out of range, INX for a rounded one. -/
def fpToInt (k : IntKind) (r : Rnd) (a : FpVal) : Int × FpFlags :=
  let (lo, hi) := IntKind.range k
  match a with
  | .nan _ _ _ => (0, invFlag)
  | .inf n => (if n then lo else hi, invFlag)
  | .fin n m e =>
    let (x, half, inexact) := if 0 ≤ e then (m * 2 ^ e.toNat, 0, false) else dropBits m (-e).toNat false
    let x : Nat := if roundUp r n (x % 2 == 1) half inexact then x + 1 else x
    let v : Int := if n then -x else x
    if v < lo then (lo, invFlag) else if hi < v then (hi, invFlag) else (v, { inx := inexact })

/-- FCVF (R84): an integer to a format. -/
def fpOfInt (dbl : Bool) (r : Rnd) (v : Int) : FpRes := fpRound dbl r (decide (v < 0)) v.natAbs 0 false

/-- The integer that a register holds as a type. -/
def IntKind.read (k : IntKind) (v : Word) : Int :=
  match k with
  | .s64 => v.toInt
  | .u64 => v.toNat
  | .s32 => (v.setWidth 32).toInt
  | .u32 => (v.setWidth 32).toNat

/-- FCVP (R84): a value to the other precision; a NaN keeps its payload's high bits (R83). -/
def fpConvert (dbl : Bool) (r : Rnd) (a : FpVal) : FpRes :=
  match a with
  | .nan n f s =>
    let f' := if dbl then f * 2 ^ 29 else f / 2 ^ 29
    fpNaN dbl [.nan n f' s]
  | .inf n => { bits := fpPack dbl n (expMax dbl) 0 }
  | .fin n m e => fpRound dbl r n m e false

/-- The class number of FKIND (R84). -/
def fpKind (dbl : Bool) (b : Nat) : Nat :=
  match fpVal dbl b with
  | .nan _ _ s => if s then 0 else 1
  | .inf n => if n then 2 else 9
  | .fin n m _ =>
    if m = 0 then (if n then 5 else 6)
    else if m < 2 ^ fracBits dbl then (if n then 4 else 7)
    else (if n then 3 else 8)

/-! ### Operands (R83) -/

/-- A binary32 pattern as the binary64 pattern of the same value; a NaN keeps its fraction at the top. -/
def widen (b : Nat) : Nat :=
  match fpVal false b with
  | .nan n f _ => fpPack true n (expMax true) (f * 2 ^ 29)
  | .inf n => fpPack true n (expMax true) 0
  | .fin n m e => (fpRound true .even n m e false).bits

/-- An operand of a format as its tag makes it: the bits, and INV where a binary32 operation reads a binary64 register. -/
def Thread.fpOperand (x : Thread) (dbl : Bool) (r : Nat) : Nat × Bool :=
  let v := (x.freg r).toNat
  match dbl, x.fdbl r with
  | true, true => (v, false)
  | true, false => (widen (v % 2 ^ 32), false)
  | false, false => (v % 2 ^ 32, false)
  | false, true => (defaultNaN false, true)

end Sys2Proof.Machine
end

