-- ==== Sys2Proof/Machine/AkzFp.lean ====
section
/-! DEFINITION. The floating-point instructions of AKZ64 (R82 to R86). On AKZ32 their major opcodes are reserved (R60). -/
namespace Sys2Proof.Machine

/-- What the manual leaves open of a result is drawn: a NaN's sign, or INV (entry 6). -/
def State.fpOpen (s : State) (dbl : Bool) (r : FpRes) : FpRes × State :=
  if r.openSign || r.openInv then
    let (w, s) := s.draw
    ({ r with bits := if r.openSign && w.getLsbD 0 then r.bits + 2 ^ (fracBits dbl + expBits dbl) else r.bits,
              flags := r.flags.or { inv := r.openInv && w.getLsbD 1 } }, s)
  else (r, s)

/-- A result goes to an f register with its format and tag; flags are raised (R83, R86, R112). -/
def State.fpTo (s : State) (t : Nat) (fd : R5) (dbl src : Bool) (operands : Bool) (r : FpRes) : State :=
  let (r, s) := (s.chargeCore t 4 1).fpOpen dbl r
  s.retire t (fun x => (x.setFreg fd.val dbl (BitVec.ofNat 64 r.bits) (x.tagOf src)).raise (r.flags.or { inv := operands }))

/-- A result goes to a general register; flags are raised. -/
def State.fpToG (s : State) (t : Nat) (rd : R5) (src : Bool) (v : Word) (f : FpFlags) : State :=
  (s.chargeCore t 4 1).retire t (fun x => (x.setReg rd.val v (x.tagOf src)).raise f)

/-- An FP-major instruction: its word, and what it does on AKZ64. -/
def State.fpInsn (s : State) (t : Th) (inst : Nat) (body : State → Thread → State) : Host.Outcome State Fault Refusal :=
  .next (s.insn t.val (fun s => s.only64 t.val inst 2 (fun s => body s (s.thread t.val))))

/-- An operation on one, two or three f registers into an f register: operands in the format `src`, the result in `dbl`. -/
def State.fpOp (s : State) (t : Th) (inst : Nat) (dbl src : Bool) (fd : R5) (rs : List R5)
    (f : Thread → List Nat → FpRes) : Host.Outcome State Fault Refusal :=
  s.fpInsn t inst (fun s x =>
    let ops := rs.map (fun r => x.fpOperand src r.val)
    s.fpTo t.val fd dbl (rs.any (fun r => x.fregY r.val)) (ops.any (fun o => o.2)) (f x (ops.map (fun o => o.1))))

/-- Operand i of an operation as a value. -/
def opVal (src : Bool) (l : List Nat) (i : Nat) : FpVal := fpVal src ((l[i]?).getD 0)

/-- FADD, FSUB, FMUL and FDIV. -/
def State.fpArith (s : State) (t : Th) (op : Nat) (dbl : Bool) (rm : Rm) (fd fs1 fs2 : R5)
    (f : Bool → Rnd → FpVal → FpVal → FpRes) : Host.Outcome State Fault Refusal :=
  s.fpOp t (wordR 0x2C fd fs1 fs2 (fpFunct dbl op (Rm.code rm) 0)) dbl dbl fd [fs1, fs2]
    (fun x l => f dbl (x.rounding rm) (opVal dbl l 0) (opVal dbl l 1))

def execFadd (t : Th) (dbl : Bool) (rm : Rm) (fd fs1 fs2 : R5) (s : State) : Host.Outcome State Fault Refusal :=
  s.fpArith t 0 dbl rm fd fs1 fs2 fpAdd
def execFsub (t : Th) (dbl : Bool) (rm : Rm) (fd fs1 fs2 : R5) (s : State) : Host.Outcome State Fault Refusal :=
  s.fpArith t 1 dbl rm fd fs1 fs2 fpSub
def execFmul (t : Th) (dbl : Bool) (rm : Rm) (fd fs1 fs2 : R5) (s : State) : Host.Outcome State Fault Refusal :=
  s.fpArith t 2 dbl rm fd fs1 fs2 fpMul
def execFdiv (t : Th) (dbl : Bool) (rm : Rm) (fd fs1 fs2 : R5) (s : State) : Host.Outcome State Fault Refusal :=
  s.fpArith t 3 dbl rm fd fs1 fs2 fpDiv

/-- FSQRT. -/
def execFsqrt (t : Th) (dbl : Bool) (rm : Rm) (fd fs1 : R5) (s : State) : Host.Outcome State Fault Refusal :=
  s.fpOp t (wordR 0x2C fd fs1 0 (fpFunct dbl 4 (Rm.code rm) 0)) dbl dbl fd [fs1]
    (fun x l => fpSqrt dbl (x.rounding rm) (opVal dbl l 0))

/-- FMIN, FMAX, FMINN and FMAXN. -/
def State.fpMin (s : State) (t : Th) (sub : Nat) (dbl max number : Bool) (fd fs1 fs2 : R5) : Host.Outcome State Fault Refusal :=
  s.fpOp t (wordR 0x2C fd fs1 fs2 (fpFunct dbl 5 0 sub)) dbl dbl fd [fs1, fs2]
    (fun _ l => fpMinMax dbl max number ((l[0]?).getD 0) ((l[1]?).getD 0) (opVal dbl l 0) (opVal dbl l 1))

def execFmin (t : Th) (dbl : Bool) (fd fs1 fs2 : R5) (s : State) : Host.Outcome State Fault Refusal :=
  s.fpMin t 0 dbl false false fd fs1 fs2
def execFmax (t : Th) (dbl : Bool) (fd fs1 fs2 : R5) (s : State) : Host.Outcome State Fault Refusal :=
  s.fpMin t 1 dbl true false fd fs1 fs2
def execFminn (t : Th) (dbl : Bool) (fd fs1 fs2 : R5) (s : State) : Host.Outcome State Fault Refusal :=
  s.fpMin t 2 dbl false true fd fs1 fs2
def execFmaxn (t : Th) (dbl : Bool) (fd fs1 fs2 : R5) (s : State) : Host.Outcome State Fault Refusal :=
  s.fpMin t 3 dbl true true fd fs1 fs2

/-- The sign bit of a format, and the rest of a pattern. -/
def signBit (dbl : Bool) : Nat := 2 ^ (fracBits dbl + expBits dbl)

/-- A pattern with its sign as given. -/
def withSign (dbl neg : Bool) (b : Nat) : Nat := b % signBit dbl + b2n neg * signBit dbl

/-- FCPS, FNEG and FABS: the sign alone changes, and a NaN's payload passes. -/
def execFcps (t : Th) (dbl : Bool) (fd fs1 fs2 : R5) (s : State) : Host.Outcome State Fault Refusal :=
  s.fpOp t (wordR 0x2C fd fs1 fs2 (fpFunct dbl 6 0 0)) dbl dbl fd [fs1, fs2]
    (fun _ l => { bits := withSign dbl (opVal dbl l 1).neg ((l[0]?).getD 0) })
def execFneg (t : Th) (dbl : Bool) (fd fs1 : R5) (s : State) : Host.Outcome State Fault Refusal :=
  s.fpOp t (wordR 0x2C fd fs1 0 (fpFunct dbl 6 0 1)) dbl dbl fd [fs1]
    (fun _ l => { bits := withSign dbl (!(opVal dbl l 0).neg) ((l[0]?).getD 0) })
def execFabs (t : Th) (dbl : Bool) (fd fs1 : R5) (s : State) : Host.Outcome State Fault Refusal :=
  s.fpOp t (wordR 0x2C fd fs1 0 (fpFunct dbl 6 0 2)) dbl dbl fd [fs1]
    (fun _ l => { bits := withSign dbl false ((l[0]?).getD 0) })

/-- The comparisons of op 7. -/
def State.fpCmp (s : State) (t : Th) (sub : Nat) (dbl : Bool) (p : FpCmp) (rd fs1 fs2 : R5) : Host.Outcome State Fault Refusal :=
  s.fpInsn t (wordR 0x2C rd fs1 fs2 (fpFunct dbl 7 0 sub)) (fun s x =>
    let a := x.fpOperand dbl fs1.val
    let b := x.fpOperand dbl fs2.val
    let r := fpCompare p (fpVal dbl a.1) (fpVal dbl b.1)
    s.fpToG t.val rd (x.fregY fs1.val || x.fregY fs2.val) (if r.1 then 1 else 0) { inv := r.2 || a.2 || b.2 })

def execFceq (t : Th) (dbl : Bool) (rd fs1 fs2 : R5) (s : State) : Host.Outcome State Fault Refusal :=
  s.fpCmp t 0 dbl .eq rd fs1 fs2
def execFclt (t : Th) (dbl : Bool) (rd fs1 fs2 : R5) (s : State) : Host.Outcome State Fault Refusal :=
  s.fpCmp t 1 dbl .lt rd fs1 fs2
def execFcle (t : Th) (dbl : Bool) (rd fs1 fs2 : R5) (s : State) : Host.Outcome State Fault Refusal :=
  s.fpCmp t 2 dbl .le rd fs1 fs2
def execFcun (t : Th) (dbl : Bool) (rd fs1 fs2 : R5) (s : State) : Host.Outcome State Fault Refusal :=
  s.fpCmp t 3 dbl .un rd fs1 fs2
def execFcltq (t : Th) (dbl : Bool) (rd fs1 fs2 : R5) (s : State) : Host.Outcome State Fault Refusal :=
  s.fpCmp t 4 dbl .ltq rd fs1 fs2
def execFcleq (t : Th) (dbl : Bool) (rd fs1 fs2 : R5) (s : State) : Host.Outcome State Fault Refusal :=
  s.fpCmp t 5 dbl .leq rd fs1 fs2

/-- FCVI (R84). -/
def execFcvi (t : Th) (dbl : Bool) (k : IntKind) (rm : Rm) (rd fs1 : R5) (s : State) : Host.Outcome State Fault Refusal :=
  s.fpInsn t (wordR 0x2C rd fs1 0 (fpFunct dbl 8 (Rm.code rm) (IntKind.code k))) (fun s x =>
    let a := x.fpOperand dbl fs1.val
    let r := fpToInt k (x.rounding rm) (fpVal dbl a.1)
    s.fpToG t.val rd (x.fregY fs1.val) (BitVec.ofInt 64 r.1) (r.2.or { inv := a.2 }))

/-- FCVF (R84). -/
def execFcvf (t : Th) (dbl : Bool) (k : IntKind) (rm : Rm) (fd rs1 : R5) (s : State) : Host.Outcome State Fault Refusal :=
  s.fpInsn t (wordR 0x2C fd rs1 0 (fpFunct dbl 8 (Rm.code rm) (4 + IntKind.code k))) (fun s x =>
    s.fpTo t.val fd dbl (x.regY rs1.val) false (fpOfInt dbl (x.rounding rm) (IntKind.read k (x.reg rs1.val))))

/-- FCVP (R84): the operand is of the other precision. -/
def execFcvp (t : Th) (dbl : Bool) (rm : Rm) (fd fs1 : R5) (s : State) : Host.Outcome State Fault Refusal :=
  s.fpOp t (wordR 0x2C fd fs1 0 (fpFunct dbl 9 (Rm.code rm) 0)) dbl (!dbl) fd [fs1]
    (fun x l => fpConvert dbl (x.rounding rm) (opVal (!dbl) l 0))

/-- FTOG (R84): raw bits, whatever the format tag. -/
def execFtog (t : Th) (dbl : Bool) (rd fs1 : R5) (s : State) : Host.Outcome State Fault Refusal :=
  s.fpInsn t (wordR 0x2C rd fs1 0 (fpFunct dbl 10 0 0)) (fun s x =>
    let v := x.freg fs1.val
    s.fpToG t.val rd (x.fregY fs1.val) (if dbl then v else (v.setWidth 32).signExtend 64) {})

/-- GTOF (R83, R84). -/
def execGtof (t : Th) (dbl : Bool) (fd rs1 : R5) (s : State) : Host.Outcome State Fault Refusal :=
  s.fpInsn t (wordR 0x2C fd rs1 0 (fpFunct dbl 10 0 1)) (fun s x =>
    s.fpTo t.val fd dbl (x.regY rs1.val) false { bits := (x.reg rs1.val).toNat % 2 ^ (if dbl then 64 else 32) })

/-- FKIND (R84). -/
def execFkind (t : Th) (dbl : Bool) (rd fs1 : R5) (s : State) : Host.Outcome State Fault Refusal :=
  s.fpInsn t (wordR 0x2C rd fs1 0 (fpFunct dbl 11 0 0)) (fun s x =>
    s.fpToG t.val rd (x.fregY fs1.val) (BitVec.ofNat 64 (fpKind dbl (x.freg fs1.val).toNat)) {})

/-- The forms of format F4 (R85). -/
def State.fma (s : State) (t : Th) (op : Nat) (negP negC dbl : Bool) (rm : Rm) (fd fs1 fs2 fs3 : R5) :
    Host.Outcome State Fault Refusal :=
  s.fpOp t (wordF4 fd fs1 fs2 fs3 dbl (Rm.code rm) op) dbl dbl fd [fs1, fs2, fs3]
    (fun x l => fpFma dbl (x.rounding rm) negP negC (opVal dbl l 0) (opVal dbl l 1) (opVal dbl l 2))

def execFmadd (t : Th) (dbl : Bool) (rm : Rm) (fd fs1 fs2 fs3 : R5) (s : State) : Host.Outcome State Fault Refusal :=
  s.fma t 0 false false dbl rm fd fs1 fs2 fs3
def execFmsub (t : Th) (dbl : Bool) (rm : Rm) (fd fs1 fs2 fs3 : R5) (s : State) : Host.Outcome State Fault Refusal :=
  s.fma t 1 false true dbl rm fd fs1 fs2 fs3
def execFnmsub (t : Th) (dbl : Bool) (rm : Rm) (fd fs1 fs2 fs3 : R5) (s : State) : Host.Outcome State Fault Refusal :=
  s.fma t 2 true false dbl rm fd fs1 fs2 fs3
def execFnmadd (t : Th) (dbl : Bool) (rm : Rm) (fd fs1 fs2 fs3 : R5) (s : State) : Host.Outcome State Fault Refusal :=
  s.fma t 3 true true dbl rm fd fs1 fs2 fs3

end Sys2Proof.Machine
end

