-- ==== Sys2Proof/Machine/AkzSys.lean ====
section
/-! DEFINITION. The system instructions and the CSRs of AKZ (R86, R88 to R100, R107, R115, R125 to R129, R147, R155 to
R159, R449). -/
namespace Sys2Proof.Machine

/-! ### CSRs -/

/-- The CSRs of the profiles (R90, R126, R155, R449). -/
def csrAssigned (a32 : Bool) (n : Nat) : Bool :=
  if a32 then
    [0x200, 0x201, 0x202, 0x210, 0x211, 0x212, 0x400, 0x408, 0x409, 0x410, 0x411, 0x412, 0x413, 0x414, 0x415, 0x420,
      0x440].contains n
  else
    [0x001, 0x002, 0x030, 0x200, 0x201, 0x202, 0x203, 0x204, 0x400, 0x408, 0x409, 0x410, 0x411, 0x412, 0x413, 0x414, 0x415,
      0x420, 0x430, 0x431, 0x432, 0x433, 0x434, 0x600, 0x800, 0x801, 0x802, 0x808, 0x809, 0x810, 0x811, 0x812, 0x813, 0x814,
      0x815, 0x830, 0x834].contains n || decide (0x840 ≤ n ∧ n < 0x850)

/-- The bits of a CSR that a write can change (R55, R86, R90, R92 to R94, R127 to R129, R156 to R159, R449). -/
def csrMask (n : Nat) : Word :=
  match n with
  | 0x001 => 0x71F
  | 0x002 => 0xFFFF_FFFF
  | 0x030 => 1
  | 0x400 => 3
  | 0x800 => 3
  | 0x408 => ~~~0xFFF#64
  | 0x808 => ~~~0xFFF#64
  | 0x410 => ~~~3#64
  | 0x810 => ~~~3#64
  | 0x411 => 0x8000_0000_0000_FFFF
  | 0x811 => 0x8000_0000_0000_FFFF
  | 0x414 => 0xF07
  | 0x814 => 0xF07
  | 0x420 => 0xF
  | 0x430 => ~~~0xFFF#64
  | 0x431 => ~~~0xFFF#64
  | 0x432 => 0x0000_FFFF_0003_FFFF
  | 0x433 => 0xFFFF
  | 0x434 => 3
  | 0x440 => 0xF_FFFF_FFFF
  | 0x801 => 0x3FF
  | 0x802 => ~~~2#64
  | 0x830 => 1
  | 0x834 => 1
  | _ => if 0x840 ≤ n ∧ n < 0x848 then ~~~0xFF8#64 else if 0x848 ≤ n ∧ n < 0x850 then ~~~0xFFF#64 else ~~~0#64

/-- The cause codes that are listed (R93). -/
def causeListed (c : Nat) : Bool := decide (1 ≤ c ∧ c ≤ 0x11 ∨ c = 0x20)

/-- The field of a CSR that a value would give a reserved encoding, as high and low bit (R86, R93, R94, R157); TLB_ATTR.CODEC
is one, so that TLBW never meets a reserved CODEC (entry 141). -/
def csrReserved (n : Nat) (v : Word) : Option (Nat × Nat) :=
  if n = 0x001 then
    let rm := getBits v 10 8
    if rm = 0 ∨ 5 < rm then some (10, 8) else none
  else if n = 0x411 ∨ n = 0x811 then (if causeListed (getBits v 7 0) then none else some (7, 0))
  else if n = 0x414 then (if 2 ≤ getBits v 1 0 then some (1, 0) else none)
  else if n = 0x814 then (if getBits v 1 0 = 3 then some (1, 0) else none)
  else if n = 0x432 then (if codecReserved (getBits v 17 14) then some (17, 14) else none)
  else none

/-- What a write leaves in a CSR: a field that would take a reserved encoding keeps its value (R89). -/
def csrNext (n : Nat) (old v : Word) : Word :=
  let w := (old &&& ~~~csrMask n) ||| (v &&& csrMask n)
  match csrReserved n v with
  | some (hi, lo) => setBits w hi lo (getBits old hi lo)
  | none => w

/-- CYCLE counts the core cycles since the thread started (R90): how many have passed since it was last read the model
leaves open (entry 10). -/
def State.cycle (s : State) (t : Nat) : Word × State :=
  let (w, s) := s.draw
  let x := s.thread t
  let n := x.csrv 0x200 + w
  (n, s.setThread t (x.setCsr 0x200 n))

/-- What a CSR reads as (R90, R111, R126). -/
def State.csrRead (s : State) (t n : Nat) : Word × State :=
  let x := s.thread t
  match n with
  | 0x200 =>
    let (w, s) := s.cycle t
    (cutTo t w, s)
  | 0x210 =>
    let (w, s) := s.cycle t
    (w >>> 32, s)
  | 0x211 => (x.csrv 0x201 >>> 32, s)
  | 0x202 => (cutTo t s.frame, s)
  | 0x212 => (s.frame >>> 32, s)
  | 0x600 => (x.csrv 0x801, s)
  | _ => (cutTo t (x.csrv n), s)

/-- HCORE.PFLUSH: the thread's predictor entries go, and its path history and return stack (R107), whatever becomes of a
SORREL bit in the same write (entry 138). -/
def State.flushPred (s : State) (t : Nat) : State :=
  let c := coreOf t
  let x := s.core c
  let s := s.setCore c { x with
    dirPred := x.dirPred.filter (fun e => e.tag.thread != decide (t % 2 = 1)),
    indPred := x.indPred.filter (fun e => e.2.tag.thread != decide (t % 2 = 1)) }
  s.setThread t { s.thread t with hist := [], ras := [] }

/-- The Sorrel region of the thread's core is READY (R115). -/
def State.srlReady (s : State) (t : Nat) : Bool := s.flag F.CL_SRLCTL_READY (t / 16) (t % 16 / 2)

/-- A thread's CSR after a write (R115, R449). -/
def Thread.csrWrite (x : Thread) (t n : Nat) (v : Word) (ready : Bool) : Thread :=
  let v := if n = 0x830 ∧ !ready then v &&& ~~~1#64 else v
  let x := x.setCsr n (cutTo t (csrNext n (x.csrv n) v))
  if n = 0x440 then { x with fetched := [] } else x

/-- A CSR instruction (R88, R89, R91). -/
def State.csrOp (s : State) (t : Th) (sub : Nat) (rd rs1 : R5) (csr : BitVec 12) (write : Bool) (f : Word → Word → Word) :
    Host.Outcome State Fault Refusal :=
  let n := csr.toNat
  let inst := wordM 0x2E rd rs1 csr sub
  .next (s.insn t.val (fun s =>
    let x := s.thread t.val
    if !csrAssigned (akz32 t.val) n then s.reserved t.val inst 4
    else if x.priv.code < n / 1024 then s.privileged t.val inst 3
    else if write && n.testBit 9 then s.privileged t.val inst 2
    else
      let src := x.reg rs1.val
      let (old, s) := s.csrRead t.val n
      let v := f old src
      let ready := s.srlReady t.val
      let s := if write && n == 0x830 && bitOf v 1 then s.flushPred t.val else s
      s.retire t.val (fun x =>
        (if write then x.csrWrite t.val n v ready else x).setReg rd.val old (x.tagOf (x.regY rs1.val)))))

/-- CSRRW. -/
def execCsrrw (t : Th) (rd rs1 : R5) (csr : BitVec 12) (s : State) : Host.Outcome State Fault Refusal :=
  s.csrOp t 0x0 rd rs1 csr true (fun _ v => v)

/-- CSRRS: no write when rs1 is g0. -/
def execCsrrs (t : Th) (rd rs1 : R5) (csr : BitVec 12) (s : State) : Host.Outcome State Fault Refusal :=
  s.csrOp t 0x1 rd rs1 csr (rs1.val != 0) (fun old v => old ||| v)

/-- CSRRC. -/
def execCsrrc (t : Th) (rd rs1 : R5) (csr : BitVec 12) (s : State) : Host.Outcome State Fault Refusal :=
  s.csrOp t 0x2 rd rs1 csr (rs1.val != 0) (fun old v => old &&& ~~~v)

/-- A compute thread that can issue at H, which may write HCORE (R89, R126). -/
def State.mayHcore (s : State) (t : Nat) : Bool := s.canIssue t && !akz32 t && decide ((s.thread t).priv = .h)

/-- PREDICTOR_FLUSH (R107): the effect of a write of 1 to HCORE.PFLUSH; the CSR instruction that makes it is a command of its
own. -/
def execPredictorFlush (t : Th) (s : State) : Host.Outcome State Fault Refusal :=
  .next (if s.mayHcore t.val then s.flushPred t.val else s)

/-- SORREL_ENABLE (R115): the effect of a write of 1 to HCORE.SORREL. -/
def execSorrelEnable (t : Th) (s : State) : Host.Outcome State Fault Refusal :=
  .next (if s.mayHcore t.val && s.srlReady t.val then s.setThread t.val ((s.thread t.val).setCsr 0x830 1) else s)

/-! ### Traps and returns (R88, R92, R98) -/

/-- SYSCALL (R88, R93). -/
def execSyscall (t : Th) (code : BitVec 12) (s : State) : Host.Outcome State Fault Refusal :=
  .next (s.insn t.val (fun s => s.trap t.val ⟨0x0D, wordM 0x2E 0 0 code 0x3, 0, code.toNat⟩))

/-- HCALL (R88, R93): reserved on AKZ32. -/
def execHcall (t : Th) (code : BitVec 12) (s : State) : Host.Outcome State Fault Refusal :=
  let inst := wordM 0x2E 0 0 code 0x4
  .next (s.insn t.val (fun s => s.only64 t.val inst 1 (fun s => s.atLeast t.val inst .s (fun s =>
    s.trap t.val ⟨0x0E, inst, 0, code.toNat⟩))))

/-- BREAK (R88, R93). -/
def execBrk (t : Th) (code : BitVec 12) (s : State) : Host.Outcome State Fault Refusal :=
  .next (s.insn t.val (fun s => s.trap t.val ⟨0x0F, wordM 0x2E 0 0 code 0x7, 0, code.toNat⟩))

/-- TRET (R98, R123, R147). -/
def execTret (t : Th) (s : State) : Host.Outcome State Fault Refusal :=
  .next (s.insn t.val (fun s => s.atLeast t.val (wordM 0x2E 0 0 0 0x5) .s (fun s =>
    let x := s.thread t.val
    let h := decide (x.priv = .h)
    s.retireTo t.val (x.csrv (lvlBase h + 0x10)) (fun x => x.tretAt h))))

/-- WFI (R125). -/
def execWfi (t : Th) (s : State) : Host.Outcome State Fault Refusal :=
  .next (s.insn t.val (fun s => s.atLeast t.val (wordM 0x2E 0 0 0 0x6) .s (fun s =>
    (s.retire t.val (fun x => { x with run := .waiting })).wakeThread t.val)))

/-- UACCESS.OPEN and UACCESS.CLOSE (R147). -/
def State.uaccess (s : State) (t : Th) (sub : Nat) (opened : Bool) : Host.Outcome State Fault Refusal :=
  .next (s.insn t.val (fun s => s.atLeast t.val (wordM 0x2E 0 0 0 sub) .s (fun s =>
    s.retire t.val (fun x => x.setCsr 0x434 (setBit (x.csrv 0x434) 0 opened)))))

def execUaccessOpen (t : Th) (s : State) : Host.Outcome State Fault Refusal := s.uaccess t 0x8 true

def execUaccessClose (t : Th) (s : State) : Host.Outcome State Fault Refusal := s.uaccess t 0x9 false

/-- RESERVED_INSTRUCTION (R92): a word that is not reserved is no command of this row (entry 2). -/
def execReservedInstruction (t : Th) (w : BitVec 32) (s : State) : Host.Outcome State Fault Refusal :=
  .next <|
    match reservedInfo (akz32 t.val) w.toNat with
    | some i => s.insn t.val (fun s => s.reserved t.val w.toNat i)
    | none => s

end Sys2Proof.Machine
end

