-- ==== Sys2Proof/Machine/AkzTlb.lean ====
section
/-! DEFINITION. The instructions of the TLB major opcode, which AKZ64 alone has (R60, R139 to R142, R149 to R152). -/
namespace Sys2Proof.Machine

/-- A TLB-major instruction: its word, its lowest privilege, and what it does. -/
def State.tlbInsn (s : State) (t : Th) (funct : Nat) (p : Priv) (rd rs1 rs2 : R5) (body : State → Nat → Thread → State) :
    Host.Outcome State Fault Refusal :=
  let inst := wordR 0x2F rd rs1 rs2 funct
  .next (s.insn t.val (fun s => s.only64 t.val inst 2 (fun s => s.atLeast t.val inst p (fun s =>
    body s inst (s.thread t.val)))))

/-- TLBW (R140, R141): rd takes the status; an entry is placed where it is 0. -/
def execTlbw (t : Th) (rd : R5) (s : State) : Host.Outcome State Fault Refusal :=
  s.tlbInsn t 0x000 .s rd 0 0 (fun s _ x =>
    let e := x.tlbNew
    let st := s.tlbStatus t.val e
    (if st = 0 then s.tlbPlace (coreOf t.val) e else s).retire t.val
      (fun x => x.setReg rd.val (BitVec.ofNat 64 st) (x.tagOf false)))

/-- TLBP (R139). -/
def execTlbp (t : Th) (rd rs1 : R5) (s : State) : Host.Outcome State Fault Refusal :=
  s.tlbInsn t 0x001 .s rd rs1 0 (fun s _ x =>
    let v : Nat := match (s.core (coreOf t.val)).tlbFind x (x.reg rs1.val) with
      | some (_, _, e) => e.size
      | none => 0
    s.retire t.val (fun x => x.setReg rd.val (BitVec.ofNat 64 v) (x.tagOf (x.regY rs1.val))))

/-- Accesses of either thread of a core that TLBs have translated are not performed yet: its fabric requests, and what the
sibling waits for. -/
def State.tlbBusy (s : State) (t : Nat) : Bool :=
  let o := t + 1 - 2 * (t % 2)
  s.fabricBusy t || s.fabricBusy o || (s.thread o).await.isSome

/-- Entries of the thread's core that meet p are removed, and the instruction commits; it waits until the core's accesses
through entries that go have been performed (R139, R152, R154; entry 139). -/
def State.tlbDropAll (s : State) (t : Nat) (p : TlbEnt → Bool) : State :=
  let c := coreOf t
  if s.tlbBusy t && (s.core c).l2tlb.any (fun e => e.2.ways.any (fun w => p w.2)) then s
  else (s.setCore c ((s.core c).tlbRemove p)).retire t id

/-- An entry belongs to the current context of TLBI.VA (R139): at H with HMAP 1, LVL 1 entries and those of the current
TID; at H with HMAP 0, which uses no entries, none. -/
def TlbEnt.inVa (e : TlbEnt) (x : Thread) : Bool :=
  match x.ctx with
  | .bare => false
  | .hyper => e.lvl || e.tid.toNat == x.tid
  | .tenant => !e.lvl && e.tid.toNat == x.tid

/-- TLBI.VA (R139). -/
def execTlbiVa (t : Th) (rs1 : R5) (s : State) : Host.Outcome State Fault Refusal :=
  s.tlbInsn t 0x002 .s 0 rs1 0 (fun s _ x =>
    let va := x.reg rs1.val
    s.tlbDropAll t.val (fun e => e.covers va && e.inVa x))

/-- TLBI.ASID (R139). -/
def execTlbiAsid (t : Th) (rs1 : R5) (s : State) : Host.Outcome State Fault Refusal :=
  s.tlbInsn t 0x003 .s 0 rs1 0 (fun s _ x =>
    let a := getBits (x.reg rs1.val) 15 0
    s.tlbDropAll t.val (fun e => !e.locked && !e.lvl && !e.glb && e.tid.toNat == x.tid && e.asid == a))

/-- TLBI.TID (R139): at H, the TID in rs1. -/
def execTlbiTid (t : Th) (rs1 : R5) (s : State) : Host.Outcome State Fault Refusal :=
  s.tlbInsn t 0x004 .s 0 rs1 0 (fun s _ x =>
    let tid := if x.priv = .h then getBits (x.reg rs1.val) 9 0 else x.tid
    s.tlbDropAll t.val (fun e => !e.locked && !e.lvl && e.tid.toNat == tid))

/-- TLBI.ALL (R139). -/
def execTlbiAll (t : Th) (s : State) : Host.Outcome State Fault Refusal :=
  s.tlbInsn t 0x005 .h 0 0 0 (fun s _ _ => s.tlbDropAll t.val (fun _ => true))

/-! ### WSTEP and the walk cache (R142, R149, R150) -/

/-- At S, the 8 bytes of a WSTEP lie inside a range with V = 1 (R142). -/
def Thread.wstepAllowed (x : Thread) (ga : Word) : Bool :=
  decide (x.priv ≠ .s) || x.hprCovers ga.toNat (ga.toNat + 7) false false

/-- A hit counts as a use of its entry: not-recently-used order among the 512 (R149). -/
def nruUse (l : List (WalkEnt × Bool)) (i : Nat) : List (WalkEnt × Bool) :=
  let l := l.modify i (fun e => (e.1, true))
  if l.length = 512 ∧ l.all (fun e => e.2) then (l.map (fun e => (e.1, false))).modify i (fun e => (e.1, true)) else l

/-- The walk cache is looked up: the word, or a miss. An entry that is uncorrectable is invalidated (R415). -/
def State.walkLookup (s : State) (t : Nat) (base index : Word) : Option Word × State :=
  let c := coreOf t
  let tid := (s.thread t).tid
  match (s.core c).walkFind base index tid with
  | none => (none, s)
  | some (i, e) =>
    let hit (v : Word) (s : State) : Option Word × State :=
      (some v, s.setCore c { s.core c with walk := nruUse (s.core c).walk i })
    match s.arrJudge (coreTarget c) (coreSub c 4) i with
    | (.clean, s) => hit e.val s
    | (.corrected, s) => hit e.val (s.arrCorrect (coreTarget c) (coreSub c 4) i tid)
    | (.beyond, s) =>
      let (v, s) := s.draw
      hit v s
    | (.uncorrectable, s) => (none, (s.setCore c { s.core c with walk := (s.core c).walk.eraseIdx i }).arrUncorr 0x02 (coreTarget c) (coreSub c 4) i tid)

/-- The word is read from wherever it lies, untranslated. -/
def State.walkRead (s : State) (t inst : Nat) (ga : Word) (tagged : Bool) (k : AwaitKind) : State :=
  let p : Piece := ⟨ga, 8, 0, s.tgtOf ga, ⟨ga, false, 0, none⟩⟩
  match p.fault t ga 8 false with
  | some 1 => s.trap t ⟨0x04, inst, ga, 1⟩
  | some _ => s.noMemTrap t inst ga ga
  | none => s.loadAt t inst ga 8 [p] tagged (fun _ => k)

/-- WSTEP and WSTEP.U (R139, R142, R149): in Sorrel mode WSTEP bypasses the walk cache (R117). -/
def State.wstep (s : State) (t : Th) (funct : Nat) (cached : Bool) (rd rs1 rs2 : R5) : Host.Outcome State Fault Refusal :=
  s.tlbInsn t funct .s rd rs1 rs2 (fun s inst x =>
    let base := x.reg rs1.val
    let index := x.reg rs2.val
    let ga := base + index * 8
    let y := x.tagOf (x.regY rs1.val || x.regY rs2.val)
    if ga.toNat % 8 ≠ 0 then s.trap t.val ⟨0x03, inst, ga, 0⟩
    else if !x.wstepAllowed ga then s.trap t.val ⟨0x07, inst, ga, protInfo .load 6⟩
    else if cached && !x.sorrel then
      match s.walkLookup t.val base index with
      | (some v, s) => s.retire t.val (fun x => x.setReg rd.val v y)
      | (none, s) => s.walkRead t.val inst ga y (.walk rd.val base index true y)
    else s.walkRead t.val inst ga y (.walk rd.val base index false y))

def execWstep (t : Th) (rd rs1 rs2 : R5) (s : State) : Host.Outcome State Fault Refusal := s.wstep t 0x008 true rd rs1 rs2

def execWstepU (t : Th) (rd rs1 rs2 : R5) (s : State) : Host.Outcome State Fault Refusal := s.wstep t 0x009 false rd rs1 rs2

/-- Walk-cache entries of the thread's core that meet p are removed, and the instruction commits. -/
def State.walkDropAll (s : State) (t : Nat) (p : WalkEnt → Bool) : State :=
  let c := coreOf t
  (s.setCore c ((s.core c).walkRemove p)).retire t id

/-- WFLUSH (R139): the entry of the current TID. -/
def execWflush (t : Th) (rs1 rs2 : R5) (s : State) : Host.Outcome State Fault Refusal :=
  s.tlbInsn t 0x00A .s 0 rs1 rs2 (fun s _ x =>
    s.walkDropAll t.val (fun e => decide (e.base = x.reg rs1.val ∧ e.index = x.reg rs2.val ∧ e.tid.toNat = x.tid)))

/-- WFLUSH.B (R139). -/
def execWflushB (t : Th) (rs1 : R5) (s : State) : Host.Outcome State Fault Refusal :=
  s.tlbInsn t 0x00B .s 0 rs1 0 (fun s _ x => s.walkDropAll t.val (fun e => decide (e.base = x.reg rs1.val)))

/-- WFLUSH.A (R139): at H, every entry. -/
def execWflushA (t : Th) (s : State) : Host.Outcome State Fault Refusal :=
  s.tlbInsn t 0x00C .s 0 0 0 (fun s _ x => s.walkDropAll t.val (fun e => decide (x.priv = .h) || e.tid.toNat == x.tid))

end Sys2Proof.Machine
end

