-- ==== Sys2Proof/Machine/Dispatch.lean ====
section
/-! DEFINITION. The meaning of each command, arm by arm. -/
namespace Sys2Proof.Machine

/-- The effect of a command on everything but the queue. -/
def exec (i : Instr) (s : State) : Host.Outcome State Fault Refusal :=
  match i with
  | .akz32LowWordWrite k off v => Sys2Proof.Machine.execAkz32LowWordWrite k off v s
  | .akz32HighWordWrite k off v => Sys2Proof.Machine.execAkz32HighWordWrite k off v s
  | .akz32LowWordRead k off => Sys2Proof.Machine.execAkz32LowWordRead k off s
  | .akz32HighWordRead k off => Sys2Proof.Machine.execAkz32HighWordRead k off s
  | .registerWrite m off v => Sys2Proof.Machine.execRegisterWrite m off v s
  | .rcRegisterRead m off => Sys2Proof.Machine.execRcRegisterRead m off s
  | .keepWordWrite m w v => Sys2Proof.Machine.execKeepWordWrite m w v s
  | .keepWritePersisted => Sys2Proof.Machine.execKeepWritePersisted  s
  | .localTick => Sys2Proof.Machine.execLocalTick  s
  | .lateRunRasEvent => Sys2Proof.Machine.execLateRunRasEvent  s
  | .planTakesEffect => Sys2Proof.Machine.execPlanTakesEffect  s
  | .tickEdge inp ns => Sys2Proof.Machine.execTickEdge inp ns s
  | .speedwellMarkerReceive port frame sfpos stamp => Sys2Proof.Machine.execSpeedwellMarkerReceive port frame sfpos stamp s
  | .tickMonitorEvaluation => Sys2Proof.Machine.execTickMonitorEvaluation  s
  | .tickDiscrepancyFault => Sys2Proof.Machine.execTickDiscrepancyFault  s
  | .tickFreerun => Sys2Proof.Machine.execTickFreerun  s
  | .tickFaultClear => Sys2Proof.Machine.execTickFaultClear  s
  | .frameAcquisition => Sys2Proof.Machine.execFrameAcquisition  s
  | .fcntMismatch => Sys2Proof.Machine.execFcntMismatch  s
  | .startLocalTick m => Sys2Proof.Machine.execStartLocalTick m s
  | .setAcquire m on => Sys2Proof.Machine.execSetAcquire m on s
  | .cadFramesetWrite m v => Sys2Proof.Machine.execCadFramesetWrite m v s
  | .cadTimingNextWrite m v => Sys2Proof.Machine.execCadTimingNextWrite m v s
  | .armTimingChange m v => Sys2Proof.Machine.execArmTimingChange m v s
  | .cancelTimingChange m => Sys2Proof.Machine.execCancelTimingChange m s
  | .planTableWrite m off v => Sys2Proof.Machine.execPlanTableWrite m off v s
  | .cadSeal m v => Sys2Proof.Machine.execCadSeal m v s
  | .sealDeadline => Sys2Proof.Machine.execSealDeadline  s
  | .cadenceLockstepMismatch => Sys2Proof.Machine.execCadenceLockstepMismatch  s
  | .cadenceRestart => Sys2Proof.Machine.execCadenceRestart  s
  | .add t rd rs1 rs2 => Sys2Proof.Machine.execAdd t rd rs1 rs2 s
  | .sub t rd rs1 rs2 => Sys2Proof.Machine.execSub t rd rs1 rs2 s
  | .and t rd rs1 rs2 => Sys2Proof.Machine.execAnd t rd rs1 rs2 s
  | .or t rd rs1 rs2 => Sys2Proof.Machine.execOr t rd rs1 rs2 s
  | .xor t rd rs1 rs2 => Sys2Proof.Machine.execXor t rd rs1 rs2 s
  | .sll t rd rs1 rs2 => Sys2Proof.Machine.execSll t rd rs1 rs2 s
  | .srl t rd rs1 rs2 => Sys2Proof.Machine.execSrl t rd rs1 rs2 s
  | .sra t rd rs1 rs2 => Sys2Proof.Machine.execSra t rd rs1 rs2 s
  | .slt t rd rs1 rs2 => Sys2Proof.Machine.execSlt t rd rs1 rs2 s
  | .sltu t rd rs1 rs2 => Sys2Proof.Machine.execSltu t rd rs1 rs2 s
  | .seq t rd rs1 rs2 => Sys2Proof.Machine.execSeq t rd rs1 rs2 s
  | .sne t rd rs1 rs2 => Sys2Proof.Machine.execSne t rd rs1 rs2 s
  | .mul t rd rs1 rs2 => Sys2Proof.Machine.execMul t rd rs1 rs2 s
  | .mulh t rd rs1 rs2 => Sys2Proof.Machine.execMulh t rd rs1 rs2 s
  | .mulhu t rd rs1 rs2 => Sys2Proof.Machine.execMulhu t rd rs1 rs2 s
  | .mulhsu t rd rs1 rs2 => Sys2Proof.Machine.execMulhsu t rd rs1 rs2 s
  | .div t rd rs1 rs2 => Sys2Proof.Machine.execDiv t rd rs1 rs2 s
  | .divu t rd rs1 rs2 => Sys2Proof.Machine.execDivu t rd rs1 rs2 s
  | .rem t rd rs1 rs2 => Sys2Proof.Machine.execRem t rd rs1 rs2 s
  | .remu t rd rs1 rs2 => Sys2Proof.Machine.execRemu t rd rs1 rs2 s
  | .addw t rd rs1 rs2 => Sys2Proof.Machine.execAddw t rd rs1 rs2 s
  | .subw t rd rs1 rs2 => Sys2Proof.Machine.execSubw t rd rs1 rs2 s
  | .sllw t rd rs1 rs2 => Sys2Proof.Machine.execSllw t rd rs1 rs2 s
  | .srlw t rd rs1 rs2 => Sys2Proof.Machine.execSrlw t rd rs1 rs2 s
  | .sraw t rd rs1 rs2 => Sys2Proof.Machine.execSraw t rd rs1 rs2 s
  | .mulw t rd rs1 rs2 => Sys2Proof.Machine.execMulw t rd rs1 rs2 s
  | .divw t rd rs1 rs2 => Sys2Proof.Machine.execDivw t rd rs1 rs2 s
  | .divuw t rd rs1 rs2 => Sys2Proof.Machine.execDivuw t rd rs1 rs2 s
  | .remw t rd rs1 rs2 => Sys2Proof.Machine.execRemw t rd rs1 rs2 s
  | .remuw t rd rs1 rs2 => Sys2Proof.Machine.execRemuw t rd rs1 rs2 s
  | .addi t rd rs1 imm => Sys2Proof.Machine.execAddi t rd rs1 imm s
  | .andi t rd rs1 imm => Sys2Proof.Machine.execAndi t rd rs1 imm s
  | .ori t rd rs1 imm => Sys2Proof.Machine.execOri t rd rs1 imm s
  | .xori t rd rs1 imm => Sys2Proof.Machine.execXori t rd rs1 imm s
  | .slti t rd rs1 imm => Sys2Proof.Machine.execSlti t rd rs1 imm s
  | .sltiu t rd rs1 imm => Sys2Proof.Machine.execSltiu t rd rs1 imm s
  | .slli t word rd rs1 shamt => Sys2Proof.Machine.execSlli t word rd rs1 shamt s
  | .srli t word rd rs1 shamt => Sys2Proof.Machine.execSrli t word rd rs1 shamt s
  | .srai t word rd rs1 shamt => Sys2Proof.Machine.execSrai t word rd rs1 shamt s
  | .lui t rd imm => Sys2Proof.Machine.execLui t rd imm s
  | .auipc t rd imm => Sys2Proof.Machine.execAuipc t rd imm s
  | .lb t rd rs1 imm => Sys2Proof.Machine.execLb t rd rs1 imm s
  | .lh t rd rs1 imm => Sys2Proof.Machine.execLh t rd rs1 imm s
  | .lw t rd rs1 imm => Sys2Proof.Machine.execLw t rd rs1 imm s
  | .ld t rd rs1 imm => Sys2Proof.Machine.execLd t rd rs1 imm s
  | .lbu t rd rs1 imm => Sys2Proof.Machine.execLbu t rd rs1 imm s
  | .lhu t rd rs1 imm => Sys2Proof.Machine.execLhu t rd rs1 imm s
  | .lwu t rd rs1 imm => Sys2Proof.Machine.execLwu t rd rs1 imm s
  | .sb t rs2 rs1 imm => Sys2Proof.Machine.execSb t rs2 rs1 imm s
  | .sh t rs2 rs1 imm => Sys2Proof.Machine.execSh t rs2 rs1 imm s
  | .sw t rs2 rs1 imm => Sys2Proof.Machine.execSw t rs2 rs1 imm s
  | .sd t rs2 rs1 imm => Sys2Proof.Machine.execSd t rs2 rs1 imm s
  | .beq t rs1 rs2 off => Sys2Proof.Machine.execBeq t rs1 rs2 off s
  | .bne t rs1 rs2 off => Sys2Proof.Machine.execBne t rs1 rs2 off s
  | .blt t rs1 rs2 off => Sys2Proof.Machine.execBlt t rs1 rs2 off s
  | .bge t rs1 rs2 off => Sys2Proof.Machine.execBge t rs1 rs2 off s
  | .bltu t rs1 rs2 off => Sys2Proof.Machine.execBltu t rs1 rs2 off s
  | .bgeu t rs1 rs2 off => Sys2Proof.Machine.execBgeu t rs1 rs2 off s
  | .beqi t rs1 imm off => Sys2Proof.Machine.execBeqi t rs1 imm off s
  | .bnei t rs1 imm off => Sys2Proof.Machine.execBnei t rs1 imm off s
  | .blti t rs1 imm off => Sys2Proof.Machine.execBlti t rs1 imm off s
  | .bgei t rs1 imm off => Sys2Proof.Machine.execBgei t rs1 imm off s
  | .bltui t rs1 imm off => Sys2Proof.Machine.execBltui t rs1 imm off s
  | .bgeui t rs1 imm off => Sys2Proof.Machine.execBgeui t rs1 imm off s
  | .jal t rd off => Sys2Proof.Machine.execJal t rd off s
  | .jalr t rd rs1 imm => Sys2Proof.Machine.execJalr t rd rs1 imm s
  | .ldres t dbl rd rs1 => Sys2Proof.Machine.execLdres t dbl rd rs1 s
  | .stcond t dbl rd rs1 rs2 => Sys2Proof.Machine.execStcond t dbl rd rs1 rs2 s
  | .aswap t dbl rd rs1 rs2 => Sys2Proof.Machine.execAswap t dbl rd rs1 rs2 s
  | .aadd t dbl rd rs1 rs2 => Sys2Proof.Machine.execAadd t dbl rd rs1 rs2 s
  | .aand t dbl rd rs1 rs2 => Sys2Proof.Machine.execAand t dbl rd rs1 rs2 s
  | .aor t dbl rd rs1 rs2 => Sys2Proof.Machine.execAor t dbl rd rs1 rs2 s
  | .axor t dbl rd rs1 rs2 => Sys2Proof.Machine.execAxor t dbl rd rs1 rs2 s
  | .amin t dbl rd rs1 rs2 => Sys2Proof.Machine.execAmin t dbl rd rs1 rs2 s
  | .amax t dbl rd rs1 rs2 => Sys2Proof.Machine.execAmax t dbl rd rs1 rs2 s
  | .aminu t dbl rd rs1 rs2 => Sys2Proof.Machine.execAminu t dbl rd rs1 rs2 s
  | .amaxu t dbl rd rs1 rs2 => Sys2Proof.Machine.execAmaxu t dbl rd rs1 rs2 s
  | .reservationHoldExpiry t => Sys2Proof.Machine.execReservationHoldExpiry t s
  | .fence t => Sys2Proof.Machine.execFence t s
  | .fenceF t => Sys2Proof.Machine.execFenceF t s
  | .iflush t rs1 => Sys2Proof.Machine.execIflush t rs1 s
  | .iflushA t => Sys2Proof.Machine.execIflushA t s
  | .flw t fd rs1 imm => Sys2Proof.Machine.execFlw t fd rs1 imm s
  | .fld t fd rs1 imm => Sys2Proof.Machine.execFld t fd rs1 imm s
  | .fsw t fs2 rs1 imm => Sys2Proof.Machine.execFsw t fs2 rs1 imm s
  | .fsd t fs2 rs1 imm => Sys2Proof.Machine.execFsd t fs2 rs1 imm s
  | .fadd t dbl rm fd fs1 fs2 => Sys2Proof.Machine.execFadd t dbl rm fd fs1 fs2 s
  | .fsub t dbl rm fd fs1 fs2 => Sys2Proof.Machine.execFsub t dbl rm fd fs1 fs2 s
  | .fmul t dbl rm fd fs1 fs2 => Sys2Proof.Machine.execFmul t dbl rm fd fs1 fs2 s
  | .fdiv t dbl rm fd fs1 fs2 => Sys2Proof.Machine.execFdiv t dbl rm fd fs1 fs2 s
  | .fsqrt t dbl rm fd fs1 => Sys2Proof.Machine.execFsqrt t dbl rm fd fs1 s
  | .fmin t dbl fd fs1 fs2 => Sys2Proof.Machine.execFmin t dbl fd fs1 fs2 s
  | .fmax t dbl fd fs1 fs2 => Sys2Proof.Machine.execFmax t dbl fd fs1 fs2 s
  | .fminn t dbl fd fs1 fs2 => Sys2Proof.Machine.execFminn t dbl fd fs1 fs2 s
  | .fmaxn t dbl fd fs1 fs2 => Sys2Proof.Machine.execFmaxn t dbl fd fs1 fs2 s
  | .fcps t dbl fd fs1 fs2 => Sys2Proof.Machine.execFcps t dbl fd fs1 fs2 s
  | .fneg t dbl fd fs1 => Sys2Proof.Machine.execFneg t dbl fd fs1 s
  | .fabs t dbl fd fs1 => Sys2Proof.Machine.execFabs t dbl fd fs1 s
  | .fceq t dbl rd fs1 fs2 => Sys2Proof.Machine.execFceq t dbl rd fs1 fs2 s
  | .fclt t dbl rd fs1 fs2 => Sys2Proof.Machine.execFclt t dbl rd fs1 fs2 s
  | .fcle t dbl rd fs1 fs2 => Sys2Proof.Machine.execFcle t dbl rd fs1 fs2 s
  | .fcun t dbl rd fs1 fs2 => Sys2Proof.Machine.execFcun t dbl rd fs1 fs2 s
  | .fcltq t dbl rd fs1 fs2 => Sys2Proof.Machine.execFcltq t dbl rd fs1 fs2 s
  | .fcleq t dbl rd fs1 fs2 => Sys2Proof.Machine.execFcleq t dbl rd fs1 fs2 s
  | .fcvi t dbl k rm rd fs1 => Sys2Proof.Machine.execFcvi t dbl k rm rd fs1 s
  | .fcvf t dbl k rm fd rs1 => Sys2Proof.Machine.execFcvf t dbl k rm fd rs1 s
  | .fcvp t dbl rm fd fs1 => Sys2Proof.Machine.execFcvp t dbl rm fd fs1 s
  | .ftog t dbl rd fs1 => Sys2Proof.Machine.execFtog t dbl rd fs1 s
  | .gtof t dbl fd rs1 => Sys2Proof.Machine.execGtof t dbl fd rs1 s
  | .fkind t dbl rd fs1 => Sys2Proof.Machine.execFkind t dbl rd fs1 s
  | .fmadd t dbl rm fd fs1 fs2 fs3 => Sys2Proof.Machine.execFmadd t dbl rm fd fs1 fs2 fs3 s
  | .fmsub t dbl rm fd fs1 fs2 fs3 => Sys2Proof.Machine.execFmsub t dbl rm fd fs1 fs2 fs3 s
  | .fnmsub t dbl rm fd fs1 fs2 fs3 => Sys2Proof.Machine.execFnmsub t dbl rm fd fs1 fs2 fs3 s
  | .fnmadd t dbl rm fd fs1 fs2 fs3 => Sys2Proof.Machine.execFnmadd t dbl rm fd fs1 fs2 fs3 s
  | .csrrw t rd rs1 csr => Sys2Proof.Machine.execCsrrw t rd rs1 csr s
  | .csrrs t rd rs1 csr => Sys2Proof.Machine.execCsrrs t rd rs1 csr s
  | .csrrc t rd rs1 csr => Sys2Proof.Machine.execCsrrc t rd rs1 csr s
  | .predictorFlush t => Sys2Proof.Machine.execPredictorFlush t s
  | .sorrelEnable t => Sys2Proof.Machine.execSorrelEnable t s
  | .syscall t code => Sys2Proof.Machine.execSyscall t code s
  | .hcall t code => Sys2Proof.Machine.execHcall t code s
  | .tret t => Sys2Proof.Machine.execTret t s
  | .wfi t => Sys2Proof.Machine.execWfi t s
  | .wfiWake t => Sys2Proof.Machine.execWfiWake t s
  | .brk t code => Sys2Proof.Machine.execBrk t code s
  | .uaccessOpen t => Sys2Proof.Machine.execUaccessOpen t s
  | .uaccessClose t => Sys2Proof.Machine.execUaccessClose t s
  | .reservedInstruction t w => Sys2Proof.Machine.execReservedInstruction t w s
  | .tlbw t rd => Sys2Proof.Machine.execTlbw t rd s
  | .tlbp t rd rs1 => Sys2Proof.Machine.execTlbp t rd rs1 s
  | .tlbiVa t rs1 => Sys2Proof.Machine.execTlbiVa t rs1 s
  | .tlbiAsid t rs1 => Sys2Proof.Machine.execTlbiAsid t rs1 s
  | .tlbiTid t rs1 => Sys2Proof.Machine.execTlbiTid t rs1 s
  | .tlbiAll t => Sys2Proof.Machine.execTlbiAll t s
  | .wstep t rd rs1 rs2 => Sys2Proof.Machine.execWstep t rd rs1 rs2 s
  | .wstepU t rd rs1 rs2 => Sys2Proof.Machine.execWstepU t rd rs1 rs2 s
  | .wflush t rs1 rs2 => Sys2Proof.Machine.execWflush t rs1 rs2 s
  | .wflushB t rs1 => Sys2Proof.Machine.execWflushB t rs1 s
  | .wflushA t => Sys2Proof.Machine.execWflushA t s
  | .raiseInterrupt m cl v => Sys2Proof.Machine.execRaiseInterrupt m cl v s
  | .interruptEntry t ph => Sys2Proof.Machine.execInterruptEntry t ph s
  | .sorrelRegionLoad m c v => Sys2Proof.Machine.execSorrelRegionLoad m c v s
  | .sorrelRegionReady c => Sys2Proof.Machine.execSorrelRegionReady c s
  | .sorrelRegionRelease m c v => Sys2Proof.Machine.execSorrelRegionRelease m c v s
  | .coreMissFill c a kind => Sys2Proof.Machine.execCoreMissFill c a kind s
  | .jobStart e => Sys2Proof.Machine.execJobStart e s
  | .superframeJobStart e => Sys2Proof.Machine.execSuperframeJobStart e s
  | .jobDeadline e => Sys2Proof.Machine.execJobDeadline e s
  | .dmaGo e c => Sys2Proof.Machine.execDmaGo e c s
  | .dmaStop e c => Sys2Proof.Machine.execDmaStop e c s
  | .dmaDone e c => Sys2Proof.Machine.execDmaDone e c s
  | .dmaFail e c code => Sys2Proof.Machine.execDmaFail e c code s
  | .dramCacheFill e => Sys2Proof.Machine.execDramCacheFill e s
  | .timerLoad g t => Sys2Proof.Machine.execTimerLoad g t s
  | .timerExpiry g t => Sys2Proof.Machine.execTimerExpiry g t s
  | .tioDriveWrite m g v => Sys2Proof.Machine.execTioDriveWrite m g v s
  | .tioEdge g k rise cycle => Sys2Proof.Machine.execTioEdge g k rise cycle s
  | .eventPending e ev => Sys2Proof.Machine.execEventPending e ev s
  | .armProgramSwitch m e v => Sys2Proof.Machine.execArmProgramSwitch m e v s
  | .cancelProgramSwitch m e => Sys2Proof.Machine.execCancelProgramSwitch m e s
  | .engineApertureAccess m off w => Sys2Proof.Machine.execEngineApertureAccess m off w s
  | .seLdw e sl w last => Sys2Proof.Machine.execSeLdw e sl w last s
  | .seLdx e sl w last => Sys2Proof.Machine.execSeLdx e sl w last s
  | .seLdq e sl w last => Sys2Proof.Machine.execSeLdq e sl w last s
  | .seLdp e sl w last => Sys2Proof.Machine.execSeLdp e sl w last s
  | .seLdm e sl w last => Sys2Proof.Machine.execSeLdm e sl w last s
  | .seStw e sl w last => Sys2Proof.Machine.execSeStw e sl w last s
  | .seStx e sl w last => Sys2Proof.Machine.execSeStx e sl w last s
  | .seStq e sl w last => Sys2Proof.Machine.execSeStq e sl w last s
  | .seStp e sl w last => Sys2Proof.Machine.execSeStp e sl w last s
  | .seStm e sl w last => Sys2Proof.Machine.execSeStm e sl w last s
  | .seMac2 e sl w last => Sys2Proof.Machine.execSeMac2 e sl w last s
  | .seMsu2 e sl w last => Sys2Proof.Machine.execSeMsu2 e sl w last s
  | .seMul2 e sl w last => Sys2Proof.Machine.execSeMul2 e sl w last s
  | .seCmac e sl w last => Sys2Proof.Machine.execSeCmac e sl w last s
  | .seCmacj e sl w last => Sys2Proof.Machine.execSeCmacj e sl w last s
  | .seCmul e sl w last => Sys2Proof.Machine.execSeCmul e sl w last s
  | .seCmulr e sl w last => Sys2Proof.Machine.execSeCmulr e sl w last s
  | .seCx e sl w last => Sys2Proof.Machine.execSeCx e sl w last s
  | .seAdd e sl w last => Sys2Proof.Machine.execSeAdd e sl w last s
  | .seSub e sl w last => Sys2Proof.Machine.execSeSub e sl w last s
  | .seNeg e sl w last => Sys2Proof.Machine.execSeNeg e sl w last s
  | .seAbs e sl w last => Sys2Proof.Machine.execSeAbs e sl w last s
  | .seAnd e sl w last => Sys2Proof.Machine.execSeAnd e sl w last s
  | .seOr e sl w last => Sys2Proof.Machine.execSeOr e sl w last s
  | .seXor e sl w last => Sys2Proof.Machine.execSeXor e sl w last s
  | .seShl e sl w last => Sys2Proof.Machine.execSeShl e sl w last s
  | .seShr e sl w last => Sys2Proof.Machine.execSeShr e sl w last s
  | .seMin e sl w last => Sys2Proof.Machine.execSeMin e sl w last s
  | .seMax e sl w last => Sys2Proof.Machine.execSeMax e sl w last s
  | .seMov e sl w last => Sys2Proof.Machine.execSeMov e sl w last s
  | .seMovi e sl w last => Sys2Proof.Machine.execSeMovi e sl w last s
  | .seMovhi e sl w last => Sys2Proof.Machine.execSeMovhi e sl w last s
  | .seExt e sl w last => Sys2Proof.Machine.execSeExt e sl w last s
  | .seAld e sl w last => Sys2Proof.Machine.execSeAld e sl w last s
  | .seAclr e sl w last => Sys2Proof.Machine.execSeAclr e sl w last s
  | .seAbf e sl w last => Sys2Proof.Machine.execSeAbf e sl w last s
  | .seBr e sl w last => Sys2Proof.Machine.execSeBr e sl w last s
  | .seBeq e sl w last => Sys2Proof.Machine.execSeBeq e sl w last s
  | .seBne e sl w last => Sys2Proof.Machine.execSeBne e sl w last s
  | .seBlt e sl w last => Sys2Proof.Machine.execSeBlt e sl w last s
  | .seBge e sl w last => Sys2Proof.Machine.execSeBge e sl w last s
  | .sePbeq e sl w last => Sys2Proof.Machine.execSePbeq e sl w last s
  | .sePbne e sl w last => Sys2Proof.Machine.execSePbne e sl w last s
  | .seLoop e sl w last => Sys2Proof.Machine.execSeLoop e sl w last s
  | .seLoopi e sl w last => Sys2Proof.Machine.execSeLoopi e sl w last s
  | .sePsetl e sl w last => Sys2Proof.Machine.execSePsetl e sl w last s
  | .sePseth e sl w last => Sys2Proof.Machine.execSePseth e sl w last s
  | .seMset e sl w last => Sys2Proof.Machine.execSeMset e sl w last s
  | .sePadd e sl w last => Sys2Proof.Machine.execSePadd e sl w last s
  | .seRdc e sl w last => Sys2Proof.Machine.execSeRdc e sl w last s
  | .seWrc e sl w last => Sys2Proof.Machine.execSeWrc e sl w last s
  | .seRdx e sl w last => Sys2Proof.Machine.execSeRdx e sl w last s
  | .seWrx e sl w last => Sys2Proof.Machine.execSeWrx e sl w last s
  | .seEvwait e sl w last => Sys2Proof.Machine.execSeEvwait e sl w last s
  | .seEvtake e sl w last => Sys2Proof.Machine.execSeEvtake e sl w last s
  | .seJend e sl w last => Sys2Proof.Machine.execSeJend e sl w last s
  | .seIret e sl w last => Sys2Proof.Machine.execSeIret e sl w last s
  | .seInterruptEntry e => Sys2Proof.Machine.execSeInterruptEntry e s
  | .rangeEnable m r v => Sys2Proof.Machine.execRangeEnable m r v s
  | .rangeDisable m r v => Sys2Proof.Machine.execRangeDisable m r v s
  | .sliceRetarget m l v => Sys2Proof.Machine.execSliceRetarget m l v s
  | .sliceRetargetDone l => Sys2Proof.Machine.execSliceRetargetDone l s
  | .fabricRequestArrival p => Sys2Proof.Machine.execFabricRequestArrival p s
  | .superlineRead ch r how => Sys2Proof.Machine.execSuperlineRead ch r how s
  | .superlineWrite ch r how => Sys2Proof.Machine.execSuperlineWrite ch r how s
  | .metadataClearDone ch => Sys2Proof.Machine.execMetadataClearDone ch s
  | .metadataFlush m ch => Sys2Proof.Machine.execMetadataFlush m ch s
  | .metadataFlushDone ch => Sys2Proof.Machine.execMetadataFlushDone ch s
  | .dramCommandBoundary ch act => Sys2Proof.Machine.execDramCommandBoundary ch act s
  | .writeAgeDrain ch => Sys2Proof.Machine.execWriteAgeDrain ch s
  | .writeQueueLimitWrite m ch hi v => Sys2Proof.Machine.execWriteQueueLimitWrite m ch hi v s
  | .refreshIntervalDue ch => Sys2Proof.Machine.execRefreshIntervalDue ch s
  | .modeRegister4Poll ch hot => Sys2Proof.Machine.execModeRegister4Poll ch hot s
  | .channelFreeze ch trig => Sys2Proof.Machine.execChannelFreeze ch trig s
  | .freezeSnapshotDone ch => Sys2Proof.Machine.execFreezeSnapshotDone ch s
  | .replay m ch => Sys2Proof.Machine.execReplay m ch s
  | .resume m ch => Sys2Proof.Machine.execResume m ch s
  | .retire m ch => Sys2Proof.Machine.execRetire m ch s
  | .freezeDeadline ch => Sys2Proof.Machine.execFreezeDeadline ch s
  | .freezeActionDone ch => Sys2Proof.Machine.execFreezeActionDone ch s
  | .rebuild m ch => Sys2Proof.Machine.execRebuild m ch s
  | .rebuildDone ch => Sys2Proof.Machine.execRebuildDone ch s
  | .portConfigWrite m p v => Sys2Proof.Machine.execPortConfigWrite m p v s
  | .reneg m p => Sys2Proof.Machine.execReneg m p s
  | .linkBackoffExpiry p => Sys2Proof.Machine.execLinkBackoffExpiry p s
  | .linkSignalDetected p => Sys2Proof.Machine.execLinkSignalDetected p s
  | .advertisementReceive p adv => Sys2Proof.Machine.execAdvertisementReceive p adv s
  | .trainingDone p => Sys2Proof.Machine.execTrainingDone p s
  | .delayProbe p t1 t2 t3 t4 => Sys2Proof.Machine.execDelayProbe p t1 t2 t3 t4 s
  | .delayDone p => Sys2Proof.Machine.execDelayDone p s
  | .keyAgreementDone p ok => Sys2Proof.Machine.execKeyAgreementDone p ok s
  | .linkStateTimeout p locked => Sys2Proof.Machine.execLinkStateTimeout p locked s
  | .fecLockLost p => Sys2Proof.Machine.execFecLockLost p s
  | .managementMessageReceive p msg => Sys2Proof.Machine.execManagementMessageReceive p msg s
  | .ethernetFrameReceive p f => Sys2Proof.Machine.execEthernetFrameReceive p f s
  | .ethernetFrameTransmit p => Sys2Proof.Machine.execEthernetFrameTransmit p s
  | .pcieInboundRequest k r => Sys2Proof.Machine.execPcieInboundRequest k r s
  | .pcieCompletionReceive k t st v => Sys2Proof.Machine.execPcieCompletionReceive k t st v s
  | .pcieCompletionTimeout k t => Sys2Proof.Machine.execPcieCompletionTimeout k t s
  | .shadowMicrowordWrite m le n v => Sys2Proof.Machine.execShadowMicrowordWrite m le n v s
  | .controlStoreCopy m le => Sys2Proof.Machine.execControlStoreCopy m le s
  | .controlStoreCopyDone le => Sys2Proof.Machine.execControlStoreCopyDone le s
  | .microwordIssue le th cond disp => Sys2Proof.Machine.execMicrowordIssue le th cond disp s
  | .armMicrocodeSwitch m le v => Sys2Proof.Machine.execArmMicrocodeSwitch m le v s
  | .cancelMicrocodeSwitch m le => Sys2Proof.Machine.execCancelMicrocodeSwitch m le s
  | .microcodeBankSwap le => Sys2Proof.Machine.execMicrocodeBankSwap le s
  | .microcodeSwitchAbandon le => Sys2Proof.Machine.execMicrocodeSwitchAbandon le s
  | .microcodeSwitchRevert le => Sys2Proof.Machine.execMicrocodeSwitchRevert le s
  | .slotBoundary p sl => Sys2Proof.Machine.execSlotBoundary p sl s
  | .c0MessageAdmit f r => Sys2Proof.Machine.execC0MessageAdmit f r s
  | .fabricRequestIssue r => Sys2Proof.Machine.execFabricRequestIssue r s
  | .packetReceive p raw => Sys2Proof.Machine.execPacketReceive p raw s
  | .fabricResponseReceive pkt => Sys2Proof.Machine.execFabricResponseReceive pkt s
  | .deferredReissue tag => Sys2Proof.Machine.execDeferredReissue tag s
  | .fabricRequestTimeout tag => Sys2Proof.Machine.execFabricRequestTimeout tag s
  | .flowDescriptorWrite m f v => Sys2Proof.Machine.execFlowDescriptorWrite m f v s
  | .grant m n => Sys2Proof.Machine.execGrant m n s
  | .leaseGrantReceive p => Sys2Proof.Machine.execLeaseGrantReceive p s
  | .recall m n => Sys2Proof.Machine.execRecall m n s
  | .recallNoticeReceive p => Sys2Proof.Machine.execRecallNoticeReceive p s
  | .leaseDrained j => Sys2Proof.Machine.execLeaseDrained j s
  | .drainedReceive p => Sys2Proof.Machine.execDrainedReceive p s
  | .confirmReceive p => Sys2Proof.Machine.execConfirmReceive p s
  | .forcedRecallConfirm j => Sys2Proof.Machine.execForcedRecallConfirm j s
  | .leave m v => Sys2Proof.Machine.execLeave m v s
  | .join m v => Sys2Proof.Machine.execJoin m v s
  | .serviceDrainDone => Sys2Proof.Machine.execServiceDrainDone  s
  | .serviceReady => Sys2Proof.Machine.execServiceReady  s
  | .serviceOperationTimeout => Sys2Proof.Machine.execServiceOperationTimeout  s
  | .ledgerPosting acts => Sys2Proof.Machine.execLedgerPosting acts s
  | .ledgerClose acts => Sys2Proof.Machine.execLedgerClose acts s
  | .recalibration sensed => Sys2Proof.Machine.execRecalibration sensed s
  | .setBalance m v => Sys2Proof.Machine.execSetBalance m v s
  | .performanceLevelRequest m cl v => Sys2Proof.Machine.execPerformanceLevelRequest m cl v s
  | .voltageRampDone cl => Sys2Proof.Machine.execVoltageRampDone cl s
  | .levelTransitionDone cl => Sys2Proof.Machine.execLevelTransitionDone cl s
  | .powerDomainOn m d => Sys2Proof.Machine.execPowerDomainOn m d s
  | .powerDomainOff m d => Sys2Proof.Machine.execPowerDomainOff m d s
  | .powerDomainOnDone d => Sys2Proof.Machine.execPowerDomainOnDone d s
  | .powerDomainOffDone d => Sys2Proof.Machine.execPowerDomainOffDone d s
  | .sleepEntry c => Sys2Proof.Machine.execSleepEntry c s
  | .sleepEntryDone c => Sys2Proof.Machine.execSleepEntryDone c s
  | .sleepWakeEvent c => Sys2Proof.Machine.execSleepWakeEvent c s
  | .sleepWakeDone c => Sys2Proof.Machine.execSleepWakeDone c s
  | .enterDormant m => Sys2Proof.Machine.execEnterDormant m s
  | .dormantEntryDone => Sys2Proof.Machine.execDormantEntryDone  s
  | .wakeNAssert => Sys2Proof.Machine.execWakeNAssert  s
  | .dormantWake => Sys2Proof.Machine.execDormantWake  s
  | .rtcAlarm => Sys2Proof.Machine.execRtcAlarm  s
  | .generateTenant m tid => Sys2Proof.Machine.execGenerateTenant m tid s
  | .importTenant m tid => Sys2Proof.Machine.execImportTenant m tid s
  | .eraseTenant m tid => Sys2Proof.Machine.execEraseTenant m tid s
  | .loadRack m => Sys2Proof.Machine.execLoadRack m s
  | .loadSak m port an => Sys2Proof.Machine.execLoadSak m port an s
  | .eraseSak m port an => Sys2Proof.Machine.execEraseSak m port an s
  | .keyCommandDone => Sys2Proof.Machine.execKeyCommandDone  s
  | .linkRekey p frame => Sys2Proof.Machine.execLinkRekey p frame s
  | .linkRekeyFailure p => Sys2Proof.Machine.execLinkRekeyFailure p s
  | .verifyImage m => Sys2Proof.Machine.execVerifyImage m s
  | .imageVerifyDone img => Sys2Proof.Machine.execImageVerifyDone img s
  | .lidMeshAlarm detail => Sys2Proof.Machine.execLidMeshAlarm detail s
  | .railGlitch detail => Sys2Proof.Machine.execRailGlitch detail s
  | .clockGlitch detail => Sys2Proof.Machine.execClockGlitch detail s
  | .temperatureAlarm detail => Sys2Proof.Machine.execTemperatureAlarm detail s
  | .lightSensorAlarm detail => Sys2Proof.Machine.execLightSensorAlarm detail s
  | .firmwareAlarm m v => Sys2Proof.Machine.execFirmwareAlarm m v s
  | .level3EraseDone => Sys2Proof.Machine.execLevel3EraseDone  s
  | .holdRelease m v => Sys2Proof.Machine.execHoldRelease m v s
  | .zeroizeWireAssert wire => Sys2Proof.Machine.execZeroizeWireAssert wire s
  | .zeroizeWireRelease wire => Sys2Proof.Machine.execZeroizeWireRelease wire s
  | .zeroizeDiscrepancy => Sys2Proof.Machine.execZeroizeDiscrepancy  s
  | .trngRead m => Sys2Proof.Machine.execTrngRead m s
  | .trngHealthFailure => Sys2Proof.Machine.execTrngHealthFailure  s
  | .scrubRead target unit => Sys2Proof.Machine.execScrubRead target unit s
  | .armErrorInjection m n v => Sys2Proof.Machine.execArmErrorInjection m n v s
  | .meshQuadrantFailure q => Sys2Proof.Machine.execMeshQuadrantFailure q s
  | .meshRequestReissue id tid lost => Sys2Proof.Machine.execMeshRequestReissue id tid lost s
  | .sliceFailure sl => Sys2Proof.Machine.execSliceFailure sl s
  | .clusterFailure cl => Sys2Proof.Machine.execClusterFailure cl s
  | .coreFailure c => Sys2Proof.Machine.execCoreFailure c s
  | .restartThread m v => Sys2Proof.Machine.execRestartThread m v s
  | .restartLinkEngine m v => Sys2Proof.Machine.execRestartLinkEngine m v s
  | .pwrgoodChange high => Sys2Proof.Machine.execPwrgoodChange high s
  | .resetNChange high => Sys2Proof.Machine.execResetNChange high s
  | .keeperRomBoot b => Sys2Proof.Machine.execKeeperRomBoot b s
  | .keeperFirmwareEntry => Sys2Proof.Machine.execKeeperFirmwareEntry  s
  | .keeperLockstepMismatch => Sys2Proof.Machine.execKeeperLockstepMismatch  s
  | .bootLock m => Sys2Proof.Machine.execBootLock m s
  | .startThread m t v => Sys2Proof.Machine.execStartThread m t v s
  | .liveRestart m v => Sys2Proof.Machine.execLiveRestart m v s
  | .stopCadence m => Sys2Proof.Machine.execStopCadence m s
  | .startCadence m => Sys2Proof.Machine.execStartCadence m s
  | .cadenceDoorbell m v => Sys2Proof.Machine.execCadenceDoorbell m v s
  | .mailboxDoorbell m v => Sys2Proof.Machine.execMailboxDoorbell m v s
  | .mailboxResponse rsp status => Sys2Proof.Machine.execMailboxResponse rsp status s
  | .mailboxDoneRead m => Sys2Proof.Machine.execMailboxDoneRead m s
  | .managementBusMessage i3c msg => Sys2Proof.Machine.execManagementBusMessage i3c msg s
  | .getVersion msg => Sys2Proof.Machine.execGetVersion msg s
  | .getBootstat msg => Sys2Proof.Machine.execGetBootstat msg s
  | .getRecords msg first count => Sys2Proof.Machine.execGetRecords msg first count s
  | .bypass => Sys2Proof.Machine.execBypass  s
  | .idcode => Sys2Proof.Machine.execIdcode  s
  | .samplePreload => Sys2Proof.Machine.execSamplePreload  s
  | .extest => Sys2Proof.Machine.execExtest  s
  | .dbgport => Sys2Proof.Machine.execDbgport  s
  | .debugChallenge => Sys2Proof.Machine.execDebugChallenge  s
  | .debugAuthResponse scope keyIdx hashOk sigOk => Sys2Proof.Machine.execDebugAuthResponse scope keyIdx hashOk sigOk s
  | .debugAuthTimeout => Sys2Proof.Machine.execDebugAuthTimeout  s
  | .trstNAssert => Sys2Proof.Machine.execTrstNAssert  s
  | .debugRead off => Sys2Proof.Machine.execDebugRead off s
  | .quietDebugRead off => Sys2Proof.Machine.execQuietDebugRead off s
  | .haltThread t => Sys2Proof.Machine.execHaltThread t s
  | .releaseThread t => Sys2Proof.Machine.execReleaseThread t s
  | .haltEngine e => Sys2Proof.Machine.execHaltEngine e s
  | .releaseEngine e => Sys2Proof.Machine.execReleaseEngine e s
  | .supplyFault rail => Sys2Proof.Machine.execSupplyFault rail s
  | .refclkMissing inp => Sys2Proof.Machine.execRefclkMissing inp s
  | .refclkReturn inp => Sys2Proof.Machine.execRefclkReturn inp s
  | .refclkHoldExpiry => Sys2Proof.Machine.execRefclkHoldExpiry  s
  | .sdrefMissing k => Sys2Proof.Machine.execSdrefMissing k s
  | .sdrefRestored k => Sys2Proof.Machine.execSdrefRestored k s
  | .thermalTrip => Sys2Proof.Machine.execThermalTrip  s
  | .coldStart => Sys2Proof.Machine.execColdStart  s
  | .dramWindowBoundary ch unit => Sys2Proof.Machine.execDramWindowBoundary ch unit s
  | .channelTrainingDone ch ok => Sys2Proof.Machine.execChannelTrainingDone ch ok s
  | .pcieLinkStateChange k st => Sys2Proof.Machine.execPcieLinkStateChange k st s
  | .thermtripNRelease => Sys2Proof.Machine.execThermtripNRelease  s
  | .meshQuadrantRejoin q => Sys2Proof.Machine.execMeshQuadrantRejoin q s
  | .directoryReportsComplete l => Sys2Proof.Machine.execDirectoryReportsComplete l s
  | .trngRefill => Sys2Proof.Machine.execTrngRefill  s

end Sys2Proof.Machine
end

