-- ==== Sys2Proof/Machine/Idle.lean ====
section
/-! DEFINITION. One cycle of the always-on clock, which is what a step on an empty queue does (entry 1). -/
namespace Sys2Proof.Machine

/-- The RTC counts 32,768 times in 10^8 cycles (R381). -/
def State.rtcCycle (s : State) : State :=
  let a := s.rtcAcc + 32768
  if a < 100000000 then { s with rtcAcc := a }
  else ({ s with rtcAcc := a - 100000000 }).setFld F.ENL_RTC_COUNT (s.fld F.ENL_RTC_COUNT + 1)

/-- What the always-on clock itself counts in one cycle of 10 ns: the time of records (R425), the time since the tick,
the timers of the signal groups, of whose cycles 15 pass (R181), the pauses of PFC (R312), the count of the zeroize wires (R401), and the RTC. -/
def State.aoCycle (s : State) : State :=
  let t := s.tick
  let t : Tick := { t with frameOff := t.frameOff + 1 }
  let z := s.sec.zrun.map (fun d => (d.1 + 1, d.2))
  let ports := s.ports.map (fun p => (p.1, if p.2.paused = [] then p.2 else
    { p.2 with paused := (p.2.paused.map (fun c => (c.1, c.2 - 10000))).filter (fun c => c.2 != 0) }))
  let groups := s.groups.map (fun p => (p.1, { p.2 with count := p.2.count.map (fun c => (c.1, c.2 - 15)) }))
  ({ s with aoTime := s.aoTime + 1, tick := t, groups := groups, ports := ports, sec := { s.sec with zrun := z } }).rtcCycle

/-- A step on an empty queue. -/
def idle (s : State) : Host.Outcome State Fault Refusal := .next s.aoCycle

end Sys2Proof.Machine
end

