-- ==== Sys2Proof/Safety.lean ====
section
/-! DEFINITION. What counts as a safe step, and the conditions that claims speak of. -/
namespace Sys2Proof.Safety

open Sys2Proof.Machine

/-- The step of a state answers a next state. -/
def Runs (s : State) : Prop := ∃ s', step s = .next s'

/-- Every command of a list runs, one after the other, from a state. -/
def RunsAll (s : State) (cs : List Instr) : Prop :=
  match cs with
  | [] => True
  | c :: cs => ∃ s', exec c s = .next s' ∧ RunsAll s' cs

/-! ### Threads -/

/-- What the manual says an AKZ thread's registers never leave: the pc is a multiple of 4 and so are the trap-frame pcs
(R55); the low 12 bits of the vector bases read zero (R90); FPSTAT.RM never holds a reserved encoding (R84); HDELEG bit 1
reads zero (R92); TID holds 0 to 1,023 (R90). -/
structure ThreadOk (x : Thread) : Prop where
  pc     : x.pc.toNat % 4 = 0
  svec   : (x.csrv 0x408).toNat % 4096 = 0
  hvec   : (x.csrv 0x808).toNat % 4096 = 0
  spc    : (x.csrv 0x410).toNat % 4 = 0
  hpc    : (x.csrv 0x810).toNat % 4 = 0
  rm     : 1 ≤ getBits (x.csrv 0x001) 10 8 ∧ getBits (x.csrv 0x001) 10 8 ≤ 5
  hdeleg : bitOf (x.csrv 0x802) 1 = false
  tid    : (x.csrv 0x801).toNat < 1024

/-- Every thread's registers are as the manual says. -/
def ThreadsOk (s : State) : Prop := ∀ t, ThreadOk (s.thread t)

/-! ### Instructions of a thread -/

/-- The next instruction of thread t takes effect at s: the thread can issue (R102), no interrupt is deliverable (R99), and the
fetch of its word succeeds and leaves s1. -/
def AtCommit (s : State) (t : Th) (s1 : State) : Prop :=
  s.canIssue t.val = true ∧ s.nextVec t.val false = none ∧ s.fetch t.val = (true, s1)

/-- What the fetch of an instruction and its use of the TLB leave, which its commit notes (R137): the state to which its own
effect is compared. -/
abbrev fetchedBy (s1 : State) (t : Nat) : State := s1.commitUses t

/-- Nothing but thread t and the ledger's count of activity differs between s and s': no other thread, register, memory,
cache, queue or output. -/
def OnlyThread (s s' : State) (t : Nat) : Prop :=
  (∀ u, u ≠ t → s'.thread u = s.thread u) ∧ { s' with threads := s.threads, ledger := s.ledger } = s

/-- Thread t commits one instruction, which goes on at pc (R53, R90): INSTRET counts it, and every other CSR but those in
`csrs` keeps its value; privilege, run state, reservation, awaited access, store failure and fetched words are as before. -/
def CommittedAt (s s' : State) (t : Nat) (pc : Word) (csrs : List Nat) : Prop :=
  let x := s.thread t
  let x' := s'.thread t
  x'.pc = cutTo t pc ∧ x'.csrv 0x201 = x.csrv 0x201 + 1 ∧ (∀ n, n ≠ 0x201 → n ∉ csrs → x'.csrv n = x.csrv n) ∧
    { x' with g := x.g, gy := x.gy, f := x.f, fy := x.fy, csr := x.csr, pc := x.pc, hist := x.hist, ras := x.ras } = x

/-- The f registers, their Yarrow tags, the path history and the return stack of thread t are as before. -/
def SameFp (s s' : State) (t : Nat) : Prop :=
  let x := s.thread t
  let x' := s'.thread t
  x'.f = x.f ∧ x'.fy = x.fy ∧ x'.hist = x.hist ∧ x'.ras = x.ras

/-- General register rd of thread t takes v with the Yarrow tag y, unless rd is g0, which reads 0 and takes no write (R52);
every other general register is as before. -/
def RegTakes (s s' : State) (t rd : Nat) (v : Word) (y : Bool) : Prop :=
  let x := s.thread t
  let x' := s'.thread t
  ∀ r, x'.reg r = (if r = rd ∧ r ≠ 0 then v else x.reg r) ∧ x'.regY r = (if r = rd ∧ r ≠ 0 then y else x.regY r)

/-- The command commits with v in register rd of thread t, at the next instruction, and changes nothing else of what its fetch,
which left s1, leaves. -/
def WritesReg (i : Instr) (s s1 : State) (t rd : Nat) (v : Word) (y : Bool) : Prop :=
  let b := fetchedBy s1 t
  ∃ s', exec i s = .next s' ∧ RegTakes b s' t rd v y ∧ CommittedAt b s' t ((b.thread t).pc + 4) [] ∧ SameFp b s' t ∧
    OnlyThread b s' t

/-- The f registers and their Yarrow tags of thread t are as before. -/
def SameF (s s' : State) (t : Nat) : Prop := (s'.thread t).f = (s.thread t).f ∧ (s'.thread t).fy = (s.thread t).fy

/-- The predictor's array of a core, looked up at word i: a Sorrel thread and a pair look nothing up (R105, R115). -/
def predicted (s1 : State) (t i : Nat) : State := if akz32 t || s1.sorrel t then s1 else s1.predCheck t i

/-- Beside thread t and the ledger's count of activity, only the predictors of its core differ, with what writing a word of their
array does to an armed error injection (R105, R421), and what the squash of a wrong path takes: the thread's entries of the fill
buffer, and free values (R108, R111; entry 136). No other thread or register, no memory, no cache. -/
def OnlyPredictor (s s' : State) (t : Nat) : Prop :=
  (∀ u, u ≠ t → s'.thread u = s.thread u) ∧
  { s' with threads := s.threads, ledger := s.ledger, cores := s.cores, errs := s.errs, regs := s.regs, free := s.free } = s ∧
  (∀ c, { s'.core c with dirPred := (s.core c).dirPred, indPred := (s.core c).indPred, fillBuf := (s.core c).fillBuf } = s.core c) ∧
  (∀ c, c ≠ coreOf t → s'.core c = s.core c) ∧
  (∀ o, o ≠ Reg.off .ERR_FLIPMASK 0 (coreTarget (coreOf t)) → mget s'.regs o = mget s.regs o)

/-- No wrong path is squashed: WPATH, the loads that ran ahead, the fill buffer and the free values are as before. -/
def NoSquash (s s' : State) (t : Nat) : Prop :=
  (s'.thread t).csrv 0x203 = (s.thread t).csrv 0x203 ∧ (s'.thread t).ahead = (s.thread t).ahead ∧ s'.free = s.free ∧
  (s'.core (coreOf t)).fillBuf = (s.core (coreOf t)).fillBuf

/-- The command commits, having looked up word i of the predictors, goes on at pc, and changes no register of its thread; WPATH and
the loads that ran ahead change only where the prediction was wrong. -/
def GoesTo (i : Instr) (s s1 : State) (t word : Nat) (right : Bool) (pc : Word) : Prop :=
  let b := fetchedBy (predicted s1 t word) t
  ∃ s', exec i s = .next s' ∧ RegTakes b s' t 0 0 false ∧ CommittedAt b (s'.setThread t { s'.thread t with ahead := (b.thread t).ahead }) t pc [0x203] ∧
    SameF b s' t ∧ OnlyPredictor b s' t ∧ (right = true → NoSquash b s' t)

/-- f register fd of thread t takes a value of a format with a Yarrow tag, and FPSTAT the flags (R82, R83, R86); every other f
register and tag, and every general register, is as before. -/
def FregTakes (s s' : State) (t fd : Nat) (dbl : Bool) (v : Word) (y : Bool) (flags : Word) : Prop :=
  let x := s.thread t
  let x' := s'.thread t
  (∀ r, r < 32 → x'.freg r = (if r = fd then v else x.freg r) ∧ x'.fdbl r = (if r = fd then dbl else x.fdbl r) ∧
    x'.fregY r = (if r = fd then y else x.fregY r)) ∧
  x'.csrv 1 = x.csrv 1 ||| flags ∧ x'.g = x.g ∧ x'.gy = x.gy ∧ x'.hist = x.hist ∧ x'.ras = x.ras

/-- The command commits with a value of a format in f register fd. -/
def WritesFreg (i : Instr) (s s1 : State) (t fd : Nat) (dbl : Bool) (v : Word) (y : Bool) (flags : Word) : Prop :=
  let b := fetchedBy s1 t
  ∃ s', exec i s = .next s' ∧ FregTakes b s' t fd dbl v y flags ∧ CommittedAt b s' t ((b.thread t).pc + 4) [1, 2] ∧
    OnlyThread b s' t

/-- The command commits with v in general register rd and the flags in FPSTAT. -/
def WritesRegFlags (i : Instr) (s s1 : State) (t rd : Nat) (v : Word) (y : Bool) (flags : Word) : Prop :=
  let b := fetchedBy s1 t
  ∃ s', exec i s = .next s' ∧ RegTakes b s' t rd v y ∧ (s'.thread t).csrv 1 = (b.thread t).csrv 1 ||| flags ∧
    CommittedAt b s' t ((b.thread t).pc + 4) [1] ∧ SameFp b s' t ∧ OnlyThread b s' t

/-- Thread t enters a level (R94, R96, R123): S at the CSRs from 0x400, H at those from 0x800. The frame is written, IE is saved
and cleared, INTRAP is set, the reservation is cleared, and execution continues at pc; every other CSR but SUACC (R147) and those in
`csrs`, and every general and f register, is as before. -/
def EntersLevel (s s' : State) (t : Nat) (h : Bool) (cause inst addr info pc : Word) (csrs : List Nat) : Prop :=
  let x := s.thread t
  let x' := s'.thread t
  let b := if h then 0x800 else 0x400
  x'.csrv (b + 0x10) = x.pc ∧ x'.csrv (b + 0x11) = cause ∧ x'.csrv (b + 0x12) = inst ∧
  x'.csrv (b + 0x13) = addr ∧ x'.csrv (b + 0x15) = info ∧
  getBits (x'.csrv (b + 0x14)) 1 0 = x.priv.code ∧ bitOf (x'.csrv (b + 0x14)) 2 = bitOf (x.csrv b) 0 ∧
  getBits (x'.csrv (b + 0x14)) 11 8 = getBits (x.csrv 0x420) 3 0 ∧
  bitOf (x'.csrv b) 0 = false ∧ bitOf (x'.csrv b) 1 = true ∧
  x'.pc = cutTo t pc ∧ x'.priv = (if h then Priv.h else Priv.s) ∧ x'.resv = none ∧
  (∀ n, n ∉ [b, b + 0x10, b + 0x11, b + 0x12, b + 0x13, b + 0x14, b + 0x15, 0x434] → n ∉ csrs → x'.csrv n = x.csrv n) ∧
  x'.g = x.g ∧ x'.gy = x.gy ∧ x'.f = x.f ∧ x'.fy = x.fy ∧ x'.run = x.run ∧ x'.hist = x.hist ∧ x'.ras = x.ras

/-- Beside thread t and the ledger's count of activity, nothing differs but what the squash of a wrong path takes: the thread's
entries of the fill buffer, and free values (R108, R111; entry 136). -/
def OnlySquashed (s s' : State) (t : Nat) : Prop :=
  (∀ u, u ≠ t → s'.thread u = s.thread u) ∧
  { s' with threads := s.threads, ledger := s.ledger, cores := s.cores, free := s.free } = s ∧
  (∀ c, { s'.core c with fillBuf := (s.core c).fillBuf } = s.core c) ∧ (∀ c, c ≠ coreOf t → s'.core c = s.core c) ∧
  (akz32 t = true ∨ s.sorrel t = true → s'.free = s.free ∧ s'.cores = s.cores ∧ (s'.thread t).csrv 0x203 = (s.thread t).csrv 0x203)

/-- A synchronous trap is entered at a level: at XVEC + 64 × cause. Nothing but the thread changes, and what its wrong path held;
WPATH alone may rise (R111). -/
def TrapsAt (s s' : State) (t : Nat) (h : Bool) (cause inst : Nat) (addr info : Word) : Prop :=
  EntersLevel s s' t h (BitVec.ofNat 64 cause) (BitVec.ofNat 64 inst) addr info
    ((s.thread t).csrv (if h then 0x808 else 0x408) + BitVec.ofNat 64 (64 * cause)) [0x203] ∧ OnlySquashed s s' t

/-- The target level of a synchronous trap of a compute thread is H (R95). -/
def TargetsH (x : Thread) (cause : Nat) : Prop :=
  x.priv = .h ∨ cause ∈ [0x01, 0x0E, 0x10, 0x11] ∨ bitOf (x.csrv 0x802) cause = false

/-- A synchronous trap is taken at the level R95 names; one that targets S within an S trap is a DOUBLE-TRAP at H (R97). What
a trap that targets H within an H trap does, and a pair's within a trap, is not part of this. -/
def TrapTaken (s s' : State) (t : Nat) (cause inst : Nat) (addr info : Word) : Prop :=
  let x := s.thread t
  (akz32 t = true → x.intrap false = false → TrapsAt s s' t false cause inst addr info) ∧
  (akz32 t = false → TargetsH x cause → x.intrap true = false → TrapsAt s s' t true cause inst addr info) ∧
  (akz32 t = false → ¬TargetsH x cause → x.intrap false = false → TrapsAt s s' t false cause inst addr info) ∧
  (akz32 t = false → ¬TargetsH x cause → x.intrap false = true → x.intrap true = false →
    TrapsAt s s' t true 0x10 inst addr (BitVec.ofNat 64 cause))

/-- The command takes a synchronous trap on the state its fetch left. -/
def TakesTrap (i : Instr) (s s1 : State) (t : Nat) (cause inst : Nat) (addr info : Word) : Prop :=
  ∃ s', exec i s = .next s' ∧ TrapTaken s1 s' t cause inst addr info

/-! ### Memory -/

/-- A target is local memory or the memory of a pair: neither control space nor the fabric. -/
def inMemory (g : Tgt) : Bool := match g with | .mem _ _ => true | .ram _ => true | .rom => true | _ => false

/-- A byte of the RAM of thread t's pair, by its offset (R449). -/
def ramByte (s : State) (t o : Nat) : Nat := (mgetD (s.ramWords t) (o / 4) 0).toNat / 2 ^ (8 * (o % 4)) % 256

/-- A byte of local memory as core c's L2 holds it, where it holds the granule. -/
def l2Byte (s : State) (c a : Nat) : Option Nat :=
  (s.l2Find c (a / 64)).map (fun e => e.2.data.toNat / 2 ^ (8 * (a % 64)) % 256)

/-- No word of an on-die array holds a wrong bit, and no injection is armed (R421). -/
def ArraysClean (s : State) : Prop := s.errs = [] ∧ ∀ n, n < 155 → s.flag F.ERR_FLIPMASK_ARM 0 n = false

/-- The atomic operations commit as CommittedAt says, but for the reservation and its hold, which are given (R78). -/
def CommittedWithResv (s s' : State) (t : Nat) (resv : Option Nat) (hold : Bool) : Prop :=
  let x := s.thread t
  let x' := s'.thread t
  x'.pc = cutTo t (x.pc + 4) ∧ x'.csrv 0x201 = x.csrv 0x201 + 1 ∧ (∀ n, n ≠ 0x201 → x'.csrv n = x.csrv n) ∧
    x'.resv = resv ∧ x'.hold = hold ∧ x'.f = x.f ∧ x'.fy = x.fy ∧ x'.run = x.run ∧ x'.priv = x.priv ∧ OnlyThread s s' t

/-! ### Translation -/

/-- The entries of a core's L2 TLB. -/
def tlbEntries (x : Core) : List TlbEnt := x.l2tlb.flatMap (fun e => e.2.ways.map (fun w => w.2))

/-- Of a core's TLBs the entries that meet p go, and nothing else of the core. -/
def EntriesGone (x y : Core) (p : TlbEnt → Bool) : Prop :=
  (∀ e, e ∈ tlbEntries y ↔ e ∈ tlbEntries x ∧ p e = false) ∧
  y.itlb = x.itlb.filter (fun e => !p e.1) ∧ y.dtlb = x.dtlb.filter (fun e => !p e.1) ∧
  { y with l2tlb := x.l2tlb, itlb := x.itlb, dtlb := x.dtlb } = x

/-- The command commits at the next instruction, changes no register, and of its core's TLBs removes the entries that meet p:
nothing else differs, but that the commit notes the use of the TLB by the instruction's fetch where its entry stays (R137). While
an access of the core that may have used an entry that goes is outstanding, it waits (R152, R154; entry 139). -/
def RemovesEntries (i : Instr) (s s1 : State) (t : Nat) (p : TlbEnt → Bool) : Prop :=
  let c := coreOf t
  let gone := tlbEntries (s1.core c) |>.any p
  (s1.tlbBusy t = true ∧ gone = true → exec i s = .next s1) ∧
  (s1.tlbBusy t = false ∨ gone = false →
    ∃ s' y, exec i s = .next s' ∧ EntriesGone (s1.core c) y p ∧
      let b := fetchedBy (s1.setCore c y) t
      RegTakes b s' t 0 0 false ∧ CommittedAt b s' t ((b.thread t).pc + 4) [] ∧ SameFp b s' t ∧ OnlyThread b s' t)

/-- The command commits at the next instruction, changes no register, and of its core's walk cache removes the entries that
meet p: nothing else differs. -/
def RemovesWalks (i : Instr) (s s1 : State) (t : Nat) (p : WalkEnt → Bool) : Prop :=
  let c := coreOf t
  let b := fetchedBy s1 t
  ∃ s', exec i s = .next s' ∧ RegTakes b s' t 0 0 false ∧ CommittedAt b s' t ((b.thread t).pc + 4) [] ∧ SameFp b s' t ∧
    s'.core c = { b.core c with walk := (b.core c).walk.filter (fun e => !p e.1) } ∧
    (∀ d, d ≠ c → s'.core d = b.core d) ∧ (∀ u, u ≠ t → s'.thread u = b.thread u) ∧
    { s' with threads := b.threads, ledger := b.ledger, cores := b.cores } = b

/-! ### Words of instructions -/

/-- The word of an AKZ instruction, as R56 to R85, R88 and R139 give its fields; the other commands are no instructions. -/
def akzWord (i : Instr) : Option Nat :=
  match i with
  | .add _ rd rs1 rs2 => some (wordR 0x01 rd rs1 rs2 0x000)
  | .sub _ rd rs1 rs2 => some (wordR 0x01 rd rs1 rs2 0x001)
  | .and _ rd rs1 rs2 => some (wordR 0x01 rd rs1 rs2 0x002)
  | .or _ rd rs1 rs2 => some (wordR 0x01 rd rs1 rs2 0x003)
  | .xor _ rd rs1 rs2 => some (wordR 0x01 rd rs1 rs2 0x004)
  | .sll _ rd rs1 rs2 => some (wordR 0x01 rd rs1 rs2 0x005)
  | .srl _ rd rs1 rs2 => some (wordR 0x01 rd rs1 rs2 0x006)
  | .sra _ rd rs1 rs2 => some (wordR 0x01 rd rs1 rs2 0x007)
  | .slt _ rd rs1 rs2 => some (wordR 0x01 rd rs1 rs2 0x008)
  | .sltu _ rd rs1 rs2 => some (wordR 0x01 rd rs1 rs2 0x009)
  | .seq _ rd rs1 rs2 => some (wordR 0x01 rd rs1 rs2 0x00A)
  | .sne _ rd rs1 rs2 => some (wordR 0x01 rd rs1 rs2 0x00B)
  | .mul _ rd rs1 rs2 => some (wordR 0x01 rd rs1 rs2 0x010)
  | .mulh _ rd rs1 rs2 => some (wordR 0x01 rd rs1 rs2 0x011)
  | .mulhu _ rd rs1 rs2 => some (wordR 0x01 rd rs1 rs2 0x012)
  | .mulhsu _ rd rs1 rs2 => some (wordR 0x01 rd rs1 rs2 0x013)
  | .div _ rd rs1 rs2 => some (wordR 0x01 rd rs1 rs2 0x018)
  | .divu _ rd rs1 rs2 => some (wordR 0x01 rd rs1 rs2 0x019)
  | .rem _ rd rs1 rs2 => some (wordR 0x01 rd rs1 rs2 0x01A)
  | .remu _ rd rs1 rs2 => some (wordR 0x01 rd rs1 rs2 0x01B)
  | .addw _ rd rs1 rs2 => some (wordR 0x01 rd rs1 rs2 0x100)
  | .subw _ rd rs1 rs2 => some (wordR 0x01 rd rs1 rs2 0x101)
  | .sllw _ rd rs1 rs2 => some (wordR 0x01 rd rs1 rs2 0x105)
  | .srlw _ rd rs1 rs2 => some (wordR 0x01 rd rs1 rs2 0x106)
  | .sraw _ rd rs1 rs2 => some (wordR 0x01 rd rs1 rs2 0x107)
  | .mulw _ rd rs1 rs2 => some (wordR 0x01 rd rs1 rs2 0x110)
  | .divw _ rd rs1 rs2 => some (wordR 0x01 rd rs1 rs2 0x118)
  | .divuw _ rd rs1 rs2 => some (wordR 0x01 rd rs1 rs2 0x119)
  | .remw _ rd rs1 rs2 => some (wordR 0x01 rd rs1 rs2 0x11A)
  | .remuw _ rd rs1 rs2 => some (wordR 0x01 rd rs1 rs2 0x11B)
  | .addi _ rd rs1 imm => some (wordI 0x02 rd rs1 imm)
  | .andi _ rd rs1 imm => some (wordI 0x03 rd rs1 imm)
  | .ori _ rd rs1 imm => some (wordI 0x04 rd rs1 imm)
  | .xori _ rd rs1 imm => some (wordI 0x05 rd rs1 imm)
  | .slti _ rd rs1 imm => some (wordI 0x06 rd rs1 imm)
  | .sltiu _ rd rs1 imm => some (wordI 0x07 rd rs1 imm)
  | .slli _ w rd rs1 sh => some (wordSH rd rs1 0 w sh)
  | .srli _ w rd rs1 sh => some (wordSH rd rs1 1 w sh)
  | .srai _ w rd rs1 sh => some (wordSH rd rs1 2 w sh)
  | .lui _ rd imm => some (wordU 0x09 rd imm)
  | .auipc _ rd imm => some (wordU 0x0A rd imm)
  | .lb _ a b imm => some (wordI 0x0C a b imm)
  | .lh _ a b imm => some (wordI 0x0D a b imm)
  | .lw _ a b imm => some (wordI 0x0E a b imm)
  | .ld _ a b imm => some (wordI 0x0F a b imm)
  | .lbu _ a b imm => some (wordI 0x10 a b imm)
  | .lhu _ a b imm => some (wordI 0x11 a b imm)
  | .lwu _ a b imm => some (wordI 0x12 a b imm)
  | .sb _ a b imm => some (wordI 0x14 a b imm)
  | .sh _ a b imm => some (wordI 0x15 a b imm)
  | .sw _ a b imm => some (wordI 0x16 a b imm)
  | .sd _ a b imm => some (wordI 0x17 a b imm)
  | .beq _ a b imm => some (wordI 0x18 a b imm)
  | .bne _ a b imm => some (wordI 0x19 a b imm)
  | .blt _ a b imm => some (wordI 0x1A a b imm)
  | .bge _ a b imm => some (wordI 0x1B a b imm)
  | .bltu _ a b imm => some (wordI 0x1C a b imm)
  | .bgeu _ a b imm => some (wordI 0x1D a b imm)
  | .beqi _ rs1 imm off => some (wordBI 0x20 rs1 imm off)
  | .bnei _ rs1 imm off => some (wordBI 0x21 rs1 imm off)
  | .blti _ rs1 imm off => some (wordBI 0x22 rs1 imm off)
  | .bgei _ rs1 imm off => some (wordBI 0x23 rs1 imm off)
  | .bltui _ rs1 imm off => some (wordBI 0x24 rs1 imm off)
  | .bgeui _ rs1 imm off => some (wordBI 0x25 rs1 imm off)
  | .jal _ rd off => some (wordU 0x1E rd off)
  | .jalr _ rd rs1 imm => some (wordI 0x1F rd rs1 imm)
  | .ldres _ dbl rd rs1 => some (wordAtom 0x0 dbl rd rs1 0)
  | .stcond _ dbl rd rs1 rs2 => some (wordAtom 0x1 dbl rd rs1 rs2)
  | .aswap _ dbl rd rs1 rs2 => some (wordAtom 0x2 dbl rd rs1 rs2)
  | .aadd _ dbl rd rs1 rs2 => some (wordAtom 0x3 dbl rd rs1 rs2)
  | .aand _ dbl rd rs1 rs2 => some (wordAtom 0x4 dbl rd rs1 rs2)
  | .aor _ dbl rd rs1 rs2 => some (wordAtom 0x5 dbl rd rs1 rs2)
  | .axor _ dbl rd rs1 rs2 => some (wordAtom 0x6 dbl rd rs1 rs2)
  | .amin _ dbl rd rs1 rs2 => some (wordAtom 0x7 dbl rd rs1 rs2)
  | .amax _ dbl rd rs1 rs2 => some (wordAtom 0x8 dbl rd rs1 rs2)
  | .aminu _ dbl rd rs1 rs2 => some (wordAtom 0x9 dbl rd rs1 rs2)
  | .amaxu _ dbl rd rs1 rs2 => some (wordAtom 0xA dbl rd rs1 rs2)
  | .fence _ => some (word 0x27 0 0 0)
  | .fenceF _ => some (word 0x27 0 0 1)
  | .iflush _ rs1 => some (word 0x27 0 rs1.val 2)
  | .iflushA _ => some (word 0x27 0 0 3)
  | .flw _ a b imm => some (wordI 0x28 a b imm)
  | .fld _ a b imm => some (wordI 0x29 a b imm)
  | .fsw _ a b imm => some (wordI 0x2A a b imm)
  | .fsd _ a b imm => some (wordI 0x2B a b imm)
  | .fadd _ dbl rm fd fs1 fs2 => some (wordR 0x2C fd fs1 fs2 (fpFunct dbl 0 (Rm.code rm) 0))
  | .fsub _ dbl rm fd fs1 fs2 => some (wordR 0x2C fd fs1 fs2 (fpFunct dbl 1 (Rm.code rm) 0))
  | .fmul _ dbl rm fd fs1 fs2 => some (wordR 0x2C fd fs1 fs2 (fpFunct dbl 2 (Rm.code rm) 0))
  | .fdiv _ dbl rm fd fs1 fs2 => some (wordR 0x2C fd fs1 fs2 (fpFunct dbl 3 (Rm.code rm) 0))
  | .fsqrt _ dbl rm fd fs1 => some (wordR 0x2C fd fs1 0 (fpFunct dbl 4 (Rm.code rm) 0))
  | .fmin _ dbl fd fs1 fs2 => some (wordR 0x2C fd fs1 fs2 (fpFunct dbl 5 0 0))
  | .fmax _ dbl fd fs1 fs2 => some (wordR 0x2C fd fs1 fs2 (fpFunct dbl 5 0 1))
  | .fminn _ dbl fd fs1 fs2 => some (wordR 0x2C fd fs1 fs2 (fpFunct dbl 5 0 2))
  | .fmaxn _ dbl fd fs1 fs2 => some (wordR 0x2C fd fs1 fs2 (fpFunct dbl 5 0 3))
  | .fcps _ dbl fd fs1 fs2 => some (wordR 0x2C fd fs1 fs2 (fpFunct dbl 6 0 0))
  | .fneg _ dbl fd fs1 => some (wordR 0x2C fd fs1 0 (fpFunct dbl 6 0 1))
  | .fabs _ dbl fd fs1 => some (wordR 0x2C fd fs1 0 (fpFunct dbl 6 0 2))
  | .fceq _ dbl rd fs1 fs2 => some (wordR 0x2C rd fs1 fs2 (fpFunct dbl 7 0 0))
  | .fclt _ dbl rd fs1 fs2 => some (wordR 0x2C rd fs1 fs2 (fpFunct dbl 7 0 1))
  | .fcle _ dbl rd fs1 fs2 => some (wordR 0x2C rd fs1 fs2 (fpFunct dbl 7 0 2))
  | .fcun _ dbl rd fs1 fs2 => some (wordR 0x2C rd fs1 fs2 (fpFunct dbl 7 0 3))
  | .fcltq _ dbl rd fs1 fs2 => some (wordR 0x2C rd fs1 fs2 (fpFunct dbl 7 0 4))
  | .fcleq _ dbl rd fs1 fs2 => some (wordR 0x2C rd fs1 fs2 (fpFunct dbl 7 0 5))
  | .fcvi _ dbl k rm rd fs1 => some (wordR 0x2C rd fs1 0 (fpFunct dbl 8 (Rm.code rm) (IntKind.code k)))
  | .fcvf _ dbl k rm fd rs1 => some (wordR 0x2C fd rs1 0 (fpFunct dbl 8 (Rm.code rm) (4 + IntKind.code k)))
  | .fcvp _ dbl rm fd fs1 => some (wordR 0x2C fd fs1 0 (fpFunct dbl 9 (Rm.code rm) 0))
  | .ftog _ dbl rd fs1 => some (wordR 0x2C rd fs1 0 (fpFunct dbl 10 0 0))
  | .gtof _ dbl fd rs1 => some (wordR 0x2C fd rs1 0 (fpFunct dbl 10 0 1))
  | .fkind _ dbl rd fs1 => some (wordR 0x2C rd fs1 0 (fpFunct dbl 11 0 0))
  | .fmadd _ dbl rm fd fs1 fs2 fs3 => some (wordF4 fd fs1 fs2 fs3 dbl (Rm.code rm) 0)
  | .fmsub _ dbl rm fd fs1 fs2 fs3 => some (wordF4 fd fs1 fs2 fs3 dbl (Rm.code rm) 1)
  | .fnmsub _ dbl rm fd fs1 fs2 fs3 => some (wordF4 fd fs1 fs2 fs3 dbl (Rm.code rm) 2)
  | .fnmadd _ dbl rm fd fs1 fs2 fs3 => some (wordF4 fd fs1 fs2 fs3 dbl (Rm.code rm) 3)
  | .csrrw _ rd rs1 csr => some (wordM 0x2E rd rs1 csr 0)
  | .csrrs _ rd rs1 csr => some (wordM 0x2E rd rs1 csr 1)
  | .csrrc _ rd rs1 csr => some (wordM 0x2E rd rs1 csr 2)
  | .syscall _ code => some (wordM 0x2E 0 0 code 3)
  | .hcall _ code => some (wordM 0x2E 0 0 code 4)
  | .brk _ code => some (wordM 0x2E 0 0 code 7)
  | .tret _ => some (wordM 0x2E 0 0 0 5)
  | .wfi _ => some (wordM 0x2E 0 0 0 6)
  | .uaccessOpen _ => some (wordM 0x2E 0 0 0 8)
  | .uaccessClose _ => some (wordM 0x2E 0 0 0 9)
  | .tlbw _ rd => some (wordR 0x2F rd 0 0 0x000)
  | .tlbp _ rd rs1 => some (wordR 0x2F rd rs1 0 0x001)
  | .tlbiVa _ rs1 => some (wordR 0x2F 0 rs1 0 0x002)
  | .tlbiAsid _ rs1 => some (wordR 0x2F 0 rs1 0 0x003)
  | .tlbiTid _ rs1 => some (wordR 0x2F 0 rs1 0 0x004)
  | .wflushB _ rs1 => some (wordR 0x2F 0 rs1 0 0x00B)
  | .tlbiAll _ => some (wordR 0x2F 0 0 0 0x005)
  | .wstep _ rd rs1 rs2 => some (wordR 0x2F rd rs1 rs2 0x008)
  | .wstepU _ rd rs1 rs2 => some (wordR 0x2F rd rs1 rs2 0x009)
  | .wflush _ rs1 rs2 => some (wordR 0x2F 0 rs1 rs2 0x00A)
  | .wflushA _ => some (wordR 0x2F 0 0 0 0x00C)
  | _ => none

/-- The thread of an AKZ instruction. -/
def akzThread (i : Instr) : Option Th :=
  match i with
  | .add t _ _ _ => some t
  | .sub t _ _ _ => some t
  | .and t _ _ _ => some t
  | .or t _ _ _ => some t
  | .xor t _ _ _ => some t
  | .sll t _ _ _ => some t
  | .srl t _ _ _ => some t
  | .sra t _ _ _ => some t
  | .slt t _ _ _ => some t
  | .sltu t _ _ _ => some t
  | .seq t _ _ _ => some t
  | .sne t _ _ _ => some t
  | .mul t _ _ _ => some t
  | .mulh t _ _ _ => some t
  | .mulhu t _ _ _ => some t
  | .mulhsu t _ _ _ => some t
  | .div t _ _ _ => some t
  | .divu t _ _ _ => some t
  | .rem t _ _ _ => some t
  | .remu t _ _ _ => some t
  | .addw t _ _ _ => some t
  | .subw t _ _ _ => some t
  | .sllw t _ _ _ => some t
  | .srlw t _ _ _ => some t
  | .sraw t _ _ _ => some t
  | .mulw t _ _ _ => some t
  | .divw t _ _ _ => some t
  | .divuw t _ _ _ => some t
  | .remw t _ _ _ => some t
  | .remuw t _ _ _ => some t
  | .addi t _ _ _ => some t
  | .andi t _ _ _ => some t
  | .ori t _ _ _ => some t
  | .xori t _ _ _ => some t
  | .slti t _ _ _ => some t
  | .sltiu t _ _ _ => some t
  | .slli t _ _ _ _ => some t
  | .srli t _ _ _ _ => some t
  | .srai t _ _ _ _ => some t
  | .lui t _ _ => some t
  | .auipc t _ _ => some t
  | .lb t _ _ _ => some t
  | .lh t _ _ _ => some t
  | .lw t _ _ _ => some t
  | .ld t _ _ _ => some t
  | .lbu t _ _ _ => some t
  | .lhu t _ _ _ => some t
  | .lwu t _ _ _ => some t
  | .sb t _ _ _ => some t
  | .sh t _ _ _ => some t
  | .sw t _ _ _ => some t
  | .sd t _ _ _ => some t
  | .beq t _ _ _ => some t
  | .bne t _ _ _ => some t
  | .blt t _ _ _ => some t
  | .bge t _ _ _ => some t
  | .bltu t _ _ _ => some t
  | .bgeu t _ _ _ => some t
  | .beqi t _ _ _ => some t
  | .bnei t _ _ _ => some t
  | .blti t _ _ _ => some t
  | .bgei t _ _ _ => some t
  | .bltui t _ _ _ => some t
  | .bgeui t _ _ _ => some t
  | .jal t _ _ => some t
  | .jalr t _ _ _ => some t
  | .ldres t _ _ _ => some t
  | .stcond t _ _ _ _ => some t
  | .aswap t _ _ _ _ => some t
  | .aadd t _ _ _ _ => some t
  | .aand t _ _ _ _ => some t
  | .aor t _ _ _ _ => some t
  | .axor t _ _ _ _ => some t
  | .amin t _ _ _ _ => some t
  | .amax t _ _ _ _ => some t
  | .aminu t _ _ _ _ => some t
  | .amaxu t _ _ _ _ => some t
  | .fence t => some t
  | .fenceF t => some t
  | .iflush t _ => some t
  | .iflushA t => some t
  | .flw t _ _ _ => some t
  | .fld t _ _ _ => some t
  | .fsw t _ _ _ => some t
  | .fsd t _ _ _ => some t
  | .fadd t _ _ _ _ _ => some t
  | .fsub t _ _ _ _ _ => some t
  | .fmul t _ _ _ _ _ => some t
  | .fdiv t _ _ _ _ _ => some t
  | .fsqrt t _ _ _ _ => some t
  | .fmin t _ _ _ _ => some t
  | .fmax t _ _ _ _ => some t
  | .fminn t _ _ _ _ => some t
  | .fmaxn t _ _ _ _ => some t
  | .fcps t _ _ _ _ => some t
  | .fneg t _ _ _ => some t
  | .fabs t _ _ _ => some t
  | .fceq t _ _ _ _ => some t
  | .fclt t _ _ _ _ => some t
  | .fcle t _ _ _ _ => some t
  | .fcun t _ _ _ _ => some t
  | .fcltq t _ _ _ _ => some t
  | .fcleq t _ _ _ _ => some t
  | .fcvi t _ _ _ _ _ => some t
  | .fcvf t _ _ _ _ _ => some t
  | .fcvp t _ _ _ _ => some t
  | .ftog t _ _ _ => some t
  | .gtof t _ _ _ => some t
  | .fkind t _ _ _ => some t
  | .fmadd t _ _ _ _ _ _ => some t
  | .fmsub t _ _ _ _ _ _ => some t
  | .fnmsub t _ _ _ _ _ _ => some t
  | .fnmadd t _ _ _ _ _ _ => some t
  | .csrrw t _ _ _ => some t
  | .csrrs t _ _ _ => some t
  | .csrrc t _ _ _ => some t
  | .syscall t _ => some t
  | .hcall t _ => some t
  | .brk t _ => some t
  | .tret t => some t
  | .wfi t => some t
  | .uaccessOpen t => some t
  | .uaccessClose t => some t
  | .tlbw t _ => some t
  | .tlbp t _ _ => some t
  | .tlbiVa t _ => some t
  | .tlbiAsid t _ => some t
  | .tlbiTid t _ => some t
  | .wflushB t _ => some t
  | .tlbiAll t => some t
  | .wstep t _ _ _ => some t
  | .wstepU t _ _ _ => some t
  | .wflush t _ _ => some t
  | .wflushA t => some t
  | _ => none

/-- A shift by an immediate whose word is reserved (R65): shamt [5] in a word form, or on AKZ32, which has no word form. -/
def reservedShift (a32 : Bool) (i : Instr) : Bool :=
  match i with
  | .slli _ w _ _ sh => (w || a32) && (sh.getLsbD 5 || (w && a32))
  | .srli _ w _ _ sh => (w || a32) && (sh.getLsbD 5 || (w && a32))
  | .srai _ w _ _ sh => (w || a32) && (sh.getLsbD 5 || (w && a32))
  | _ => false

/-! ### Registers, errors and records -/

/-- A write of a master is let through: the block answers, and a debug session's scope covers writes (R458). -/
def MayWrite (s : State) (m : Master) : Prop := s.live = true ∧ (m = .debug → s.scope 1 = true)

/-- A read of a master is let through (R458). -/
def MayRead (s : State) (m : Master) : Prop := s.live = true ∧ (m = .debug → s.scope 0 = true)

/-- Of the registers only those at the given offsets differ. -/
def RegsBut (s s' : State) (l : List Nat) : Prop := ∀ o, o ∉ l → mget s'.regs o = mget s.regs o

/-- Nothing differs but the registers at the given offsets. -/
def OnlyRegs (s s' : State) (l : List Nat) : Prop := RegsBut s s' l ∧ { s' with regs := s.regs } = s

/-- The control registers whose writes follow their access types alone, with no rule of their own (R10). -/
def plainRegs : List Reg :=
  [.KPR_DEVID, .KPR_CAPS, .KPR_IFVER, .KPR_SERIAL, .KPR_BOOTSTAT, .KPR_IPEND, .KPR_SUPSTAT, .KPR_MBOXREQ, .KPR_MBOXRSP,
   .CAD_STAT, .CAD_FRAMECNT, .CAD_SFPOS, .CAD_TIMING, .CAD_SEALSTAT, .CAD_LATECNT, .CAD_LATERUN, .CAD_TMON, .CAD_TDISCCNT,
   .CAD_TFAULTCNT, .CAD_FCMISCNT, .CAD_IPEND, .ENL_STAT, .ENL_DEVACCT, .ENL_FRAMEEN, .ENL_CALFACT, .ENL_GATECNT,
   .ENL_OVERDECLCNT, .ENL_RTCALM, .ENL_WAKESTAT, .ENL_ACCT, .ENL_C0RES, .ENL_USED, .THS_STAT, .THS_ZSTAT, .THS_HOLDMAP,
   .THS_KEYSTAT, .THS_IMGSTAT, .THS_TRNG, .THS_SRCCNT, .ERR_STAT, .ERR_LOGHEAD, .ERR_LOGOVFCNT, .ERR_NOTIFY, .ERR_CTLACCCNT,
   .ERR_SCRUBMISSCNT, .ERR_CTLACCHEAD, .ERR_CTLACC_LOG, .ERR_LOSTTID, .ERR_CORESTAT, .MAP_DIRBICNT, .MAP_NOMEMCNT,
   .MAP_FABCTL, .MAP_XBARDROPCNT, .MAP_INSVCA, .MAP_INSVCP, .MAP_BORROWB, .MAP_ROUTE, .MAP_TFABCNT, .MAP_TQUOTA, .CL_SLPCTL,
   .CL_IPEND, .CL_IVCFG, .SG_STAT, .SG_FCYC, .SG_OVRCNT, .SG_SKIPCNT, .SG_TMRCNT, .SG_CAPCTL, .SG_CAPDATA, .SE_STAT,
   .SE_EVPEND, .SE_JOBCNT, .SE_LASTJOB, .SE_FAULT, .SE_OBUFST, .SE_DMASRC, .SE_DMADST, .SE_DMASHAPE, .MC_STAT, .MC_QSTAT,
   .MC_REFCTL, .MC_RHCTL, .MC_C0DEEPCNT, .MC_REFSPLITCNT, .MC_NBRREFCNT, .MC_CECNT, .MC_UECNT, .MC_FRZSTAT, .MC_MIRSTAT,
   .MC_NOKEYCNT, .MC_DEFOVFCNT, .MC_KEYVALID, .MC_CMPSTAT, .MC_MDMISSCNT, .MC_BURSTRD, .MC_BURSTSV, .MC_CWEXACT, .MC_RMWCNT,
   .LE_STAT, .LE_CSCECNT, .LE_CSUECNT, .LE_PORTSTAT, .LE_PORTADV, .LE_PORTDLY, .LE_PORTDOWNCNT, .LE_PORTDROPCNT, .LE_PCIEOB,
   .LE_PCIEWIN, .LE_PCIEWTGT, .LE_ETHQPTR]

/-- A control-access error is logged (R428, R439): the stop, the direction, the cause, the offset and the low 12 bits of the frame in
the log's next entry; the entry's number advances, the count rises by one, and nothing else changes. -/
def CtlErrorLogged (s s' : State) (stop : Nat) (write : Bool) (cause off : Nat) : Prop :=
  let n := s.fld F.ERR_CTLACCHEAD_NEXT
  let e := s'.rd .ERR_CTLACC_LOG 0 n
  getBits e 6 0 = stop % 128 ∧ bitOf e 7 = write ∧ getBits e 11 8 = cause ∧ getBits e 51 12 = off % 2 ^ 40 ∧
    getBits e 63 52 = (s.rd .CAD_FRAMECNT).toNat % 2 ^ 12 ∧ s'.fld F.ERR_CTLACCHEAD_NEXT = (n + 1) % 16 ∧
    s'.rd .ERR_CTLACCCNT = s.rd .ERR_CTLACCCNT + 1 ∧
    OnlyRegs s s' [Reg.off .ERR_CTLACC_LOG 0 n, Reg.off .ERR_CTLACCHEAD 0 0, Reg.off .ERR_CTLACCCNT 0 0]

/-- A write of a master is discarded with a control-access error of a cause (R428). -/
def WriteRefused (i : Instr) (s : State) (m : Master) (cause off : Nat) : Prop :=
  ∃ s', exec i s = .next s' ∧ CtlErrorLogged s s' (stopOf m) true cause off

/-- The registers that a record may change (R424, R427, R450, R454). -/
def logRegs : List Nat :=
  [Reg.off .ERR_LOGHEAD 0 0, Reg.off .ERR_LOGOVFCNT 0 0, Reg.off .KPR_IPEND 0 0, Reg.off .CAD_IPEND 0 0] ++
    (List.range 32).flatMap (fun b => (List.range 64).map (fun i => Reg.off .CL_IPEND b i))

/-- A RAS record of a kind and target is written at the ring's next place, and Keeper's vector 3 is pending (R424 to R427). -/
def Records (s s' : State) (kind target : Nat) : Prop :=
  bitOf (s'.rd .KPR_IPEND) 3 = true ∧
  ∃ r, mget s'.ring (s.fld F.ERR_LOGHEAD_NEXT) = some r ∧ r.kind = BitVec.ofNat 8 kind ∧ r.target = BitVec.ofNat 8 target ∧
    r.time = BitVec.ofNat 64 s.aoTime

/-- Beside the record ring, what the block sends, the vector that an interrupt entry selects (R124), and the registers at the given
offsets and those of the log, nothing differs. -/
def OnlyLogAnd (s s' : State) (l : List Nat) : Prop :=
  RegsBut s s' (logRegs ++ l) ∧ { s' with regs := s.regs, ring := s.ring, out := s.out, entering := s.entering } = s

/-! ### Links -/

/-- Nothing keeps the link whose lane 0 is p from starting (R304, R307): it is enabled with the Gohal personality, its
domain is there, the engines and references of all its lanes run, none of which belongs to PCI Express, and it has a version to
offer. -/
def MayStart (s : State) (p : Nat) : Prop :=
  s.lane0 p = p ∧ s.pfld F.LE_PORTCFG_EN p = 1 ∧ s.pfld F.LE_PORTCFG_PERS p = 1 ∧ s.domOn (71 + p / 12) = true ∧
    (∀ q ∈ s.lanes p, s.pciePort q = false ∧ s.flag F.LE_STAT_HALTED (q / 4) = false ∧ s.sdMissing q = false) ∧ s.live = true ∧
    s.advMin ≤ s.advMax p

/-- A link that is DOWN with no backoff running is in SIGNAL if it may start, and in DOWN otherwise. -/
def Restarts (s : State) (p : Nat) : Prop := (MayStart s p → s.linkSt p = 1) ∧ (¬MayStart s p → s.linkSt p = 0)

/-! ### Signal engines -/

/-- Engine n runs job j and may issue a bundle, of which the syllables `rest` are there and the active bank holds no other: no result
is in flight, the bundle is not annulled, no word of an array is wrong, the bundle's words are zero and not poisoned, and the loop
buffer holds nothing. -/
def EngineIssues (s : State) (n : Nat) (j : Job) (rest : List (Slot × BitVec 6 × Syl)) : Prop :=
  let x := s.engine n
  s.mayIssue n = true ∧ x.job = some j ∧ x.bundle = rest ∧ x.flight = [] ∧ x.annul = false ∧ x.lbuf = [] ∧ ArraysClean s ∧
    ∀ i, i < 4 → mgetD (if s.fld F.SE_STAT_ACTIVE n = 0 then x.progA else x.progB) (4 * x.pc + i) ⟨0, false⟩ = ⟨0, false⟩

/-- The same outside every hardware loop. -/
def EngineReady (s : State) (n : Nat) (j : Job) (rest : List (Slot × BitVec 6 × Syl)) : Prop :=
  EngineIssues s n j rest ∧ (s.engine n).locRd 0x0C = 0

/-- The value that a list of results has for a destination. -/
def landVal (l : List (Dest × Nat)) (d : Dest) : Option Nat := (l.find? (fun p => decide (p.1 = d))).map (fun p => p.2)

/-- The results of a list land in the registers (R197, R199), and the saturation flags are raised (R213): every other register is as
before. -/
def RegsLand (x y : Engine) (l : List (Dest × Nat)) (flags : Nat) : Prop :=
  (∀ r, r < 32 → y.rd_d r = match landVal l (.d r) with | some v => sample v | none => x.rd_d r) ∧
  (∀ r, r < 8 → y.rd_a r = match landVal l (.a r) with | some v => BitVec.ofNat 56 v | none => x.rd_a r) ∧
  (∀ r, r < 16 → y.rd_p r = match landVal l (.p r) with | some v => BitVec.ofNat 32 v | none => x.rd_p r) ∧
  (∀ r, r < 16 → y.rd_m r = match landVal l (.m r) with | some v => BitVec.ofNat 32 v | none => x.rd_m r) ∧
  (∀ i, i ≠ 0x0E → y.locRd i = match landVal l (.loc i) with | some v => BitVec.ofNat 32 v | none => x.locRd i) ∧
  y.locRd 0x0E = x.locRd 0x0E ||| BitVec.ofNat 32 flags

/-- The command issues a bundle of engine n: the results `land` are visible to the next bundle, those of `fly` later (R194); data memory
holds `mem`; the engine goes on at the next bundle, or after its second delay slot at a branch's target (R205). Its job counts
the energy; nothing else differs. -/
def Yields (c : Instr) (s : State) (n : Nat) (land : List (Dest × Nat)) (fly : List Flight) (flags : Nat) (mem : Nat → MemW) : Prop :=
  ∃ s', exec c s = .next s' ∧
    let x := s.engine n
    let y := s'.engine n
    let next := (x.pc + 1) % 2048
    RegsLand x y land flags ∧ y.flight = fly ∧ (∀ i, mgetD y.dmem i ⟨0, false⟩ = mem i) ∧
    y.pc = (if x.slots = 1 then x.redirect.getD next else next) ∧ y.slots = x.slots - 1 ∧
    y.redirect = (if x.slots = 1 then none else x.redirect) ∧ y.bundle = [] ∧
    (∃ u, y.job = x.job.map (fun j => { j with used := u })) ∧
    { y with d := x.d, a := x.a, p := x.p, m := x.m, loc := x.loc, flight := x.flight, dmem := x.dmem, pc := x.pc, slots := x.slots,
             redirect := x.redirect, bundle := x.bundle, job := x.job } = x ∧
    (∀ k, k ≠ n → s'.engine k = s.engine k) ∧ { s' with engines := s.engines, ledger := s.ledger } = s

/-- The bundle is held: it stays, and nothing happens (R207). -/
def HoldsBundle (c : Instr) (s : State) (n : Nat) (b : List (Slot × BitVec 6 × Syl)) : Prop :=
  ∃ s', exec c s = .next s' ∧ s'.engine n = { s.engine n with bundle := b, held := true } ∧
    (∀ k, k ≠ n → s'.engine k = s.engine k) ∧ { s' with engines := s.engines } = s

end Sys2Proof.Safety
end

