-- ==== Sys2Proof/WellFormed.lean ====
section
/-! DEFINITION. Which commands are well formed: the operands that describe one thing twice agree, and a row that
stands for some values of a written word carries one of them. -/
namespace Sys2Proof

/-- Bit i of a word that a command writes. -/
def cmdBit (v : Word) (i : Nat) : Bool := v.getLsbD i

/-- A received Ethernet frame has at least 1 byte and its words hold its bytes. -/
def EthFrame.wf (f : EthFrame) : Bool :=
  decide (0 < f.len.toNat) && decide (f.bytes.length = (f.len.toNat + 7) / 8)

/-- A packet's payload words hold its payload bytes (R338). -/
def Packet.wf (p : Packet) : Bool := decide (p.payload.length * 8 < p.len.toNat + 8 ∧ p.len.toNat ≤ p.payload.length * 8)

/-- A request's payload words hold its payload bytes. -/
def FabReq.wf (p : FabReq) : Bool := decide (p.payload.length * 8 < p.len.toNat + 8)

/-- A PCI Express request of 1 to 4,096 bytes; a write carries its data. -/
def PcieReq.wf (r : PcieReq) : Bool :=
  decide (0 < r.size.toNat ∧ r.size.toNat ≤ 4096) && (!r.write || decide (r.data.length = (r.size.toNat + 7) / 8))

/-- A message carries the payload its LEN says, 248 bytes at most (R455). -/
def MgmtMsg.wf (m : MgmtMsg) : Bool :=
  decide (m.payload.length = m.len.toNat ∧ m.len.toNat ≤ 248)

/-- The checks on each command. -/
def Instr.wf (i : Instr) : Bool :=
  match i with
  | .sorrelRegionLoad _ _ v => decide (1 ≤ v.toNat % 16 ∧ v.toNat % 16 ≤ 8)
  | .sorrelRegionRelease _ _ v => decide (v.toNat % 16 = 0)
  | .rangeEnable _ _ v => cmdBit v 0
  | .rangeDisable _ _ v => !cmdBit v 0
  | .armTimingChange _ v => decide (v ≠ 0)
  | .ethernetFrameReceive _ f => f.wf
  | .fabricRequestArrival p => p.wf
  | .fabricResponseReceive p => p.wf
  | .leaseGrantReceive p => p.wf
  | .recallNoticeReceive p => p.wf
  | .drainedReceive p => p.wf
  | .confirmReceive p => p.wf
  | .fabricRequestIssue r => r.wf
  | .c0MessageAdmit _ r => r.wf
  | .pcieInboundRequest _ r => r.wf
  | .mailboxResponse m _ => m.wf
  | .managementBusMessage _ m => m.wf
  | .getVersion m => m.wf
  | .getBootstat m => m.wf
  | .getRecords m _ _ => m.wf
  | .leave _ v => decide (v.toNat % 4 = 1)
  | .join _ v => decide (v.toNat % 4 = 2)
  | .armErrorInjection _ _ v => cmdBit v 0
  | .restartThread _ v => cmdBit v 9
  | .restartLinkEngine _ v => cmdBit v 6
  | .startThread _ _ v => cmdBit v 0
  | .liveRestart _ v => cmdBit v 0
  | .timerExpiry _ _ => true
  | _ => true

end Sys2Proof
end

