-- ==== Sys2Proof/Certificates/Slice0/Obligations.lean ====
section
/-! DEFINITION. The statements for the provers. -/

open Sys2Proof Sys2Proof.Machine Sys2Proof.Safety

/-! ### The block's step -/

/-- A step takes the command at the front of the queue and answers what its meaning answers on the state with the queue's
rest. On an empty queue it answers a next state that differs only in what the always-on clock counts: the time of records, the
time since the tick, the count of the zeroize wires, the counting timers, the pauses of PFC and the RTC; that a step on an empty
queue is one cycle of that clock is the model's choice (entry 1). -/
def Obligations.StepRunsFrontCommand : Prop :=
  (∀ (s : State) (c : Instr) (rest : List Instr), s.pending = c :: rest → step s = exec c { s with pending := rest }) ∧
  (∀ s : State, s.pending = [] → ∃ s', step s = .next s' ∧ s'.aoTime = s.aoTime + 1 ∧
    s'.tick.frameOff = s.tick.frameOff + 1 ∧ s'.pending = [] ∧
    { s'.tick with frameOff := s.tick.frameOff } = s.tick ∧ { s'.sec with zrun := s.sec.zrun } = s.sec ∧
    (∀ n, s'.group n = { s.group n with count := (s.group n).count.map (fun c => (c.1, c.2 - 15)) }) ∧
    (∀ p, { s'.port p with paused := (s.port p).paused } = s.port p) ∧ RegsBut s s' [Reg.off .ENL_RTC 0 0] ∧
    { s' with aoTime := s.aoTime, tick := s.tick, sec := s.sec, groups := s.groups, ports := s.ports, rtcAcc := s.rtcAcc,
              regs := s.regs } = s) ∧
  (∀ (s : State) (c : Instr), step (s.withCommand c) = exec c s)

/-! ### The AKZ threads -/

/-- A command of a thread that is at no commit point (halted, stopped, waiting, within an interrupt entry, its core asleep or off),
or whose fetch is gated (its TID held or its balance negative) and that takes no interrupt, leaves everything as it is: the
instruction has not reached commit (R102, R365; entry 8). -/
def Obligations.BlockedThreadExecutesNothing : Prop :=
  ∀ (t : Th) (rd rs1 rs2 : R5) (imm : BitVec 16) (off : BitVec 21) (code : BitVec 12) (dbl : Bool) (rm : Rm) (s : State),
    s.atCommit t.val = false ∨ (s.fetchGated t.val = true ∧ s.nextVec t.val false = none) →
    exec (.add t rd rs1 rs2) s = .next s ∧ exec (.addi t rd rs1 imm) s = .next s ∧ exec (.lw t rd rs1 imm) s = .next s ∧
    exec (.sw t rd rs1 imm) s = .next s ∧ exec (.beq t rs1 rs2 imm) s = .next s ∧ exec (.jal t rd off) s = .next s ∧
    exec (.aadd t dbl rd rs1 rs2) s = .next s ∧ exec (.stcond t dbl rd rs1 rs2) s = .next s ∧ exec (.fence t) s = .next s ∧
    exec (.fadd t dbl rm rd rs1 rs2) s = .next s ∧ exec (.csrrw t rd rs1 code) s = .next s ∧
    exec (.syscall t code) s = .next s ∧ exec (.tret t) s = .next s ∧ exec (.wfi t) s = .next s ∧
    exec (.tlbw t rd) s = .next s ∧ exec (.wstep t rd rs1 rs2) s = .next s

/-- Format R of the OP major opcode (R61, R62): what each operation leaves in rd, on AKZ64 and on AKZ32, with the tag that R112
gives it; g0 reads 0 and takes nothing; every other register, CSR and thread, and all memory, is as the fetch left it. -/
def Obligations.RegisterOperationsWriteResults : Prop :=
  ∀ (t : Th) (rd rs1 rs2 : R5) (s s1 : State), AtCommit s t s1 →
    let x := s1.thread t.val
    let a := x.reg rs1.val
    let b := x.reg rs2.val
    let a' : BitVec 32 := a.setWidth 32
    let b' : BitVec 32 := b.setWidth 32
    let y := x.yarrow || x.regY rs1.val || x.regY rs2.val
    let does := fun (i : Instr) (v : Word) (v' : BitVec 32) =>
      WritesReg i s s1 t.val rd.val (if akz32 t.val then v'.setWidth 64 else v) y
    does (.add t rd rs1 rs2) (a + b) (a' + b') ∧
    does (.sub t rd rs1 rs2) (a - b) (a' - b') ∧
    does (.and t rd rs1 rs2) (a &&& b) (a' &&& b') ∧
    does (.or t rd rs1 rs2) (a ||| b) (a' ||| b') ∧
    does (.xor t rd rs1 rs2) (a ^^^ b) (a' ^^^ b') ∧
    does (.sll t rd rs1 rs2) (a <<< (b.toNat % 64)) (a' <<< (b.toNat % 32)) ∧
    does (.srl t rd rs1 rs2) (a >>> (b.toNat % 64)) (a' >>> (b.toNat % 32)) ∧
    does (.sra t rd rs1 rs2) (a.sshiftRight (b.toNat % 64)) (a'.sshiftRight (b.toNat % 32)) ∧
    does (.slt t rd rs1 rs2) (if a.slt b then 1 else 0) (if a'.slt b' then 1 else 0) ∧
    does (.sltu t rd rs1 rs2) (if a.ult b then 1 else 0) (if a'.ult b' then 1 else 0) ∧
    does (.seq t rd rs1 rs2) (if a = b then 1 else 0) (if a' = b' then 1 else 0) ∧
    does (.sne t rd rs1 rs2) (if a = b then 0 else 1) (if a' = b' then 0 else 1) ∧
    does (.mul t rd rs1 rs2) (a * b) (a' * b') ∧
    does (.mulh t rd rs1 rs2) (((a.signExtend 128 * b.signExtend 128) >>> 64).setWidth 64)
      (((a'.signExtend 64 * b'.signExtend 64) >>> 32).setWidth 32) ∧
    does (.mulhu t rd rs1 rs2) (((a.setWidth 128 * b.setWidth 128) >>> 64).setWidth 64)
      (((a'.setWidth 64 * b'.setWidth 64) >>> 32).setWidth 32) ∧
    does (.mulhsu t rd rs1 rs2) (((a.signExtend 128 * b.setWidth 128) >>> 64).setWidth 64)
      (((a'.signExtend 64 * b'.setWidth 64) >>> 32).setWidth 32)

/-- The word forms of OP (R61, R62): on AKZ64 they work on bits [31:0] and sign-extend; on AKZ32 each is a reserved function
code, which traps with XTF_INFO 1 and its word (R92, R93). -/
def Obligations.WordFormsSignExtendOrTrap : Prop :=
  ∀ (t : Th) (rd rs1 rs2 : R5) (s s1 : State), AtCommit s t s1 →
    let x := s1.thread t.val
    let a' : BitVec 32 := (x.reg rs1.val).setWidth 32
    let b' : BitVec 32 := (x.reg rs2.val).setWidth 32
    let n := b'.toNat % 32
    let y := x.yarrow || x.regY rs1.val || x.regY rs2.val
    let does := fun (i : Instr) (funct : Nat) (v : BitVec 32) =>
      (akz32 t.val = false → WritesReg i s s1 t.val rd.val (v.signExtend 64) y) ∧
      (akz32 t.val = true → TakesTrap i s s1 t.val 0x01 (wordR 0x01 rd rs1 rs2 funct) 0 1)
    does (.addw t rd rs1 rs2) 0x100 (a' + b') ∧
    does (.subw t rd rs1 rs2) 0x101 (a' - b') ∧
    does (.sllw t rd rs1 rs2) 0x105 (a' <<< n) ∧
    does (.srlw t rd rs1 rs2) 0x106 (a' >>> n) ∧
    does (.sraw t rd rs1 rs2) 0x107 (a'.sshiftRight n) ∧
    does (.mulw t rd rs1 rs2) 0x110 (a' * b') ∧
    does (.divw t rd rs1 rs2) 0x118
      (if b' = 0 then (if a'.slt 0 then BitVec.intMin 32 else BitVec.intMax 32)
       else if a' = BitVec.intMin 32 ∧ b' = BitVec.allOnes 32 then BitVec.intMax 32 else a'.sdiv b') ∧
    does (.divuw t rd rs1 rs2) 0x119 (if b' = 0 then BitVec.allOnes 32 else a' / b') ∧
    does (.remw t rd rs1 rs2) 0x11A
      (if b' = 0 then a' else if a' = BitVec.intMin 32 ∧ b' = BitVec.allOnes 32 then BitVec.allOnes 32 else a'.srem b') ∧
    does (.remuw t rd rs1 rs2) 0x11B (if b' = 0 then a' else a' % b')

/-- R63: the divides truncate toward zero, the remainder has the sign of the dividend, and the four cases of the table are
settled as it says; no divide traps. -/
def Obligations.DividesSaturate : Prop :=
  ∀ (t : Th) (rd rs1 rs2 : R5) (s s1 : State), AtCommit s t s1 →
    let x := s1.thread t.val
    let a := x.reg rs1.val
    let b := x.reg rs2.val
    let y := x.yarrow || x.regY rs1.val || x.regY rs2.val
    let quot := fun (w : Nat) (p q : BitVec w) =>
      if q = 0 then (if p.slt 0 then BitVec.intMin w else BitVec.intMax w)
      else if p = BitVec.intMin w ∧ q = BitVec.allOnes w then BitVec.intMax w else p.sdiv q
    let rem := fun (w : Nat) (p q : BitVec w) =>
      if q = 0 then p else if p = BitVec.intMin w ∧ q = BitVec.allOnes w then BitVec.allOnes w else p.srem q
    let quotU := fun (w : Nat) (p q : BitVec w) => if q = 0 then BitVec.allOnes w else p / q
    let remU := fun (w : Nat) (p q : BitVec w) => if q = 0 then p else p % q
    let wide := fun (f : (w : Nat) → BitVec w → BitVec w → BitVec w) =>
      if akz32 t.val then (f 32 (a.setWidth 32) (b.setWidth 32)).setWidth 64 else f 64 a b
    let word := fun (f : (w : Nat) → BitVec w → BitVec w → BitVec w) => (f 32 (a.setWidth 32) (b.setWidth 32)).signExtend 64
    WritesReg (.div t rd rs1 rs2) s s1 t.val rd.val (wide quot) y ∧
    WritesReg (.divu t rd rs1 rs2) s s1 t.val rd.val (wide quotU) y ∧
    WritesReg (.rem t rd rs1 rs2) s s1 t.val rd.val (wide rem) y ∧
    WritesReg (.remu t rd rs1 rs2) s s1 t.val rd.val (wide remU) y ∧
    (akz32 t.val = false →
      WritesReg (.divw t rd rs1 rs2) s s1 t.val rd.val (word quot) y ∧
      WritesReg (.divuw t rd rs1 rs2) s s1 t.val rd.val (word quotU) y ∧
      WritesReg (.remw t rd rs1 rs2) s s1 t.val rd.val (word rem) y ∧
      WritesReg (.remuw t rd rs1 rs2) s s1 t.val rd.val (word remU) y)

/-- The immediate instructions (R65): results with the sign-extended immediate, LUI, AUIPC, and the shifts by an immediate with
their reserved forms: the word form and shamt [5] on AKZ32, and shamt [5] in a word form, trap (R92, R93). -/
def Obligations.ImmediateOperationsWriteResults : Prop :=
  ∀ (t : Th) (rd rs1 : R5) (imm : BitVec 16) (up : BitVec 21) (sh : BitVec 6) (s s1 : State), AtCommit s t s1 →
    let x := s1.thread t.val
    let a := x.reg rs1.val
    let a' : BitVec 32 := a.setWidth 32
    let n : Word := imm.signExtend 64
    let n' : BitVec 32 := imm.signExtend 32
    let y := x.yarrow || x.regY rs1.val
    let does := fun (i : Instr) (v : Word) (v' : BitVec 32) (y : Bool) =>
      WritesReg i s s1 t.val rd.val (if akz32 t.val then v'.setWidth 64 else v) y
    does (.addi t rd rs1 imm) (a + n) (a' + n') y ∧
    does (.andi t rd rs1 imm) (a &&& n) (a' &&& n') y ∧
    does (.ori t rd rs1 imm) (a ||| n) (a' ||| n') y ∧
    does (.xori t rd rs1 imm) (a ^^^ n) (a' ^^^ n') y ∧
    does (.slti t rd rs1 imm) (if a.slt n then 1 else 0) (if a'.slt n' then 1 else 0) y ∧
    does (.sltiu t rd rs1 imm) (if a.ult n then 1 else 0) (if a'.ult n' then 1 else 0) y ∧
    does (.lui t rd up) (up.signExtend 64 <<< 16) (up.signExtend 32 <<< 16) x.yarrow ∧
    does (.auipc t rd up) (x.pc + up.signExtend 64 <<< 16) (x.pc.setWidth 32 + up.signExtend 32 <<< 16) x.yarrow ∧
    (sh.toNat < 32 ∨ akz32 t.val = false →
      does (.slli t false rd rs1 sh) (a <<< sh.toNat) (a' <<< sh.toNat) y ∧
      does (.srli t false rd rs1 sh) (a >>> sh.toNat) (a' >>> sh.toNat) y ∧
      does (.srai t false rd rs1 sh) (a.sshiftRight sh.toNat) (a'.sshiftRight sh.toNat) y) ∧
    (akz32 t.val = false → sh.toNat < 32 →
      WritesReg (.slli t true rd rs1 sh) s s1 t.val rd.val ((a' <<< sh.toNat).signExtend 64) y ∧
      WritesReg (.srli t true rd rs1 sh) s s1 t.val rd.val ((a' >>> sh.toNat).signExtend 64) y ∧
      WritesReg (.srai t true rd rs1 sh) s s1 t.val rd.val ((a'.sshiftRight sh.toNat).signExtend 64) y) ∧
    (akz32 t.val = true →
      TakesTrap (.slli t true rd rs1 sh) s s1 t.val 0x01 (wordSH rd rs1 0 true sh) 0 1 ∧
      TakesTrap (.srli t true rd rs1 sh) s s1 t.val 0x01 (wordSH rd rs1 1 true sh) 0 1 ∧
      TakesTrap (.srai t true rd rs1 sh) s s1 t.val 0x01 (wordSH rd rs1 2 true sh) 0 1) ∧
    (32 ≤ sh.toNat →
      let w := !akz32 t.val
      TakesTrap (.slli t w rd rs1 sh) s s1 t.val 0x01 (wordSH rd rs1 0 w sh) 0 3 ∧
      TakesTrap (.srli t w rd rs1 sh) s s1 t.val 0x01 (wordSH rd rs1 1 w sh) 0 3 ∧
      TakesTrap (.srai t w rd rs1 sh) s s1 t.val 0x01 (wordSH rd rs1 2 w sh) 0 3)

/-- The compare-and-branch instructions (R57, R66, R105, R106, R111): where the condition holds execution goes on at the branch's
address + 4 × offset, otherwise at the next instruction; no register of the thread changes. Only where the direction was predicted
wrong is a wrong path squashed; AKZ32 predicts none, and a Sorrel thread runs none. -/
def Obligations.BranchesGoWhereConditionSays : Prop :=
  ∀ (t : Th) (rs1 rs2 : R5) (off : BitVec 16) (imm : BitVec 10) (offI : BitVec 11) (s s1 : State), AtCommit s t s1 →
    let x := s1.thread t.val
    let wide := fun (v : Word) => if akz32 t.val then (v.setWidth 32).signExtend 64 else v
    let zero := fun (v : Word) => if akz32 t.val then (v.setWidth 32).setWidth 64 else v
    let a := x.reg rs1.val
    let b := x.reg rs2.val
    let n : Word := imm.signExtend 64
    let u : Word := imm.setWidth 64
    let word := x.pc.toNat / 4 % 4096
    let goes := fun (i : Instr) (c : Bool) (o : Word) =>
      GoesTo i s s1 t.val word (akz32 t.val || s1.sorrel t.val || (predicted s1 t.val word).predictDir t.val == c)
        (if c then x.pc + o * 4 else x.pc + 4)
    let o : Word := off.signExtend 64
    let oI : Word := offI.signExtend 64
    goes (.beq t rs1 rs2 off) (zero a == zero b) o ∧
    goes (.bne t rs1 rs2 off) (zero a != zero b) o ∧
    goes (.blt t rs1 rs2 off) ((wide a).slt (wide b)) o ∧
    goes (.bge t rs1 rs2 off) (!(wide a).slt (wide b)) o ∧
    goes (.bltu t rs1 rs2 off) ((zero a).ult (zero b)) o ∧
    goes (.bgeu t rs1 rs2 off) (!(zero a).ult (zero b)) o ∧
    goes (.beqi t rs1 imm offI) (zero a == zero n) oI ∧
    goes (.bnei t rs1 imm offI) (zero a != zero n) oI ∧
    goes (.blti t rs1 imm offI) ((wide a).slt n) oI ∧
    goes (.bgei t rs1 imm offI) (!(wide a).slt n) oI ∧
    goes (.bltui t rs1 imm offI) ((zero a).ult u) oI ∧
    goes (.bgeui t rs1 imm offI) (!(zero a).ult u) oI

/-- JAL and JALR (R57, R66, R105, R106, R111): rd takes the address after the jump, and execution goes on at the target; only a JALR
whose target was predicted wrong squashes a wrong path; one whose target has bits [1:0] not zero takes ALIGNMENT with the target
as its address, and rd keeps its value. -/
def Obligations.JumpsLinkAndGo : Prop :=
  ∀ (t : Th) (rd rs1 : R5) (off : BitVec 21) (imm : BitVec 16) (s s1 : State), AtCommit s t s1 →
    let x := s1.thread t.val
    let link := cutTo t.val (x.pc + 4)
    let target := cutTo t.val (x.reg rs1.val + imm.signExtend 64)
    let p := predicted s1 t.val (4096 + (Config.pathHash x.hist).val)
    let right := akz32 t.val || !(p.predictTarget t.val (rd.val == 0)).any (fun q => q != target)
    (let b := fetchedBy s1 t.val
      ∃ s', exec (.jal t rd off) s = .next s' ∧ RegTakes b s' t.val rd.val link x.yarrow ∧
        CommittedAt b s' t.val (x.pc + off.signExtend 64 * 4) [] ∧ SameF b s' t.val ∧ OnlyThread b s' t.val) ∧
    (target.toNat % 4 = 0 →
      let b := fetchedBy p t.val
      ∃ s', exec (.jalr t rd rs1 imm) s = .next s' ∧ RegTakes b s' t.val rd.val link (x.yarrow || x.regY rs1.val) ∧
        CommittedAt b (s'.setThread t.val { s'.thread t.val with ahead := (b.thread t.val).ahead }) t.val target [0x203] ∧
        SameF b s' t.val ∧ OnlyPredictor b s' t.val ∧ (right = true → NoSquash b s' t.val)) ∧
    (target.toNat % 4 ≠ 0 → TakesTrap (.jalr t rd rs1 imm) s s1 t.val 0x03 (wordI 0x1F rd rs1 imm) target 0)

/-! ### Loads, stores and atomics -/

/-- Loads (R52, R67, R83, R112): where translation and the checks of R99 give the pieces of the access, all in memory, and the
read gives v without poison, rd takes the loaded value extended as its mnemonic says, and nothing else changes beyond what
the access itself did. A load from a control register of AKZ64 takes the register's value. -/
def Obligations.LoadsWriteRegister : Prop :=
  ∀ (t : Th) (rd rs1 : R5) (imm : BitVec 16) (s s1 s2 s3 : State) (ps : List Piece) (v : Nat), AtCommit s t s1 →
    let x := s1.thread t.val
    let va := cutTo t.val (x.reg rs1.val + imm.signExtend 64)
    let tagged := x.yarrow || x.regY rs1.val
    let y := x.yarrow || (x.regY rs1.val || ps.any (fun p => p.xl.y))
    let got := fun (maj size : Nat) (strict : Bool) =>
      s1.front t.val (wordI maj rd rs1 imm) va size .load true false strict anySpace = (some ps, s2) ∧
      ps.all (fun p => inMemory p.tgt) = true ∧ s2.readPieces t.val false ps = (.inr (v, false), s3)
    let does := fun (i : Instr) (maj size : Nat) (r : Word) =>
      got maj size false → WritesReg i s (s3.used t.val ps tagged) t.val rd.val (cutTo t.val r) y
    does (.lb t rd rs1 imm) 0x0C 1 ((BitVec.ofNat 8 v).signExtend 64) ∧
    does (.lh t rd rs1 imm) 0x0D 2 ((BitVec.ofNat 16 v).signExtend 64) ∧
    does (.lw t rd rs1 imm) 0x0E 4 ((BitVec.ofNat 32 v).signExtend 64) ∧
    does (.lbu t rd rs1 imm) 0x10 1 ((BitVec.ofNat 8 v).setWidth 64) ∧
    does (.lhu t rd rs1 imm) 0x11 2 ((BitVec.ofNat 16 v).setWidth 64) ∧
    (akz32 t.val = false →
      does (.ld t rd rs1 imm) 0x0F 8 (BitVec.ofNat 64 v) ∧
      does (.lwu t rd rs1 imm) 0x12 4 ((BitVec.ofNat 32 v).setWidth 64) ∧
      (got 0x28 4 true → WritesFreg (.flw t rd rs1 imm) s (s3.used t.val ps tagged) t.val rd.val false
        ((BitVec.ofNat 32 v).setWidth 64) y 0) ∧
      (got 0x29 8 true → WritesFreg (.fld t rd rs1 imm) s (s3.used t.val ps tagged) t.val rd.val true (BitVec.ofNat 64 v) y 0) ∧
      (∀ off pva n k xl w s4, pcieSpace off = false →
        s1.front t.val (wordI 0x0F rd rs1 imm) va 8 .load true false false anySpace = (some [⟨pva, n, k, .ctl off, xl⟩], s2) →
        (s2.noteUses t.val [⟨pva, n, k, .ctl off, xl⟩]).ctlRead (masterOf t.val) off false = (.data w false, s4) →
        WritesReg (.ld t rd rs1 imm) s s4 t.val rd.val w (x.yarrow || (x.regY rs1.val || xl.y))))

/-- Stores (R67, R72, R74, R83): where the checks of R99 give the pieces of the access, all in memory, and they are written, the
instruction commits and changes no register. A store to a control register commits, and then the write of the register
takes place with the value of rs2. The majors AKZ64 alone has are reserved on AKZ32 (R60). -/
def Obligations.StoresWriteMemory : Prop :=
  ∀ (t : Th) (rs2 rs1 : R5) (imm : BitVec 16) (s s1 s2 s3 : State) (ps : List Piece), AtCommit s t s1 →
    let x := s1.thread t.val
    let va := cutTo t.val (x.reg rs1.val + imm.signExtend 64)
    let tagged := x.yarrow || x.regY rs1.val
    let put := fun (maj size : Nat) (strict : Bool) (v : Word) =>
      s1.front t.val (wordI maj rs2 rs1 imm) va size .store false true strict anySpace = (some ps, s2) ∧
      ps.all (fun p => inMemory p.tgt) = true ∧ s2.storePieces t.val v ps = (none, s3)
    let does := fun (i : Instr) (maj size : Nat) (strict : Bool) (v : Word) =>
      put maj size strict v → WritesReg i s (s3.used t.val ps tagged) t.val 0 0 false
    let v := x.reg rs2.val
    does (.sb t rs2 rs1 imm) 0x14 1 false v ∧
    does (.sh t rs2 rs1 imm) 0x15 2 false v ∧
    does (.sw t rs2 rs1 imm) 0x16 4 false v ∧
    (akz32 t.val = false →
      does (.sd t rs2 rs1 imm) 0x17 8 false v ∧
      does (.fsw t rs2 rs1 imm) 0x2A 4 true (x.freg rs2.val) ∧
      does (.fsd t rs2 rs1 imm) 0x2B 8 true (x.freg rs2.val) ∧
      (∀ off pva n k xl, pcieSpace off = false →
        s1.front t.val (wordI 0x17 rs2 rs1 imm) va 8 .store false true false anySpace = (some [⟨pva, n, k, .ctl off, xl⟩], s2) →
        exec (.sd t rs2 rs1 imm) s = .next (((s2.noteUses t.val [⟨pva, n, k, .ctl off, xl⟩]).retire t.val id).ctlWrite
          (masterOf t.val) off v))) ∧
    (akz32 t.val = true →
      TakesTrap (.sd t rs2 rs1 imm) s s1 t.val 0x01 (wordI 0x17 rs2 rs1 imm) 0 2 ∧
      TakesTrap (.fsw t rs2 rs1 imm) s s1 t.val 0x01 (wordI 0x2A rs2 rs1 imm) 0 2 ∧
      TakesTrap (.fsd t rs2 rs1 imm) s s1 t.val 0x01 (wordI 0x2B rs2 rs1 imm) 0 2)

/-- The RAM of a pair (R67, R68, R449): a byte, half-word or word store puts the low bytes of rs2 at the address, aligned or
not, and no other byte of either pair's RAM, nor any other memory or register, changes; a load of the same kinds gives the
bytes, sign- or zero-extended. -/
def Obligations.PairRamHoldsWhatIsStored : Prop :=
  ∀ (t : Th) (rd rs1 : R5) (imm : BitVec 16) (s s1 : State), AtCommit s t s1 → akz32 t.val = true → ArraysClean s1 →
    let x := s1.thread t.val
    let va := cutTo t.val (x.reg rs1.val + imm.signExtend 64)
    let b := fetchedBy s1 t.val
    let o := va.toNat - 0x10_0000
    let fits := fun n => 0x10_0000 ≤ va.toNat ∧ va.toNat + n ≤ (if t.val = 512 then 0x30_0000 else 0x20_0000)
    let stores := fun (i : Instr) (n : Nat) => fits n → ∃ s', exec i s = .next s' ∧
      (∀ k, ramByte s' t.val k = if o ≤ k ∧ k < o + n then (x.reg rd.val).toNat / 2 ^ (8 * (k - o)) % 256 else ramByte s1 t.val k) ∧
      (∀ k, ramByte s' (1025 - t.val) k = ramByte s1 (1025 - t.val) k) ∧
      { s' with threads := b.threads, ledger := b.ledger, kram := b.kram, cram := b.cram } = b ∧
      RegTakes b s' t.val 0 0 false ∧ (s'.thread t.val).pc = cutTo t.val (x.pc + 4)
    let loads := fun (i : Instr) (n : Nat) (r : BitVec 32 → Word) => fits n →
      ∃ v : BitVec 32, v.toNat < 2 ^ (8 * n) ∧ (∀ k, k < n → v.toNat / 2 ^ (8 * k) % 256 = ramByte s1 t.val (o + k)) ∧
        WritesReg i s (s1.noteUses t.val []) t.val rd.val (r v) (x.yarrow || x.regY rs1.val)
    stores (.sb t rd rs1 imm) 1 ∧ stores (.sh t rd rs1 imm) 2 ∧ stores (.sw t rd rs1 imm) 4 ∧
    loads (.lbu t rd rs1 imm) 1 (fun v => v.setWidth 64) ∧
    loads (.lhu t rd rs1 imm) 2 (fun v => v.setWidth 64) ∧
    loads (.lw t rd rs1 imm) 4 (fun v => v.setWidth 64) ∧
    loads (.lb t rd rs1 imm) 1 (fun v => (((v.setWidth 8).signExtend 32).setWidth 64)) ∧
    loads (.lh t rd rs1 imm) 2 (fun v => (((v.setWidth 16).signExtend 32).setWidth 64))

/-- Local memory in a core's own L2 (R67, R71, R236): a compute thread at H without H translation that stores to a granule its
core holds in state E or M and no other core has locked, in an access within one 64-byte line, leaves the bytes of rs2 there; no byte of any other L2
line, no LLC line, no directory entry and no memory word changes; and a load of that granule gives the bytes. The same of the f
registers (R68, R83) and of the atomics at the address in rs1 (R75, R77, R78), aligned: rd takes the old value and the bytes are those
of the result; LDRES sets the reservation, under which STCOND stores. -/
def Obligations.OwnedLineHoldsWhatIsStored : Prop :=
  ∀ (t : Th) (dbl : Bool) (rd rs1 rs2 : R5) (imm : BitVec 16) (s s1 : State), AtCommit s t s1 → akz32 t.val = false → ArraysClean s1 →
    let x := s1.thread t.val
    let va := x.reg rs1.val + imm.signExtend 64
    let a := localOf va
    let c := coreOf t.val
    let owned := fun (n : Nat) => x.ctx = .bare ∧ va.toNat % 64 + n ≤ 64 ∧ (∃ l, s1.space va = .mem a l) ∧
      (∃ w e, s1.l2Find c (a / 64) = some (w, e) ∧ e.poison = false) ∧
      (∃ p w g pin, s1.dirFind a = some (p, w, ⟨g, .e c, pin⟩)) ∧
      a % 64 = va.toNat % 64 ∧ s1.lockedElse c a = false
    let quiet := fun (s' : State) => (s'.thread t.val).pc = x.pc + 4 ∧
      { s' with threads := s1.threads, ledger := s1.ledger, cores := s1.cores } = s1
    let holds := fun (s' : State) (n : Nat) (v : Word) =>
      (∀ b, b / 64 = a / 64 → l2Byte s' c b = if a ≤ b ∧ b < a + n then some (v.toNat / 2 ^ (8 * (b - a)) % 256) else l2Byte s1 c b) ∧
      (∀ c' b, c' ≠ c ∨ b / 64 ≠ a / 64 → l2Byte s' c' b = l2Byte s1 c' b)
    let bytes := fun (n : Nat) (v : Word) =>
      v.toNat < 2 ^ (8 * n) ∧ ∀ k, k < n → some (v.toNat / 2 ^ (8 * k) % 256) = l2Byte s1 c (a + k)
    let stores := fun (i : Instr) (n : Nat) (v : Word) => owned n → ∃ s', exec i s = .next s' ∧
      holds s' n v ∧ RegTakes s1 s' t.val 0 0 false ∧ quiet s'
    let y := x.yarrow || x.regY rs1.val
    let loads := fun (i : Instr) (n : Nat) (r : Word → Word) => owned n → ∃ v, bytes n v ∧
      ∃ s', exec i s = .next s' ∧ RegTakes s1 s' t.val rd.val (r v) y ∧ quiet s'
    let aligned := fun (n : Nat) => va.toNat % n = 0
    let fills := fun (i : Instr) (n : Nat) => aligned n → owned n → ∃ v, bytes n v ∧
      ∃ s', exec i s = .next s' ∧ FregTakes s1 s' t.val rd.val (decide (n = 8)) v y 0 ∧ quiet s'
    let n := if dbl then 8 else 4
    let ext := fun (v : Word) => if dbl then v else (v.setWidth 32).signExtend 64
    let cut := fun (v : Word) => if dbl then v else (v.setWidth 32).setWidth 64
    let v := x.reg rs2.val
    let atomic := fun (i : Instr) (r : Word → Word) => imm = 0 → aligned n → owned n → ∃ w, bytes n w ∧
      ∃ s', exec i s = .next s' ∧ RegTakes s1 s' t.val rd.val (ext w) (x.yarrow || (x.regY rs1.val || x.regY rs2.val)) ∧
        holds s' n (r (ext w)) ∧ quiet s'
    stores (.sb t rd rs1 imm) 1 (x.reg rd.val) ∧ stores (.sh t rd rs1 imm) 2 (x.reg rd.val) ∧
    stores (.sw t rd rs1 imm) 4 (x.reg rd.val) ∧ stores (.sd t rd rs1 imm) 8 (x.reg rd.val) ∧
    loads (.lbu t rd rs1 imm) 1 id ∧ loads (.lhu t rd rs1 imm) 2 id ∧ loads (.lwu t rd rs1 imm) 4 id ∧
    loads (.ld t rd rs1 imm) 8 id ∧
    loads (.lb t rd rs1 imm) 1 (fun v => (v.setWidth 8).signExtend 64) ∧
    loads (.lh t rd rs1 imm) 2 (fun v => (v.setWidth 16).signExtend 64) ∧
    loads (.lw t rd rs1 imm) 4 (fun v => (v.setWidth 32).signExtend 64) ∧
    fills (.flw t rd rs1 imm) 4 ∧ fills (.fld t rd rs1 imm) 8 ∧
    (aligned 4 → stores (.fsw t rd rs1 imm) 4 (x.freg rd.val)) ∧ (aligned 8 → stores (.fsd t rd rs1 imm) 8 (x.freg rd.val)) ∧
    atomic (.aswap t dbl rd rs1 rs2) (fun _ => v) ∧ atomic (.aadd t dbl rd rs1 rs2) (fun o => o + v) ∧
    atomic (.aand t dbl rd rs1 rs2) (fun o => o &&& v) ∧ atomic (.aor t dbl rd rs1 rs2) (fun o => o ||| v) ∧
    atomic (.axor t dbl rd rs1 rs2) (fun o => o ^^^ v) ∧
    atomic (.amin t dbl rd rs1 rs2) (fun o => if o.sle (ext v) then o else v) ∧
    atomic (.amax t dbl rd rs1 rs2) (fun o => if o.sle (ext v) then v else o) ∧
    atomic (.aminu t dbl rd rs1 rs2) (fun o => if (cut o).ule (cut v) then o else v) ∧
    atomic (.amaxu t dbl rd rs1 rs2) (fun o => if (cut o).ule (cut v) then v else o) ∧
    (imm = 0 → aligned n → owned n →
      (∃ w, bytes n w ∧ ∃ s', exec (.ldres t dbl rd rs1) s = .next s' ∧ RegTakes s1 s' t.val rd.val (ext w) y ∧
        (s'.thread t.val).resv = some (a / 64) ∧ (s'.thread t.val).hold = true ∧ quiet s') ∧
      (∃ s', exec (.stcond t dbl rd rs1 rs2) s = .next s' ∧ (s'.thread t.val).resv = none ∧ quiet s' ∧
        (x.resv = some (a / 64) → RegTakes s1 s' t.val rd.val 1 (x.yarrow || (x.regY rs1.val || x.regY rs2.val)) ∧ holds s' n v) ∧
        (x.resv ≠ some (a / 64) → RegTakes s1 s' t.val rd.val 0 (x.yarrow || (x.regY rs1.val || x.regY rs2.val)) ∧
          s'.cores = (fetchedBy s1 t.val).cores)))

/-- The fetch-and-ops (R75, R77): where the access is in memory and reads and writes without a fault, rd takes the old value,
sign-extended for a word, and memory the result of the operation. -/
def Obligations.FetchAndOpsReadAndWrite : Prop :=
  ∀ (t : Th) (dbl : Bool) (rd rs1 rs2 : R5) (s s1 s2 s3 s4 : State) (p : Piece) (old : Nat), AtCommit s t s1 →
    (dbl && akz32 t.val) = false →
    let x := s1.thread t.val
    let tagged := x.yarrow || x.regY rs1.val
    let n := if dbl then 8 else 4
    let v : Word := x.reg rs2.val
    let o : Word := if dbl then BitVec.ofNat 64 old else (BitVec.ofNat 32 old).signExtend 64
    let v' : Word := if dbl then v else (v.setWidth 32).signExtend 64
    let cut := fun (w : Word) => if dbl then w else (w.setWidth 32).setWidth 64
    let does := fun (i : Instr) (op : Nat) (r : Word) =>
      s1.front t.val (wordAtom op dbl rd rs1 rs2) (x.reg rs1.val) n .atomic true true true noControl = (some [p], s2) →
      inMemory p.tgt = true → s2.readPiece t.val p true = (.inr (old, false), s3) →
      s3.writePiece t.val p (cut r) = (none, s4) →
      WritesReg i s (s4.used t.val [p] tagged) t.val rd.val (cutTo t.val o) (x.yarrow || (x.regY rs1.val || x.regY rs2.val || p.xl.y))
    does (.aswap t dbl rd rs1 rs2) 0x2 v ∧
    does (.aadd t dbl rd rs1 rs2) 0x3 (o + v) ∧
    does (.aand t dbl rd rs1 rs2) 0x4 (o &&& v) ∧
    does (.aor t dbl rd rs1 rs2) 0x5 (o ||| v) ∧
    does (.axor t dbl rd rs1 rs2) 0x6 (o ^^^ v) ∧
    does (.amin t dbl rd rs1 rs2) 0x7 (if o.sle v' then o else v) ∧
    does (.amax t dbl rd rs1 rs2) 0x8 (if o.sle v' then v else o) ∧
    does (.aminu t dbl rd rs1 rs2) 0x9 (if (cut o).ule (cut v) then o else v) ∧
    does (.amaxu t dbl rd rs1 rs2) 0xA (if (cut o).ule (cut v) then v else o)

/-- LDRES and STCOND (R75, R77, R78), and the end of a hold: LDRES gives the value, sets the reservation on the granule and
starts its hold; STCOND stores and gives 1 where the reservation covers the address, otherwise stores nothing and gives 0, and
the reservation is then clear; the hold's expiry leaves the reservation. -/
def Obligations.ReservationsDecideStoreConditional : Prop :=
  ∀ (t : Th) (dbl : Bool) (rd rs1 rs2 : R5) (s s1 s2 s3 : State) (p : Piece) (v : Nat), AtCommit s t s1 →
    (dbl && akz32 t.val) = false →
    let x := s1.thread t.val
    let tagged := x.yarrow || x.regY rs1.val
    let n := if dbl then 8 else 4
    let o : Word := if dbl then BitVec.ofNat 64 v else (BitVec.ofNat 32 v).signExtend 64
    let reserved := (s2.thread t.val).resv = some (p.tgt.gran t.val)
    (s1.front t.val (wordAtom 0x0 dbl rd rs1 0) (x.reg rs1.val) n .atomic true false true onlyLocal = (some [p], s2) →
      s2.readPiece t.val p true = (.inr (v, false), s3) →
      let b := fetchedBy (s3.used t.val [p] tagged) t.val
      ∃ s', exec (.ldres t dbl rd rs1) s = .next s' ∧
        RegTakes b s' t.val rd.val (cutTo t.val o) (x.yarrow || (x.regY rs1.val || p.xl.y)) ∧
        CommittedWithResv b s' t.val (some (p.tgt.gran t.val)) true) ∧
    (s1.front t.val (wordAtom 0x1 dbl rd rs1 rs2) (x.reg rs1.val) n .atomic false true true onlyLocal = (some [p], s2) →
      (reserved → s2.writePiece t.val p (x.reg rs2.val) = (none, s3) →
        let b := fetchedBy (s3.used t.val [p] tagged) t.val
        ∃ s', exec (.stcond t dbl rd rs1 rs2) s = .next s' ∧
          RegTakes b s' t.val rd.val 1 (x.yarrow || (x.regY rs1.val || x.regY rs2.val)) ∧
          CommittedWithResv b s' t.val none false) ∧
      (¬reserved →
        let b := fetchedBy (s2.noteUses t.val [p]) t.val
        ∃ s', exec (.stcond t dbl rd rs1 rs2) s = .next s' ∧
          RegTakes b s' t.val rd.val 0 (x.yarrow || (x.regY rs1.val || x.regY rs2.val)) ∧
          CommittedWithResv b s' t.val none false)) ∧
    (∃ s', exec (.reservationHoldExpiry t) s = .next s' ∧ (s'.thread t.val).hold = false ∧
      { s'.thread t.val with hold := (s.thread t.val).hold } = s.thread t.val ∧ OnlyThread s s' t.val)

/-- The fences and IFLUSH (R74, R79): FENCE commits; FENCE.F, which goes on when the thread has no fabric access outstanding,
commits or takes FABRIC-STORE-FAILED with the address and reason of the first failed store, whose record is then clear; IFLUSH and
IFLUSH.A discard the words the thread has fetched from the line, from every line, and the line leaves L1I; an address without a
translation names no line, and all of L1I goes, which is the model's choice (entry 112). No register and no memory changes. -/
def Obligations.FencesAndFlushesCommit : Prop :=
  ∀ (t : Th) (rs1 : R5) (s s1 : State), AtCommit s t s1 →
    let x := s1.thread t.val
    let c := coreOf t.val
    let b := fetchedBy s1 t.val
    let va := cutTo t.val (x.reg rs1.val)
    let flushes := fun (i : Instr) (fetched : List Nat) (l1i : SMap (CSet Nat) → SMap (CSet Nat)) =>
      ∃ s', exec i s = .next s' ∧ (s'.thread t.val).fetched = fetched ∧
        CommittedAt b (s'.setThread t.val { s'.thread t.val with fetched := x.fetched }) t.val (x.pc + 4) [] ∧
        RegTakes b s' t.val 0 0 false ∧ SameFp b s' t.val ∧ (∀ u, u ≠ t.val → s'.thread u = b.thread u) ∧
        { s' with threads := b.threads, ledger := b.ledger, cores := b.cores } = b ∧
        s'.core c = { b.core c with l1i := l1i (b.core c).l1i } ∧ (∀ d, d ≠ c → s'.core d = b.core d)
    WritesReg (.fence t) s s1 t.val 0 0 false ∧
    (s1.fabricBusy t.val = false →
      (x.storeFail = none → WritesReg (.fenceF t) s s1 t.val 0 0 false) ∧
      (∀ a why, x.storeFail = some (a, why) →
        ∃ s', exec (.fenceF t) s = .next s' ∧
          TrapTaken (s1.setThread t.val { x with storeFail := none }) s' t.val 0x0C (word 0x27 0 0 1) a (BitVec.ofNat 64 why.toNat) ∧
          (x.intrap false = false → x.intrap true = false → (s'.thread t.val).storeFail = none))) ∧
    flushes (.iflushA t) [] (fun l => if akz32 t.val then l else []) ∧
    (akz32 t.val = true → flushes (.iflush t rs1) (x.fetched.erase (va.toNat / 64)) id) ∧
    (akz32 t.val = false →
      (∀ ga : Word, (x.ctx = .bare ∧ ga = va) ∨ (x.ctx ≠ .bare ∧ ∃ h, (s1.core c).tlbFind x va = some h ∧ ga = h.2.2.global va) →
        flushes (.iflush t rs1) (x.fetched.erase (ga.toNat / 64))
          (fun l => if s1.ownNode (nodeOf ga) then dropGran l (l1iSet (localOf ga / 64)) (localOf ga / 64) else l)) ∧
      (x.ctx ≠ .bare → (s1.core c).tlbFind x va = none → flushes (.iflush t rs1) [] (fun _ => [])))

/-! ### Floating point -/

/-- Floating-point operations into an f register (R82 to R86, R112): the operation on the values its operands have under the
tag rule, rounded once as rm or FPSTAT.RM says; the result with its format tag, and the sticky flags, INV also where a
binary32 operation reads a binary64 register. A NaN result with an operand's payload has a sign that IEEE 754 leaves open, as it
does INV for 0 × ∞ + a quiet NaN: free values (entry 6). Nothing else changes. -/
def Obligations.FloatingOperationsRoundOnce : Prop :=
  ∀ (t : Th) (dbl : Bool) (rm : Rm) (k : IntKind) (fd fs1 fs2 fs3 : R5) (s s1 : State), AtCommit s t s1 →
    akz32 t.val = false →
    let x := s1.thread t.val
    let rnd := x.rounding rm
    let does := fun (i : Instr) (src : Bool) (rs : List R5) (y : Bool) (r : FpRes) =>
      let bad := rs.any (fun q => (x.fpOperand src q.val).2)
      let v := fun (b : Nat) => if dbl then BitVec.ofNat 64 b else (BitVec.ofNat 32 b).setWidth 64
      (r.openSign = false → r.openInv = false →
        WritesFreg i s s1 t.val fd.val dbl (v r.bits) y (r.flags.or { inv := bad }).bits) ∧
      ((r.openSign || r.openInv) = true → ∃ neg inv : Bool,
        WritesFreg i s s1.draw.2 t.val fd.val dbl (v (if neg then r.bits + 2 ^ (fracBits dbl + expBits dbl) else r.bits)) y
          (r.flags.or { inv := bad || (inv && r.openInv) }).bits)
    let p := fun (src : Bool) (q : R5) => (x.fpOperand src q.val).1
    let v := fun (src : Bool) (q : R5) => fpVal src (p src q)
    let y1 := x.yarrow || x.fregY fs1.val
    let y2 := x.yarrow || (x.fregY fs1.val || x.fregY fs2.val)
    let y3 := x.yarrow || (x.fregY fs1.val || (x.fregY fs2.val || x.fregY fs3.val))
    does (.fadd t dbl rm fd fs1 fs2) dbl [fs1, fs2] y2 (fpAdd dbl rnd (v dbl fs1) (v dbl fs2)) ∧
    does (.fsub t dbl rm fd fs1 fs2) dbl [fs1, fs2] y2 (fpSub dbl rnd (v dbl fs1) (v dbl fs2)) ∧
    does (.fmul t dbl rm fd fs1 fs2) dbl [fs1, fs2] y2 (fpMul dbl rnd (v dbl fs1) (v dbl fs2)) ∧
    does (.fdiv t dbl rm fd fs1 fs2) dbl [fs1, fs2] y2 (fpDiv dbl rnd (v dbl fs1) (v dbl fs2)) ∧
    does (.fsqrt t dbl rm fd fs1) dbl [fs1] y1 (fpSqrt dbl rnd (v dbl fs1)) ∧
    does (.fmin t dbl fd fs1 fs2) dbl [fs1, fs2] y2 (fpMinMax dbl false false (p dbl fs1) (p dbl fs2) (v dbl fs1) (v dbl fs2)) ∧
    does (.fmax t dbl fd fs1 fs2) dbl [fs1, fs2] y2 (fpMinMax dbl true false (p dbl fs1) (p dbl fs2) (v dbl fs1) (v dbl fs2)) ∧
    does (.fminn t dbl fd fs1 fs2) dbl [fs1, fs2] y2 (fpMinMax dbl false true (p dbl fs1) (p dbl fs2) (v dbl fs1) (v dbl fs2)) ∧
    does (.fmaxn t dbl fd fs1 fs2) dbl [fs1, fs2] y2 (fpMinMax dbl true true (p dbl fs1) (p dbl fs2) (v dbl fs1) (v dbl fs2)) ∧
    does (.fmadd t dbl rm fd fs1 fs2 fs3) dbl [fs1, fs2, fs3] y3
      (fpFma dbl rnd false false (v dbl fs1) (v dbl fs2) (v dbl fs3)) ∧
    does (.fmsub t dbl rm fd fs1 fs2 fs3) dbl [fs1, fs2, fs3] y3
      (fpFma dbl rnd false true (v dbl fs1) (v dbl fs2) (v dbl fs3)) ∧
    does (.fnmsub t dbl rm fd fs1 fs2 fs3) dbl [fs1, fs2, fs3] y3
      (fpFma dbl rnd true false (v dbl fs1) (v dbl fs2) (v dbl fs3)) ∧
    does (.fnmadd t dbl rm fd fs1 fs2 fs3) dbl [fs1, fs2, fs3] y3
      (fpFma dbl rnd true true (v dbl fs1) (v dbl fs2) (v dbl fs3)) ∧
    does (.fcvp t dbl rm fd fs1) (!dbl) [fs1] y1 (fpConvert dbl rnd (v (!dbl) fs1)) ∧
    does (.fcvf t dbl k rm fd fs1) dbl [] (x.yarrow || x.regY fs1.val) (fpOfInt dbl rnd (IntKind.read k (x.reg fs1.val)))

/-- What an exact result gives (R82, R83): one that the format holds is delivered as it is, in every rounding, and raises no
flag; invalid operations give the default NaN and INV, a division of a finite number by zero an infinity and DVZ, and the first
NaN among the operands gives its payload, made quiet, with INV where an operand signals. -/
def Obligations.ExactAndInvalidResults : Prop :=
  ∀ (dbl : Bool) (r : Rnd),
    (∀ (neg : Bool) (m : Nat) (e : Int), m ≠ 0 → m < 2 ^ (fracBits dbl + 1) → (1 : Int) - fpBias dbl - fracBits dbl ≤ e →
      e + Nat.log2 m ≤ fpBias dbl →
      let z := fpRound dbl r neg m e false
      z.flags = {} ∧ z.openSign = false ∧ ∃ m' e', fpVal dbl z.bits = .fin neg m' e' ∧
        scaled neg m' e' (min e e') = scaled neg m e (min e e')) ∧
    (defaultNaN false = 0x7FFF_FFFF ∧ defaultNaN true = 0x7FFF_FFFF_FFFF_FFFF) ∧
    (∀ n, fpAdd dbl r (.inf n) (.inf (!n)) = fpInvalid dbl ∧ fpSub dbl r (.inf n) (.inf n) = fpInvalid dbl ∧
      fpSqrt dbl r (.inf true) = fpInvalid dbl ∧ (∀ k e, fpMul dbl r (.inf n) (.fin k 0 e) = fpInvalid dbl) ∧
      (∀ k, fpDiv dbl r (.inf n) (.inf k) = fpInvalid dbl) ∧ (∀ k e e', fpDiv dbl r (.fin n 0 e) (.fin k 0 e') = fpInvalid dbl) ∧
      (∀ m e, m ≠ 0 → fpSqrt dbl r (.fin true m e) = fpInvalid dbl) ∧
      (∀ m e k e', m ≠ 0 → fpDiv dbl r (.fin n m e) (.fin k 0 e') =
        { bits := fpPack dbl (n != k) (expMax dbl) 0, flags := { dvz := true } })) ∧
    (∀ (op : FpRes) (n : Bool) (f : Nat) (sig : Bool) (b : FpVal), f < 2 ^ fracBits dbl →
      op ∈ [fpAdd dbl r (.nan n f sig) b, fpSub dbl r (.nan n f sig) b, fpMul dbl r (.nan n f sig) b,
        fpDiv dbl r (.nan n f sig) b, fpMinMax dbl true false 0 0 (.nan n f sig) b] →
      op.bits = fpPack dbl false (expMax dbl) (f % 2 ^ (fracBits dbl - 1) + 2 ^ (fracBits dbl - 1)) ∧
      op.flags = { inv := sig || b.isSNaN } ∧ op.openSign = true) ∧
    (∀ (k : IntKind) (n sig : Bool) (f : Nat), fpToInt k r (.nan n f sig) = (0, invFlag) ∧
      fpToInt k r (.inf n) = (if n then (IntKind.range k).1 else (IntKind.range k).2, invFlag))

/-- Sign operations, comparisons, moves and conversions to integers (R83, R84): the sign operations change the sign bit alone
and raise nothing but the INV of the tag rule; a comparison gives 1 or 0; FTOG, GTOF and FKIND read raw bits, whatever the
tag. -/
def Obligations.FloatingMovesAndComparisons : Prop :=
  ∀ (t : Th) (dbl : Bool) (rm : Rm) (k : IntKind) (rd r1 r2 : R5) (s s1 : State), AtCommit s t s1 → akz32 t.val = false →
    let x := s1.thread t.val
    let a := x.fpOperand dbl r1.val
    let b := x.fpOperand dbl r2.val
    let y1 := x.yarrow || x.fregY r1.val
    let y2 := x.yarrow || (x.fregY r1.val || x.fregY r2.val)
    let top : Word := if dbl then 0x8000_0000_0000_0000 else 0x8000_0000
    let wa : Word := BitVec.ofNat 64 a.1
    let wb : Word := BitVec.ofNat 64 b.1
    let inv1 := ({ inv := a.2 } : FpFlags).bits
    let va := fpVal dbl a.1
    let vb := fpVal dbl b.1
    let nan := va.isNaN || vb.isNaN
    let snan := va.isSNaN || vb.isSNaN
    let cmp := fun (i : Instr) (holds inv : Bool) =>
      WritesRegFlags i s s1 t.val rd.val (if holds then 1 else 0) y2 ({ inv := inv || (a.2 || b.2) } : FpFlags).bits
    let raw := (x.freg r1.val).toNat
    let e := raw / 2 ^ fracBits dbl % 2 ^ expBits dbl
    let f := raw % 2 ^ fracBits dbl
    let neg := raw.testBit (fracBits dbl + expBits dbl)
    let kind : Nat :=
      if e = 2 ^ expBits dbl - 1 then
        (if f = 0 then (if neg then 2 else 9) else if f < 2 ^ (fracBits dbl - 1) then 0 else 1)
      else if e = 0 then (if f = 0 then (if neg then 5 else 6) else if neg then 4 else 7)
      else if neg then 3 else 8
    let int := fpToInt k (x.rounding rm) va
    WritesFreg (.fneg t dbl rd r1) s s1 t.val rd.val dbl (wa ^^^ top) y1 inv1 ∧
    WritesFreg (.fabs t dbl rd r1) s s1 t.val rd.val dbl (wa &&& ~~~top) y1 inv1 ∧
    WritesFreg (.fcps t dbl rd r1 r2) s s1 t.val rd.val dbl ((wa &&& ~~~top) ||| (wb &&& top)) y2
      ({ inv := a.2 || b.2 } : FpFlags).bits ∧
    cmp (.fceq t dbl rd r1 r2) (!nan && !fpLt va vb && !fpLt vb va) snan ∧
    cmp (.fclt t dbl rd r1 r2) (!nan && fpLt va vb) nan ∧
    cmp (.fcle t dbl rd r1 r2) (!nan && !fpLt vb va) nan ∧
    cmp (.fcun t dbl rd r1 r2) nan snan ∧
    cmp (.fcltq t dbl rd r1 r2) (!nan && fpLt va vb) snan ∧
    cmp (.fcleq t dbl rd r1 r2) (!nan && !fpLt vb va) snan ∧
    WritesRegFlags (.fcvi t dbl k rm rd r1) s s1 t.val rd.val (BitVec.ofInt 64 int.1) y1 (int.2.or { inv := a.2 }).bits ∧
    WritesRegFlags (.ftog t dbl rd r1) s s1 t.val rd.val
      (if dbl then x.freg r1.val else ((x.freg r1.val).setWidth 32).signExtend 64) y1 0 ∧
    WritesRegFlags (.fkind t dbl rd r1) s s1 t.val rd.val (BitVec.ofNat 64 kind) y1 0 ∧
    WritesFreg (.gtof t dbl rd r1) s s1 t.val rd.val dbl
      (if dbl then x.reg r1.val else ((x.reg r1.val).setWidth 32).setWidth 64) (x.yarrow || x.regY r1.val) 0

/-! ### System instructions -/

/-- R89: what an access to a CSR meets, row by row: a number the profile does not assign is a RESERVED-OPCODE with XTF_INFO 4; a
privilege below bits [11:10] is PRIVILEGED-INSTRUCTION with XTF_INFO 3; a write to a read-only number, bit [9], is the same with
XTF_INFO 2; a write that would place a reserved encoding in a field leaves the field and performs the rest; any other access is
performed. -/
def Obligations.CsrAccessRows : Prop :=
  ∀ (t : Th) (rd rs1 : R5) (csr : BitVec 12) (s s1 : State), AtCommit s t s1 →
    let x := s1.thread t.val
    let n := csr.toNat
    let below := x.priv.code < n / 1024
    (csrAssigned (akz32 t.val) n = false →
      TakesTrap (.csrrw t rd rs1 csr) s s1 t.val 0x01 (wordM 0x2E rd rs1 csr 0) 0 4 ∧
      TakesTrap (.csrrs t rd rs1 csr) s s1 t.val 0x01 (wordM 0x2E rd rs1 csr 1) 0 4 ∧
      TakesTrap (.csrrc t rd rs1 csr) s s1 t.val 0x01 (wordM 0x2E rd rs1 csr 2) 0 4) ∧
    (csrAssigned (akz32 t.val) n = true → below →
      TakesTrap (.csrrw t rd rs1 csr) s s1 t.val 0x02 (wordM 0x2E rd rs1 csr 0) 0 3 ∧
      TakesTrap (.csrrs t rd rs1 csr) s s1 t.val 0x02 (wordM 0x2E rd rs1 csr 1) 0 3 ∧
      TakesTrap (.csrrc t rd rs1 csr) s s1 t.val 0x02 (wordM 0x2E rd rs1 csr 2) 0 3) ∧
    (csrAssigned (akz32 t.val) n = true → ¬below → n.testBit 9 = true →
      TakesTrap (.csrrw t rd rs1 csr) s s1 t.val 0x02 (wordM 0x2E rd rs1 csr 0) 0 2 ∧
      (rs1.val ≠ 0 →
        TakesTrap (.csrrs t rd rs1 csr) s s1 t.val 0x02 (wordM 0x2E rd rs1 csr 1) 0 2 ∧
        TakesTrap (.csrrc t rd rs1 csr) s s1 t.val 0x02 (wordM 0x2E rd rs1 csr 2) 0 2)) ∧
    (csrAssigned (akz32 t.val) n = true → ¬below → n.testBit 9 = true → rs1.val = 0 →
      ∃ s', exec (.csrrs t rd rs1 csr) s = .next s' ∧ (s'.thread t.val).pc = cutTo t.val (x.pc + 4) ∧
        ∃ v, RegTakes s1 s' t.val rd.val v (x.yarrow || x.regY 0)) ∧
    (csrAssigned (akz32 t.val) n = true → ¬below → n.testBit 9 = false →
      ∃ s', exec (.csrrw t rd rs1 csr) s = .next s' ∧
        RegTakes s1 s' t.val rd.val (cutTo t.val (x.csrv n)) (x.yarrow || x.regY rs1.val) ∧
        (∀ hi lo, csrReserved n (x.reg rs1.val) = some (hi, lo) →
          getBits ((s'.thread t.val).csrv n) hi lo = getBits (x.csrv n) hi lo ∧
          ∀ i, i < 64 → (i < lo ∨ hi < i) → (csrMask n).getLsbD i = true → akz32 t.val = false →
            bitOf ((s'.thread t.val).csrv n) i = bitOf (x.reg rs1.val) i) ∧
        (csrReserved n (x.reg rs1.val) = none → n ≠ 0x830 →
          ∀ i, i < wid t.val → (csrMask n).getLsbD i = true → bitOf ((s'.thread t.val).csrv n) i = bitOf (x.reg rs1.val) i))

/-- The CSR instructions (R88, R90, R111, R126): rd takes the CSR's old value with the tag of R112; CSRRW writes rs1, CSRRS sets
and CSRRC clears the bits of rs1, and neither writes where rs1 is g0; every other CSR, register and thread is as before. A read of CYCLE
gives the count, which has risen by a number that the manual leaves open (entry 10). -/
def Obligations.CsrInstructionsReadAndWrite : Prop :=
  ∀ (t : Th) (rd rs1 : R5) (csr : BitVec 12) (s s1 : State), AtCommit s t s1 →
    let x := s1.thread t.val
    let n := csr.toNat
    let b := fetchedBy s1 t.val
    csrAssigned (akz32 t.val) n = true → x.priv.code ≥ n / 1024 →
    (n ∈ [0x200, 0x210] → rs1.val = 0 → ∃ s' w, exec (.csrrs t rd rs1 csr) s = .next s' ∧
      (s'.thread t.val).csrv 0x200 = x.csrv 0x200 + w ∧
      RegTakes b s' t.val rd.val (if n = 0x200 then cutTo t.val (x.csrv 0x200 + w) else (x.csrv 0x200 + w) >>> 32) x.yarrow ∧
      CommittedAt b s' t.val (x.pc + 4) [0x200] ∧ SameFp b s' t.val ∧
      OnlyThread { b with free := s'.free } s' t.val) ∧
    (n ∉ [0x200, 0x210] →
    let old : Word :=
      if n = 0x202 then cutTo t.val (s1.rd .CAD_FRAMECNT) else if n = 0x212 then s1.rd .CAD_FRAMECNT >>> 32
      else if n = 0x211 then x.csrv 0x201 >>> 32 else if n = 0x600 then x.csrv 0x801 else cutTo t.val (x.csrv n)
    let v := x.reg rs1.val
    let y := x.yarrow || x.regY rs1.val
    let writes := fun (i : Instr) (w : Word) => ∃ s', exec i s = .next s' ∧ RegTakes b s' t.val rd.val old y ∧
      (s'.thread t.val).csrv n = cutTo t.val (csrNext n (x.csrv n) w) ∧ CommittedAt b s' t.val (x.pc + 4) [n] ∧
      SameFp b s' t.val ∧ OnlyThread b s' t.val
    (n.testBit 9 = false → n ∉ [0x440, 0x830] →
      writes (.csrrw t rd rs1 csr) v ∧
      (rs1.val ≠ 0 → writes (.csrrs t rd rs1 csr) (old ||| v) ∧ writes (.csrrc t rd rs1 csr) (old &&& ~~~v))) ∧
    (rs1.val = 0 → WritesReg (.csrrs t rd rs1 csr) s s1 t.val rd.val old y ∧
      WritesReg (.csrrc t rd rs1 csr) s s1 t.val rd.val old y))

/-- SYSCALL, BREAK and HCALL (R88, R93 to R97): each traps with its cause and its word, the code in XTF_INFO; HCALL at U is a
PRIVILEGED-INSTRUCTION, and on AKZ32 a RESERVED-OPCODE. A trap that targets H within an H trap stops the thread, writes no frame
and is recorded with KIND 0x0D. -/
def Obligations.CallsTrapWithTheirCode : Prop :=
  ∀ (t : Th) (code : BitVec 12) (s s1 : State), AtCommit s t s1 →
    let x := s1.thread t.val
    let info : Word := code.setWidth 64
    TakesTrap (.syscall t code) s s1 t.val 0x0D (wordM 0x2E 0 0 code 3) 0 info ∧
    TakesTrap (.brk t code) s s1 t.val 0x0F (wordM 0x2E 0 0 code 7) 0 info ∧
    (akz32 t.val = true → TakesTrap (.hcall t code) s s1 t.val 0x01 (wordM 0x2E 0 0 code 4) 0 1) ∧
    (akz32 t.val = false → x.priv = .u → TakesTrap (.hcall t code) s s1 t.val 0x02 (wordM 0x2E 0 0 code 4) 0 1) ∧
    (akz32 t.val = false → x.priv ≠ .u → TakesTrap (.hcall t code) s s1 t.val 0x0E (wordM 0x2E 0 0 code 4) 0 info) ∧
    (akz32 t.val = false → TargetsH x 0x0D → x.intrap true = true →
      ∃ s', exec (.syscall t code) s = .next s' ∧
        { s'.thread t.val with csr := x.csr, ahead := x.ahead } = { x with run := .stopped } ∧
        (∀ n, n ≠ 0x203 → (s'.thread t.val).csrv n = x.csrv n) ∧
        ∃ r, mget s'.ring (s1.fld F.ERR_LOGHEAD_NEXT) = some r ∧ r.kind = 0x0D ∧ r.sev = 3 ∧
          r.target = BitVec.ofNat 8 (32 + t.val / 16))

/-- TRET, WFI and the user-access bracket (R98, R125, R147): TRET restores privilege, IE and IPRIO from XTF_STATUS, clears INTRAP
and the reservation and goes on at XTF_PC; WFI commits, and the thread waits unless a vector would be deliverable with IE set;
UACCESS.OPEN and CLOSE set and clear the bracket. -/
def Obligations.ReturnsWaitsAndBrackets : Prop :=
  ∀ (t : Th) (s s1 : State), AtCommit s t s1 →
    let x := s1.thread t.val
    x.priv ≠ .u →
    let h := decide (x.priv = .h)
    let l := if h then 0x800 else 0x400
    let st := x.csrv (l + 0x14)
    let b := fetchedBy s1 t.val
    let bracket := fun (i : Instr) (opened : Bool) => ∃ s', exec i s = .next s' ∧ RegTakes b s' t.val 0 0 false ∧
      bitOf ((s'.thread t.val).csrv 0x434) 0 = opened ∧ (∀ i, 1 ≤ i → i < 64 →
        bitOf ((s'.thread t.val).csrv 0x434) i = bitOf (x.csrv 0x434) i) ∧
      CommittedAt b s' t.val (x.pc + 4) [0x434] ∧ SameFp b s' t.val ∧ OnlyThread b s' t.val
    (∃ s', exec (.tret t) s = .next s' ∧
      (s'.thread t.val).pc = cutTo t.val (x.csrv (l + 0x10)) ∧
      (s'.thread t.val).priv.code = min (getBits st 1 0) 2 ∧
      bitOf ((s'.thread t.val).csrv l) 0 = bitOf st 2 ∧ bitOf ((s'.thread t.val).csrv l) 1 = false ∧
      (s'.thread t.val).csrv 0x420 = BitVec.ofNat 64 (getBits st 11 8) ∧ (s'.thread t.val).resv = none ∧
      (s'.thread t.val).csrv 0x201 = x.csrv 0x201 + 1 ∧
      (∀ n, n ∉ [l, 0x201, 0x420, 0x434] → (s'.thread t.val).csrv n = (b.thread t.val).csrv n) ∧
      RegTakes b s' t.val 0 0 false ∧ SameFp b s' t.val ∧ OnlyThread b s' t.val) ∧
    (s1.nextVec t.val true = none → ∃ s', exec (.wfi t) s = .next s' ∧ (s'.thread t.val).run = .waiting ∧
      (s'.thread t.val).pc = cutTo t.val (x.pc + 4) ∧ RegTakes b s' t.val 0 0 false ∧ OnlyThread b s' t.val) ∧
    (s1.nextVec t.val true ≠ none → s1.nextVec t.val false = none → ∃ s', exec (.wfi t) s = .next s' ∧
      (s'.thread t.val).run = .running ∧ (s'.thread t.val).pc = cutTo t.val (x.pc + 4) ∧
      RegTakes b s' t.val 0 0 false ∧ OnlyThread b s' t.val) ∧
    bracket (.uaccessOpen t) true ∧ bracket (.uaccessClose t) false

/-- An interrupt (R120 to R125): a compute thread's selection notes the vector that ranks first and squashes what has run ahead; the
latch clears its pending bit, writes the frame with the cause of an interrupt, sets IPRIO and goes on at XVEC + 0x4000 + 64 ×
vector. A raise makes the vector pending, and one that ranks above a vector selected on the thread takes its place. WFI_WAKE ends
a wait. While a thread is fetch-gated, only vectors that target H are taken (R365). -/
def Obligations.InterruptsAreSelectedAndEntered : Prop :=
  ∀ (t : Th) (m : Master) (cl : Fin 32) (v : BitVec 32) (s : State),
    let x := s.thread t.val
    (∀ e, s.atCommit t.val = true → akz32 t.val = false → s.nextVec t.val false = some e →
      (s.fetchGated t.val = true → e.toH = true) ∧
      ∃ s', exec (.interruptEntry t .select) s = .next s' ∧ mget s'.entering t.val = some e ∧
        (∀ u, u ≠ t.val → mget s'.entering u = mget s.entering u) ∧ s'.thread t.val = { x with ahead := [] } ∧
        (∀ u, u ≠ t.val → s'.thread u = s.thread u) ∧ (∀ c, { s'.core c with fillBuf := (s.core c).fillBuf } = s.core c) ∧
        { s' with entering := s.entering, threads := s.threads, cores := s.cores } = s) ∧
    (∀ e, mget s.entering t.val = some e →
      ∃ s', exec (.interruptEntry t .latch) s = .next s' ∧ mget s'.entering t.val = none ∧
        s'.vecPending t.val e.vec = false ∧ (s'.thread t.val).csrv 0x420 = BitVec.ofNat 64 e.prio ∧
        EntersLevel s s' t.val e.toH (cutTo t.val (BitVec.ofNat 64 (0x20 + e.vec * 256 + 2 ^ 63))) 0 0 0
          (x.csrv (if e.toH then 0x808 else 0x408) + BitVec.ofNat 64 (0x4000 + 64 * e.vec)) [0x420] ∧
        (∀ u, u ≠ t.val → s'.thread u = s.thread u ∧ mget s'.entering u = mget s.entering u) ∧
        { s' with threads := s.threads, regs := s.regs, entering := s.entering } = s) ∧
    (s.live = true → (m ≠ .debug ∨ s.scope 1 = true) → s.domOn (clDom cl.val) = true →
      ∃ s', exec (.raiseInterrupt m cl v) s = .next s' ∧
        let u := 16 * cl.val + F.CL_IRAISE_THREAD.of (v.setWidth 64)
        s'.vecPending u (F.CL_IRAISE_VECTOR.of (v.setWidth 64)) = true ∧
        (∀ e o, mget s.entering u = some e → s'.bestVec u false (fun v => v != e.vec) = some o →
          mget s'.entering u = some (if o.above e then o else e)) ∧
        (∀ k, k ≠ u → mget s'.entering k = mget s.entering k) ∧ { s' with regs := s.regs, entering := s.entering } = s) ∧
    (s.live = true → (akz32 t.val = true ∨ s.sleeping (coreOf t.val) = false) → x.run = .waiting → s.nextVec t.val true ≠ none →
      s.nextVec t.val false = none →
      exec (.wfiWake t) s = .next (s.setThread t.val { x with run := .running }))

/-- R92: a word that the encodings or the profile reserve raises RESERVED-OPCODE with its word in XTF_INST, and XTF_INFO says why
(R93): at H on AKZ64 from every level, at S on AKZ32. -/
def Obligations.ReservedWordsTrap : Prop :=
  ∀ (t : Th) (w : BitVec 32) (info : Nat) (s s1 : State), AtCommit s t s1 →
    reservedInfo (akz32 t.val) w.toNat = some info →
    TakesTrap (.reservedInstruction t w) s s1 t.val 0x01 w.toNat 0 (BitVec.ofNat 64 info) ∧
    (akz32 t.val = false → (s1.thread t.val).intrap true = false →
      ∃ s', exec (.reservedInstruction t w) s = .next s' ∧ (s'.thread t.val).priv = .h ∧
        (s'.thread t.val).csrv 0x812 = w.setWidth 64)

/-- The major opcodes AKZ64 alone has (R60), the double-word atomics (R75) and the privileged forms (R88, R139) where they may not
run: on AKZ32 RESERVED-OPCODE with XTF_INFO 2, or 1 for a function code; below their level PRIVILEGED-INSTRUCTION with
XTF_INFO 1. -/
def Obligations.ProfileAndPrivilegeTraps : Prop :=
  ∀ (t : Th) (rd rs1 rs2 : R5) (imm : BitVec 16) (dbl : Bool) (rm : Rm) (s s1 : State), AtCommit s t s1 →
    (akz32 t.val = true →
      TakesTrap (.ld t rd rs1 imm) s s1 t.val 0x01 (wordI 0x0F rd rs1 imm) 0 2 ∧
      TakesTrap (.lwu t rd rs1 imm) s s1 t.val 0x01 (wordI 0x12 rd rs1 imm) 0 2 ∧
      TakesTrap (.flw t rd rs1 imm) s s1 t.val 0x01 (wordI 0x28 rd rs1 imm) 0 2 ∧
      TakesTrap (.fld t rd rs1 imm) s s1 t.val 0x01 (wordI 0x29 rd rs1 imm) 0 2 ∧
      TakesTrap (.fadd t dbl rm rd rs1 rs2) s s1 t.val 0x01 (wordR 0x2C rd rs1 rs2 (fpFunct dbl 0 (Rm.code rm) 0)) 0 2 ∧
      TakesTrap (.fmadd t dbl rm rd rs1 rs2 0) s s1 t.val 0x01 (wordF4 rd rs1 rs2 0 dbl (Rm.code rm) 0) 0 2 ∧
      TakesTrap (.tlbw t rd) s s1 t.val 0x01 (wordR 0x2F rd 0 0 0) 0 2 ∧
      TakesTrap (.wstep t rd rs1 rs2) s s1 t.val 0x01 (wordR 0x2F rd rs1 rs2 8) 0 2 ∧
      TakesTrap (.aadd t true rd rs1 rs2) s s1 t.val 0x01 (wordAtom 0x3 true rd rs1 rs2) 0 1 ∧
      TakesTrap (.ldres t true rd rs1) s s1 t.val 0x01 (wordAtom 0x0 true rd rs1 0) 0 1) ∧
    ((s1.thread t.val).priv = .u →
      TakesTrap (.tret t) s s1 t.val 0x02 (wordM 0x2E 0 0 0 5) 0 1 ∧
      TakesTrap (.wfi t) s s1 t.val 0x02 (wordM 0x2E 0 0 0 6) 0 1 ∧
      TakesTrap (.uaccessOpen t) s s1 t.val 0x02 (wordM 0x2E 0 0 0 8) 0 1 ∧
      TakesTrap (.uaccessClose t) s s1 t.val 0x02 (wordM 0x2E 0 0 0 9) 0 1 ∧
      (akz32 t.val = false →
        TakesTrap (.tlbw t rd) s s1 t.val 0x02 (wordR 0x2F rd 0 0 0) 0 1 ∧
        TakesTrap (.tlbp t rd rs1) s s1 t.val 0x02 (wordR 0x2F rd rs1 0 1) 0 1 ∧
        TakesTrap (.tlbiVa t rs1) s s1 t.val 0x02 (wordR 0x2F 0 rs1 0 2) 0 1 ∧
        TakesTrap (.tlbiAsid t rs1) s s1 t.val 0x02 (wordR 0x2F 0 rs1 0 3) 0 1 ∧
        TakesTrap (.tlbiTid t rs1) s s1 t.val 0x02 (wordR 0x2F 0 rs1 0 4) 0 1 ∧
        TakesTrap (.wstep t rd rs1 rs2) s s1 t.val 0x02 (wordR 0x2F rd rs1 rs2 8) 0 1 ∧
        TakesTrap (.wstepU t rd rs1 rs2) s s1 t.val 0x02 (wordR 0x2F rd rs1 rs2 9) 0 1 ∧
        TakesTrap (.wflush t rs1 rs2) s s1 t.val 0x02 (wordR 0x2F 0 rs1 rs2 0xA) 0 1 ∧
        TakesTrap (.wflushB t rs1) s s1 t.val 0x02 (wordR 0x2F 0 rs1 0 0xB) 0 1 ∧
        TakesTrap (.wflushA t) s s1 t.val 0x02 (wordR 0x2F 0 0 0 0xC) 0 1)) ∧
    (akz32 t.val = false → (s1.thread t.val).priv ≠ .h →
      TakesTrap (.tlbiAll t) s s1 t.val 0x02 (wordR 0x2F 0 0 0 5) 0 1)

/-- R140: TLBW builds its entry from TLB_VA, TLB_PA, TLB_ATTR and TID, checks it in the order of the table, leaves the status in rd,
and writes nothing where a check fails; where it is 0, the set of the entry's size and address holds the entry. -/
def Obligations.TlbWriteChecksInOrder : Prop :=
  ∀ (t : Th) (rd : R5) (s s1 : State), AtCommit s t s1 → akz32 t.val = false →
    let x := s1.thread t.val
    x.priv ≠ .u →
    let va := x.csrv 0x430
    let pa := x.csrv 0x431
    let attr := x.csrv 0x432
    let n := getBits attr 5 0
    let r := bitOf attr 6
    let w := bitOf attr 7
    let ex := bitOf attr 8
    let codec := getBits attr 17 14
    let e : TlbEnt := ⟨va, pa, attr, BitVec.ofNat 10 (getBits (x.csrv 0x801) 9 0)⟩
    let last := BitVec.ofNat 64 (pa.toNat + 2 ^ n - 1)
    let set := mgetD (s1.core (coreOf t.val)).l2tlb (tlbKey n va) .empty
    let st : Nat :=
      if n < 12 ∨ 40 < n ∨ va.toNat % 2 ^ n ≠ 0 ∨ pa.toNat % 2 ^ n ≠ 0 then 1
      else if w = true ∧ r = false then 2
      else if codecReserved codec = true ∨ (bitOf attr 13 = true ∧ codec ≠ 0) then 3
      else if ctlBase ≤ localOf last ∧ (s1.ownNode (nodeOf pa) = false ∨ codec ≠ 0) then 4
      else if bitOf attr 11 = true ∧ x.priv = .s then 5
      else if x.priv = .s ∧ x.hprCovers pa.toNat (pa.toNat + 2 ^ n - 1) w ex = false then 6
      else if bitOf attr 12 = true ∧ 3 ≤ (set.ways.filter (fun o => o.2.locked && !o.2.same e)).length then 7
      else 0
    (st ≠ 0 → WritesReg (.tlbw t rd) s s1 t.val rd.val (BitVec.ofNat 64 st) x.yarrow) ∧
    (st = 0 → let b := fetchedBy s1 t.val
      ∃ s', exec (.tlbw t rd) s = .next s' ∧ RegTakes b s' t.val rd.val 0 x.yarrow ∧
      CommittedAt b s' t.val (x.pc + 4) [] ∧ SameFp b s' t.val ∧
      (∃ i, mget (mgetD (s'.core (coreOf t.val)).l2tlb (tlbKey n va) .empty).ways i = some e) ∧
      (∀ d, d ≠ coreOf t.val → s'.core d = s1.core d) ∧ (∀ u, u ≠ t.val → s'.thread u = s1.thread u) ∧
      { s' with threads := s1.threads, ledger := s1.ledger, cores := s1.cores, errs := s1.errs, regs := s1.regs } = s1)

/-- The other TLB operations (R139, R142, R149): TLBP gives the page size of the entry that translates rs1, or 0; each TLBI removes
exactly the entries its row names, once the core's accesses that may have used one of them have been performed (R152); each WFLUSH
the walk-cache entries its row names. -/
def Obligations.TlbProbeAndInvalidate : Prop :=
  ∀ (t : Th) (rd rs1 rs2 : R5) (s s1 : State), AtCommit s t s1 → akz32 t.val = false →
    let x := s1.thread t.val
    x.priv ≠ .u →
    let a := x.reg rs1.val
    let tid := getBits (x.csrv 0x801) 9 0
    WritesReg (.tlbp t rd rs1) s s1 t.val rd.val
      (match (s1.core (coreOf t.val)).tlbFind x a with | some (_, _, e) => BitVec.ofNat 64 (getBits e.attr 5 0) | none => 0)
      (x.yarrow || x.regY rs1.val) ∧
    RemovesEntries (.tlbiVa t rs1) s s1 t.val (fun e => e.covers a &&
      (if x.priv = .h then bitOf (x.csrv 0x834) 0 && (bitOf e.attr 11 || e.tid.toNat == tid)
       else !bitOf e.attr 11 && e.tid.toNat == tid)) ∧
    RemovesEntries (.tlbiAsid t rs1) s s1 t.val (fun e =>
      !bitOf e.attr 12 && !bitOf e.attr 11 && !bitOf e.attr 10 && e.tid.toNat == tid && getBits e.attr 47 32 == getBits a 15 0) ∧
    RemovesEntries (.tlbiTid t rs1) s s1 t.val (fun e =>
      !bitOf e.attr 12 && !bitOf e.attr 11 && e.tid.toNat == (if x.priv = .h then getBits a 9 0 else tid)) ∧
    (x.priv = .h → RemovesEntries (.tlbiAll t) s s1 t.val (fun _ => true)) ∧
    RemovesWalks (.wflush t rs1 rs2) s s1 t.val (fun e => e.base == a && e.index == x.reg rs2.val && e.tid.toNat == tid) ∧
    RemovesWalks (.wflushB t rs1) s s1 t.val (fun e => e.base == a) ∧
    RemovesWalks (.wflushA t) s s1 t.val (fun e => x.priv = .h || e.tid.toNat == tid)

/-- WSTEP and WSTEP.U (R139, R142, R149): rd takes the 64-bit word at rs1 + 8 × rs2; a walk-cache hit gives the cached word; a miss of
WSTEP reads memory and leaves an entry; WSTEP.U leaves none. An address that is no multiple of 8 takes ALIGNMENT; at S, one outside
the HPR ranges takes PROTECTION with reason 6. -/
def Obligations.WalkStepsReadTableWords : Prop :=
  ∀ (t : Th) (rd rs1 rs2 : R5) (s s1 s2 s3 : State) (v : Nat) (w : Word), AtCommit s t s1 → akz32 t.val = false →
    let x := s1.thread t.val
    x.priv ≠ .u →
    let base := x.reg rs1.val
    let index := x.reg rs2.val
    let ga := base + index * 8
    let p : Piece := ⟨ga, 8, 0, s1.tgtOf ga, ⟨ga, false, 0, none⟩⟩
    let y := x.yarrow || (x.regY rs1.val || x.regY rs2.val)
    let allowed := x.priv ≠ .s ∨ x.hprCovers ga.toNat (ga.toNat + 7) false false = true
    (ga.toNat % 8 ≠ 0 →
      TakesTrap (.wstep t rd rs1 rs2) s s1 t.val 0x03 (wordR 0x2F rd rs1 rs2 8) ga 0 ∧
      TakesTrap (.wstepU t rd rs1 rs2) s s1 t.val 0x03 (wordR 0x2F rd rs1 rs2 9) ga 0) ∧
    (ga.toNat % 8 = 0 → ¬allowed →
      TakesTrap (.wstep t rd rs1 rs2) s s1 t.val 0x07 (wordR 0x2F rd rs1 rs2 8) ga 0x61 ∧
      TakesTrap (.wstepU t rd rs1 rs2) s s1 t.val 0x07 (wordR 0x2F rd rs1 rs2 9) ga 0x61) ∧
    (ga.toNat % 8 = 0 → allowed →
      (x.sorrel = false → s1.walkLookup t.val base index = (some w, s2) →
        WritesReg (.wstep t rd rs1 rs2) s s2 t.val rd.val w y) ∧
      (inMemory (s1.tgtOf ga) = true → s1.readPieces t.val false [p] = (.inr (v, false), s2) →
        WritesReg (.wstepU t rd rs1 rs2) s (s2.used t.val [p] y) t.val rd.val (BitVec.ofNat 64 v) y) ∧
      (inMemory (s1.tgtOf ga) = true → x.sorrel = false → s1.walkLookup t.val base index = (none, s3) →
        s3.tgtOf ga = s1.tgtOf ga → s3.readPieces t.val false [p] = (.inr (v, false), s2) →
        ∃ s', exec (.wstep t rd rs1 rs2) s = .next s' ∧ RegTakes (s2.used t.val [p] y) s' t.val rd.val (BitVec.ofNat 64 v) y ∧
          (s'.thread t.val).pc = ((s2.used t.val [p] y).thread t.val).pc + 4 ∧
          ∃ e ∈ (s'.core (coreOf t.val)).walk, e.1.base = base ∧ e.1.index = index ∧ e.1.val = BitVec.ofNat 64 v))

/-- PREDICTOR_FLUSH and SORREL_ENABLE (R107, R115): at H, the thread's predictor entries, path history and return stack go and the
other thread's entries stay; Sorrel mode is entered where the core's region is READY, and otherwise HCORE keeps its value. Below H
neither has an effect. -/
def Obligations.HcoreWritesTakeEffectAtH : Prop :=
  ∀ (t : Th) (s : State), akz32 t.val = false →
    let x := s.thread t.val
    let c := coreOf t.val
    (s.canIssue t.val = true → x.priv = .h →
      (∃ s', exec (.predictorFlush t) s = .next s' ∧ s'.thread t.val = { x with hist := [], ras := [] } ∧
        s'.core c = { s.core c with dirPred := (s.core c).dirPred.filter (fun e => e.tag.thread != decide (t.val % 2 = 1)),
                                    indPred := (s.core c).indPred.filter (fun e => e.2.tag.thread != decide (t.val % 2 = 1)) } ∧
        (∀ u, u ≠ t.val → s'.thread u = s.thread u) ∧ (∀ d, d ≠ c → s'.core d = s.core d) ∧
        { s' with threads := s.threads, cores := s.cores } = s) ∧
      (∃ s', exec (.sorrelEnable t) s = .next s' ∧
        (s'.thread t.val).csrv 0x830 = (if s.flag F.CL_SRLCTL_READY (t.val / 16) (t.val % 16 / 2) then 1 else x.csrv 0x830) ∧
        (∀ n, n ≠ 0x830 → (s'.thread t.val).csrv n = x.csrv n) ∧ { s'.thread t.val with csr := x.csr } = x ∧
        OnlyThread s s' t.val)) ∧
    (x.priv ≠ .h → exec (.predictorFlush t) s = .next s ∧ exec (.sorrelEnable t) s = .next s)

/-- The words of the manual's two worked encodings, and of one instruction of each format (R56, R59). -/
def Obligations.WordsAsTheManualGivesThem : Prop :=
  ∀ t : Th,
    akzWord (.addi t 5 3 0xFFFE) = some 0x08A3_FFFE ∧ akzWord (.bnei t 7 0 0x7FD) = some 0x84E0_07FD ∧
    akzWord (.add t 1 2 3) = some 0b000001_00001_00010_00011_00000000000 ∧
    akzWord (.sd t 1 2 8) = some 0b010111_00001_00010_0000000000001000 ∧
    akzWord (.beq t 1 2 4) = some 0b011000_00001_00010_0000000000000100 ∧
    akzWord (.lui t 1 3) = some 0b001001_00001_000000000000000000011 ∧
    akzWord (.fmadd t true .rtz 1 2 3 4) = some 0b101101_00001_00010_00011_00100_1_011_00 ∧
    akzWord (.srai t true 1 2 3) = some 0b001000_00001_00010_10_1_0000000_000011 ∧
    akzWord (.iflush t 9) = some 0b100111_00000_01001_000000000000_0010 ∧
    akzWord (.csrrs t 1 0 0x801) = some 0b101110_00001_00000_100000000001_0001 ∧
    akzWord (.tlbiAll t) = some 0b101111_00000_00000_00000_00000000101

/-- A word names one instruction (R56 to R61, R65, R74, R75, R84, R85, R88, R139): two instructions of one thread with the same
word are the same, operand for operand; every word has 32 bits; and no instruction's word is one that AKZ64 reserves, but for
the shifts by an immediate with shamt [5] in a word form. -/
def Obligations.EncodingsNameOneInstruction : Prop :=
  (∀ (i j : Instr) (w : Nat), akzWord i = some w → akzWord j = some w → akzThread i = akzThread j → i = j) ∧
  (∀ (i : Instr) (w : Nat), akzWord i = some w → w < 2 ^ 32) ∧
  (∀ (i : Instr) (w : Nat), akzWord i = some w → (reservedInfo false w = none ↔ reservedShift false i = false))

/-- What every step keeps of the AKZ threads (R55, R84, R89, R90, R92): the pc and the trap-frame pcs are multiples of 4, the low 12
bits of the vector bases read zero, FPSTAT.RM holds no reserved encoding, HDELEG bit 1 reads zero, and TID is a tenant ID. -/
def Obligations.ThreadRegistersStayLegal : Prop :=
  ∀ s s' : State, ThreadsOk s → step s = .next s' → ThreadsOk s'

/-- The same holds right after reset (R90, R100). -/
def Obligations.ThreadRegistersLegalAtReset : Prop := ThreadsOk State.reset

/-! ### Control space -/

/-- Register writes (R7, R8, R10, R375): in a register without a rule of its own, the RW fields take their bits, W1C bits clear where a 1 is
written, every other bit keeps its value, and no other register or state changes; a write where no register lies, and one to a
block whose domain is off, is discarded with a control-access error of cause 1. -/
def Obligations.RegisterWritesFollowAccessTypes : Prop :=
  ∀ (m : Master) (off : BitVec 40) (v : Word) (s : State), MayWrite s m →
    (∀ r b i, ctlPlace off.toNat = .reg r b i → r ∈ plainRegs → s.winOn r.row.win b = true → regReserved r b v = false →
      ∃ s', exec (.registerWrite m off v) s = .next s' ∧
        s'.rd r b i = ((s.rd r b i &&& ~~~r.row.rw) ||| (v &&& r.row.rw)) &&& ~~~(v &&& r.row.w1c) ∧
        OnlyRegs s s' [r.off b i]) ∧
    (s.placeOn (ctlPlace off.toNat) = false → WriteRefused (.registerWrite m off v) s m 1 off.toNat)

/-- Register reads (R10, R459): the value goes to its master and the RC bits return to their reset values; a debug read does the
same, and a quiet one changes nothing; reading KPR_MBOXDB clears DONE (R455). -/
def Obligations.RegisterReadsClearRcBits : Prop :=
  ∀ (m : Master) (off : BitVec 40) (r : Reg) (b i : Nat) (s : State), ctlPlace off.toNat = .reg r b i → r ≠ .THS_TRNG →
    s.winOn r.row.win b = true → s.shows r b i = (s.rd r b i, s) →
    let v := s.rd r b i
    let reads := fun (c : Instr) (m : Master) (off : Nat) (r : Reg) (b i : Nat) => ∃ s', exec c s = .next s' ∧
      s'.out = s.out ++ [.read m off (s.rd r b i)] ∧
      s'.rd r b i = (s.rd r b i &&& ~~~r.row.rc) ||| (r.reset i &&& r.row.rc) ∧
      RegsBut s s' [r.off b i] ∧ { s' with regs := s.regs, out := s.out } = s
    (MayRead s m → (keeperOnly r = true → m = .keeper) → reads (.rcRegisterRead m off) m off.toNat r b i) ∧
    (MayRead s .debug → keeperOnly r = false →
      reads (.debugRead off) .debug off.toNat r b i ∧
      exec (.quietDebugRead off) s = .next (s.emit (.read .debug off.toNat v))) ∧
    (MayRead s m → ∃ s', exec (.mailboxDoneRead m) s = .next s' ∧
      s'.out = s.out ++ [.read m (Reg.off .KPR_MBOXDB 0 0) (s.rd .KPR_MBOXDB)] ∧
      s'.rd .KPR_MBOXDB = s.rd .KPR_MBOXDB &&& ~~~0x20000#64 ∧
      RegsBut s s' [Reg.off .KPR_MBOXDB 0 0] ∧ { s' with regs := s.regs, out := s.out } = s)

/-- The half-word accesses of a pair (R4, R5, R6): a write of the low word is staged; the write of the high word of the same register
performs one 64-bit write; without its low word staged it is discarded with an error of cause 6; a read of the low word
returns it and keeps the high word, which the read of the high word then returns once. -/
def Obligations.HalfWordsMakeOneAccess : Prop :=
  ∀ (k : Akz32) (off : BitVec 40) (lo hi : BitVec 32) (s : State), s.live = true → off.toNat % 8 = 0 →
    let m := akzMaster k
    exec (.akz32LowWordWrite k off lo) s = .next (s.setHalf k (.staged off.toNat lo)) ∧
    (s.half k = .staged off.toNat lo → ∃ s', exec (.akz32HighWordWrite k off hi) s = .next s' ∧
      exec (.registerWrite m off (hi ++ lo)) (s.setHalf k .empty) = .next s' ∧
      ∀ r b i, ctlPlace off.toNat = .reg r b i → r ∈ plainRegs → s.winOn r.row.win b = true → regReserved r b (hi ++ lo) = false →
        s'.rd r b i = ((s.rd r b i &&& ~~~r.row.rw) ||| ((hi ++ lo) &&& r.row.rw)) &&& ~~~((hi ++ lo) &&& r.row.w1c) ∧
          OnlyRegs (s.setHalf k .empty) s' [r.off b i]) ∧
    (s.half k = .empty → WriteRefused (.akz32HighWordWrite k off hi) s m 6 (off.toNat + 4)) ∧
    (∀ v s1, (∀ o w, s.half k ≠ .staged o w) → s.ctlRead m off.toNat false = (.data v false, s1) →
      ∃ s', exec (.akz32LowWordRead k off) s = .next s' ∧ s'.half k = .kept off.toNat ((v >>> 32).setWidth 32) ∧
        s'.out = s1.out ++ [.half k (v.setWidth 32)] ∧ { s' with out := s1.out, holdK := s1.holdK, holdC := s1.holdC } = s1) ∧
    (∀ v, s.half k = .kept off.toNat v →
      exec (.akz32HighWordRead k off) s = .next ((s.setHalf k .empty).emit (.half k v))) ∧
    (s.half k = .empty → ∃ s' s1, exec (.akz32HighWordRead k off) s = .next s' ∧ s' = s1.emit (.half k 0) ∧
      CtlErrorLogged s s1 (stopOf m) false 6 (off.toNat + 4))

/-! ### The tick and the plan -/

/-- The registers of ticking (R18, R21, R33, R47, R48): RUN is set and stays; ACQUIRE reads 0 once RUN is set (the model's reading:
entry 38); CAD_FRAMESET takes a frame before ticking; a timing outside R18 is refused with cause 2, a write while a change
is armed with cause 5; a change is armed or cancelled at least two frames ahead once ticks run. -/
def Obligations.TickRegistersTakeTheirWrites : Prop :=
  ∀ (m : Master) (on : Bool) (v : Word) (s : State), MayWrite s m →
    let run := s.flag F.CAD_CTRL_RUN
    let armed := s.flag F.CAD_STAT_TIMING_ARMED
    let tf := getBits v 9 0
    let sf := getBits v 44 32
    let near := fun (f : Word) => f.toNat < (s.rd .CAD_FRAMECNT).toNat + 2
    let ctl := [Reg.off .CAD_CTRL 0 0, Reg.off .CAD_STAT 0 0]
    (∃ s', exec (.startLocalTick m) s = .next s' ∧ s'.flag F.CAD_CTRL_RUN = true ∧ s'.flag F.CAD_CTRL_ACQUIRE = false ∧
      s'.flag F.CAD_STAT_RUN = true ∧ RegsBut s s' ctl ∧ { s' with regs := s.regs, tick := s.tick } = s) ∧
    (∃ s', exec (.setAcquire m on) s = .next s' ∧ s'.flag F.CAD_CTRL_RUN = run ∧
      s'.flag F.CAD_CTRL_ACQUIRE = (on && !run) ∧ RegsBut s s' ctl ∧ { s' with regs := s.regs, tick := s.tick } = s) ∧
    (run = false → exec (.cadFramesetWrite m v) s = .next { s with tick := { s.tick with frameSet := v } }) ∧
    (run = true → WriteRefused (.cadFramesetWrite m v) s m 5 (Reg.off .CAD_FRAMESET 0 0)) ∧
    (100 ≤ tf → tf ≤ 800 → 1 ≤ sf → sf ≤ 4096 → armed = false →
      ∃ s', exec (.cadTimingNextWrite m v) s = .next s' ∧ s'.fld F.CAD_TIMING_NEXT_TF = tf ∧
        s'.fld F.CAD_TIMING_NEXT_SFLEN = sf ∧ OnlyRegs s s' [Reg.off .CAD_TIMING_NEXT 0 0]) ∧
    ((tf < 100 ∨ 800 < tf ∨ sf = 0 ∨ 4096 < sf) →
      WriteRefused (.cadTimingNextWrite m v) s m 2 (Reg.off .CAD_TIMING_NEXT 0 0)) ∧
    (100 ≤ tf → tf ≤ 800 → 1 ≤ sf → sf ≤ 4096 → armed = true →
      WriteRefused (.cadTimingNextWrite m v) s m 5 (Reg.off .CAD_TIMING_NEXT 0 0)) ∧
    (v ≠ 0 → (run = false ∨ (¬near v ∧ (armed = true → ¬near (s.rd .CAD_TIMING_AT)))) →
      ∃ s', exec (.armTimingChange m v) s = .next s' ∧ s'.rd .CAD_TIMING_AT = v ∧ s'.flag F.CAD_STAT_TIMING_ARMED = true ∧
        OnlyRegs s s' [Reg.off .CAD_TIMING_AT 0 0, Reg.off .CAD_STAT 0 0]) ∧
    (run = true → near v → v ≠ 0 → WriteRefused (.armTimingChange m v) s m 5 (Reg.off .CAD_TIMING_AT 0 0)) ∧
    (run = true → armed = true → ¬near (s.rd .CAD_TIMING_AT) →
      ∃ s', exec (.cancelTimingChange m) s = .next s' ∧ s'.flag F.CAD_STAT_TIMING_ARMED = false ∧
        OnlyRegs s s' [Reg.off .CAD_TIMING_AT 0 0, Reg.off .CAD_STAT 0 0]) ∧
    (run = true → armed = true → near (s.rd .CAD_TIMING_AT) →
      WriteRefused (.cancelTimingChange m) s m 5 (Reg.off .CAD_TIMING_AT 0 0))

/-- The local tick (R20, R21, R23, R33, R38, R41, R43): the first takes CAD_FRAMESET, or the acquired frame and position advanced by
one; a later one adds one to both, and a timing change that is due takes effect and starts a superframe; the sealed plan swaps
in, word by word, or the old one runs again and is counted late; the plan of the frame before governs until the 20 ns point. What
the tick source and the other blocks then do follows on this state. The 20 ns point and the seal deadline each come once in a
frame, and the RAS event of a late run follows the tick that makes it due. -/
def Obligations.LocalTickAdvancesFrameAndPlan : Prop :=
  ∀ s : State, s.live = true →
    let t := s.tick
    let armed := s.flag F.CAD_STAT_TIMING_ARMED
    let due := armed && decide (s.rd .CAD_TIMING_AT = s.rd .CAD_FRAMECNT + 1)
    let ticked := fun (s0 : State) => (∃ s', exec .localTick s = .next s' ∧
        s' = s0.sourceTick.blocksTick (if t.started then some s.tf else none)) ∧
      s0.was = s.cur ∧ s0.wasBad = s.curBad ∧ s0.tick.started = true ∧ s0.tick.frameOff = 0 ∧ s0.tick.sealClosed = false ∧ s0.tick.effectDue = true ∧
      s0.flag F.CAD_STAT_SEALED = false ∧ s0.rd .CAD_SEALSTAT = 0
    (t.started = false → s.flag F.CAD_CTRL_RUN = true → armed = false → t.acq = none →
      ∃ s0, ticked s0 ∧ s0.rd .CAD_FRAMECNT = t.frameSet ∧ s0.rd .CAD_SFPOS = 0 ∧ s0.flag F.CAD_STAT_RUN = true ∧
        s0.cur = s.cur ∧ s0.nxt = s.nxt ∧ s0.threads = s.threads) ∧
    (∀ f p, t.started = false → s.flag F.CAD_CTRL_ACQUIRE = true → armed = false → t.acq = some (f, p) →
      ∃ s0, ticked s0 ∧ s0.rd .CAD_FRAMECNT = f + 1 ∧
        s0.rd .CAD_SFPOS = BitVec.ofNat 64 ((p + 1) % s.fld F.CAD_TIMING_SFLEN) ∧ s0.flag F.CAD_CTRL_RUN = true) ∧
    (t.started = true → s.flag F.CAD_CTRL_RUN = true → ArraysClean s → s.flag F.CAD_STAT_SEALED = true →
      ∃ s0, ticked s0 ∧ s0.rd .CAD_FRAMECNT = s.rd .CAD_FRAMECNT + 1 ∧
        s0.rd .CAD_SFPOS = (if due then 0 else
          BitVec.ofNat 64 (((s.rd .CAD_SFPOS).toNat + 1) % s.fld F.CAD_TIMING_SFLEN)) ∧
        s0.rd .CAD_TIMING = (if due then s.rd .CAD_TIMING_NEXT else s.rd .CAD_TIMING) ∧
        s0.rd .CAD_LATERUN = 0 ∧ s0.tick.fresh = true ∧ (∀ k, mgetD s0.cur k 0 = s.nextWord k) ∧ s0.nxt = [] ∧ s0.wflag = []) ∧
    (t.started = true → s.flag F.CAD_CTRL_RUN = true → s.flag F.CAD_STAT_SEALED = false →
      ∃ s0, ticked s0 ∧ s0.rd .CAD_FRAMECNT = s.rd .CAD_FRAMECNT + 1 ∧ s0.rd .CAD_LATERUN = s.rd .CAD_LATERUN + 1 ∧
        s0.rd .CAD_LATECNT = s.rd .CAD_LATECNT + 1 ∧ s0.flag F.CAD_STAT_PLAN_LATE = true ∧ s0.tick.fresh = false ∧
        s0.cur = s.cur ∧ s0.nxt = s.nxt ∧ s0.wflag = s.wflag) ∧
    (t.lateDue = true → ∃ s', exec .lateRunRasEvent s = .next s' ∧ Records s s' 0x11 150 ∧ s'.tick.lateDue = false) ∧
    (t.effectDue = true → ∃ s', exec .planTakesEffect s = .next s' ∧ s'.scrubbed = [] ∧
      { s' with scrubbed := [] } =
        { (({ s with tick := { t with effectDue := false }, was := [], wasBad := [] } : State).reloadAll.fabricTwenty).applyCaps with
          scrubbed := [] }) ∧
    (t.effectDue = false → exec .planTakesEffect s = .next s) ∧
    (t.started = true → t.sealClosed = false →
      ∃ s', exec .sealDeadline s = .next s' ∧
        s' = (({ s with tick := { t with sealClosed := true } } : State).scrubDeadline).creditDeadline)

/-- Writing and sealing the next bank (R36 to R40, R49): Keeper and Cadence write words of the next bank, which alone change; another
master's write is refused with cause 4, and one after an accepted seal with cause 5; the image of the current bank takes none.
A seal is judged in the order of the rule, and its result shows in CAD_SEALSTAT. -/
def Obligations.PlanIsWrittenAndSealed : Prop :=
  ∀ (m : Master) (off : BitVec 24) (v : Word) (s : State), MayWrite s m →
    let o := off.toNat
    let t := o / 0x10_0000 - 1
    let i := o % 0x10_0000 / 8
    let next := decide (0x10_0000 ≤ o ∧ o < 0x70_0000 ∧ o % 8 = 0)
    let seald := fun (res table detail : Nat) (acc : Bool) => ∃ s', exec (.cadSeal m v) s = .next s' ∧
      getBits (s'.rd .CAD_SEALSTAT) 2 0 = res ∧ getBits (s'.rd .CAD_SEALSTAT) 5 3 = table % 8 ∧
      (detail < 2 ^ 16 → getBits (s'.rd .CAD_SEALSTAT) 31 16 = detail) ∧
      s'.flag F.CAD_STAT_SEALED = (acc || s.flag F.CAD_STAT_SEALED) ∧
      OnlyRegs s s' [Reg.off .CAD_SEALSTAT 0 0, Reg.off .CAD_STAT 0 0]
    (next = true → (m = .keeper ∨ m = .cadence) → s.flag F.CAD_STAT_SEALED = false → ArraysClean s →
      ∃ s', exec (.planTableWrite m off v) s = .next s' ∧ s'.planNext t i = v ∧
        (∀ k, k ≠ tableBase t + i → s'.nextWord k = s.nextWord k) ∧
        { s' with nxt := s.nxt, wflag := s.wflag } = s) ∧
    (next = true → m ≠ .keeper → m ≠ .cadence → WriteRefused (.planTableWrite m off v) s m 4 (0x0100_0000 + o)) ∧
    (next = true → (m = .keeper ∨ m = .cadence) → s.flag F.CAD_STAT_SEALED = true →
      WriteRefused (.planTableWrite m off v) s m 5 (0x0100_0000 + o)) ∧
    (0x90_0000 ≤ o → o < 0xF0_0000 → o % 8 = 0 → exec (.planTableWrite m off v) s = .next s) ∧
    (s.tick.started = false → seald 6 0 0 false) ∧
    (s.tick.started = true → s.tick.sealClosed = true → seald 2 0 0 false) ∧
    (s.tick.started = true → s.tick.sealClosed = false → v ≠ s.rd .CAD_FRAMECNT + 1 → seald 3 0 0 false) ∧
    (s.tick.started = true → s.tick.sealClosed = false → v = s.rd .CAD_FRAMECNT + 1 →
      (s.flag F.CAD_STAT_SEALED = true → seald 4 0 0 false) ∧
      (s.flag F.CAD_STAT_SEALED = false → ∀ tab d, s.planFails = some (tab, d) → tab < 6 → seald 5 tab d false) ∧
      (s.flag F.CAD_STAT_SEALED = false → s.planFails = none → seald 1 0 0 true))

/-- Tick inputs and the monitor (R24 to R27, R29 to R34): an edge within 100 ns of the tick is noted, and only then; a marker of an
ACTIVE link is noted with its time at the sender; edges within 20 ns are agreement, and with the fault inactive the source is then
PRIMARY; both missing is loss, and without a majority the oscillator drives the tick; a disagreement that has not raised the fault
already starts the discrepancy count, to which each evaluation adds the cycles of the frame that ended; it raises the fault at N
frames or is filtered and recorded; each fault is reported once; acquisition takes the
largest group of at least three markers. -/
def Obligations.TickMonitorJudgesSources : Prop :=
  ∀ (inp : TickInput) (ns : Int) (port : Fin 144) (frame : Word) (pos : BitVec 12) (s : State), s.live = true →
    let t := s.tick
    (-100 ≤ ns → ns ≤ 100 → ∃ s', exec (.tickEdge inp ns) s = .next s' ∧
      s'.tick = (match inp with | .a => { t with edgeA := some ns } | .b => { t with edgeB := some ns }) ∧
      { s' with tick := t } = s) ∧
    ((ns < -100 ∨ 100 < ns) → exec (.tickEdge inp ns) s = .next s) ∧
    (s.linkUp port.val = true → 3 ≤ s.pfld F.LE_PORTSTAT_VER port.val →
      (t.started = false ∨ BitVec.ofNat 64 pos.toNat = s.rd .CAD_SFPOS) →
      exec (.speedwellMarkerReceive port frame pos ns) s = .next { s with tick := { t with markers := t.markers ++
        [⟨port.val, frame, pos.toNat, 2 * ns - sexNat 24 (s.pfld F.LE_PORTDLY_DLY port.val)⟩] } }) ∧
    (t.started = true → t.fault = false → t.lossHold = false → t.disc = none → ∀ a b, t.edgeA = some a → t.edgeB = some b →
      (a - b).natAbs ≤ 20 →
      ∃ s', exec .tickMonitorEvaluation s = .next s' ∧ s'.tick.source = s.primary ∧ s'.tick.agree = t.agree + 1 ∧
        s'.tick.edgeA = none ∧ s'.tick.edgeB = none ∧ s'.tick.markers = [] ∧ s'.tick.fault = false ∧
        OnlyRegs { s with tick := s'.tick } s' [Reg.off .CAD_TMON 0 0]) ∧
    (t.started = true → t.fault = false → t.disc = none → t.edgeA = none → t.edgeB = none → t.markers = [] →
      ∃ s', exec .tickMonitorEvaluation s = .next s' ∧ s'.tick.source = .osc ∧ s'.tick.lossHold = true ∧ s'.tick.agree = 0) ∧
    (t.started = true → t.fault = false → t.edgeA.isSome = true → t.edgeB = none →
      (t.disc = none → t.spent = false →
        ∃ s', exec .tickMonitorEvaluation s = .next s' ∧ s'.tick.disc = some 0 ∧ s'.tick.fault = false) ∧
      (∀ n, t.disc = some n → s.keepFld 0 11 8 * s.fld F.CAD_TIMING_TF ≤ n + t.evalTf →
        ∃ s', exec .tickMonitorEvaluation s = .next s' ∧ s'.tick.disc = none ∧ s'.tick.fault = true ∧ s'.tick.faultDue = true)) ∧
    (t.started = true → ∀ n a b, t.disc = some n → t.edgeA = some a → t.edgeB = some b → (a - b).natAbs ≤ 20 →
      n + t.evalTf < s.keepFld 0 11 8 * s.fld F.CAD_TIMING_TF →
      ∃ s', exec .tickMonitorEvaluation s = .next s' ∧ s'.tick.disc = none ∧ Records s s' 0x0F 154 ∧
        s'.rd .CAD_TDISCCNT = s.rd .CAD_TDISCCNT + 1) ∧
    (t.faultDue = true → ∃ s', exec .tickDiscrepancyFault s = .next s' ∧ s'.tick.faultDue = false ∧
      s'.flag F.CAD_STAT_TDISC_FAULT = true ∧ s'.rd .CAD_TFAULTCNT = s.rd .CAD_TFAULTCNT + 1) ∧
    (t.freeDue = true → ∃ s', exec .tickFreerun s = .next s' ∧ s'.tick.freeDue = false ∧
      s'.flag F.CAD_STAT_TICK_FREERUN = true ∧ Records s s' 0x10 154) ∧
    (∀ f, t.clearAt = some f → f.toNat ≤ (s.rd .CAD_FRAMECNT).toNat →
      ∃ s', exec .tickFaultClear s = .next s' ∧ s'.tick.fault = false ∧ s'.tick.lossHold = false ∧
        s'.flag F.CAD_STAT_TICK_HOLD = false ∧ s'.flag F.CAD_STAT_TICK_FREERUN = false ∧
        OnlyRegs { s with tick := s'.tick } s' [Reg.off .CAD_STAT 0 0]) ∧
    (t.missDue = true → ∃ s', exec .fcntMismatch s = .next s' ∧ s'.tick.missDue = false ∧
      s'.flag F.CAD_STAT_FCNT_MISMATCH = true ∧ s'.rd .CAD_FCMISCNT = s.rd .CAD_FCMISCNT + 1) ∧
    (s.flag F.CAD_CTRL_ACQUIRE = true → t.started = false → ∀ k l : Marker, t.evalMarks = [k, k, k, l] →
      exec .frameAcquisition s = .next { s with tick := { t with acq := some (k.frame, k.sfpos) } })

/-- The Cadence pair (R44, R441, R453): a mismatch stops the pair and is recorded with KIND 0x0E, and Keeper firmware may then restart
it; without a failure neither has an effect. -/
def Obligations.CadencePairFailsAndRestarts : Prop :=
  ∀ s : State, s.live = true →
    let r := (s.thread 513).run
    (r ≠ .off → r ≠ .stopped → ∃ s', exec .cadenceLockstepMismatch s = .next s' ∧ (s'.thread 513).run = .stopped ∧
      s'.board.cadFail = true ∧ Records s s' 0x0E 149 ∧ (∀ u, u ≠ 513 → s'.thread u = s.thread u)) ∧
    ((r = .off ∨ r = .stopped) → exec .cadenceLockstepMismatch s = .next s) ∧
    (s.board.cadFail = true → ∃ s', exec .cadenceRestart s = .next s' ∧ (s'.thread 513).pc = 0x10_0000 ∧
      (s'.thread 513).run = .running ∧ (s'.thread 513).reg 1 = 4 ∧ s'.board.cadFail = false ∧
      s'.flag F.CAD_STAT_LOCKSTEP = true ∧ (∀ u, u ≠ 513 → s'.thread u = s.thread u)) ∧
    (s.board.cadFail = false → exec .cadenceRestart s = .next s)

/-! ### Link engines and links -/

/-- Control stores and the microcode switch (R320 to R324, R327): a shadow microword is written in two halves by Keeper; a copy
mirrors the active bank; a thread issues the word at its address and sequences; a word of two bad bits in both banks halts the
engine; a switch is armed two frames ahead, swaps the banks when every thread holds, and ends, is abandoned, reverted or cancelled
(cancelled while it holds, its banks are as they were: entry 156). The clauses on its end are for ports where no traffic waits. The
code of each SEQ value is open (entry 21), so the sequencing is stated over what the code means. -/
def Obligations.MicrocodeIsWrittenRunAndSwitched : Prop :=
  ∀ (m : Master) (le : Fin 36) (i : Fin 32768) (v lo : Word) (th : Fin 4) (cond : Bool) (disp : BitVec 14) (s : State),
    let n := le.val
    let x := s.le n
    let a := s.leBank n
    let armed := s.flag F.LE_UCSWSTAT_ARMED n
    let stat := Reg.off .LE_STAT n 0
    let sw := Reg.off .LE_UCSWSTAT n 0
    let shadow := Win.le.base n + 0x10_0000 + 8 * i.val
    let quiet := ∀ p ∈ s.leLinks n, (s.port p).renegDue = false ∧ s.ethPort p = false ∧ (s.port p).inMsg = [] ∧ (s.port p).inq = []
    let ended := fun (s' : State) (bank : Nat) (l : List Nat) => s'.flag F.LE_UCSWSTAT_ARMED n = false ∧
      s'.leBank n = bank ∧ (s'.le n).holding = false ∧ (s'.le n).swapped = false ∧
      (∀ b j, (s'.le n).word b j = x.word b j) ∧ (∀ k, k ≠ n → s'.le k = s.le k) ∧ (∀ p, s'.port p = s.port p) ∧
      OnlyRegs { s with les := s'.les, ports := s'.ports, free := s'.free } s' l
    let ends := fun (c : Instr) (ok : Bool) (bank : Nat) (l : List Nat) => ∃ s', exec c s = .next s' ∧
      s'.flag (if ok then F.LE_UCSWSTAT_DONE else F.LE_UCSWSTAT_ABORTED) n = true ∧ ended s' bank l
    (MayWrite s m → s.winOn .le n = true →
      (armed = false → m = .keeper → i.val % 2 = 0 →
        exec (.shadowMicrowordWrite m le i v) s = .next (s.setLe n { x with staged := some (i.val / 2, v) })) ∧
      (armed = false → m = .keeper → i.val % 2 = 1 → x.staged = some (i.val / 2, lo) → s.flag F.ERR_FLIPMASK_ARM 0 (112 + n) = false →
        ∃ s', exec (.shadowMicrowordWrite m le i v) s = .next s' ∧ s'.flag F.LE_STAT_MIRRORED n = false ∧ s'.leBank n = a ∧
          (s'.le n).word (1 - a) (i.val / 2) = ⟨v ++ lo, 0⟩ ∧ (∀ j, (s'.le n).word a j = x.word a j) ∧
          (∀ j, j ≠ i.val / 2 → (s'.le n).word (1 - a) j = x.word (1 - a) j) ∧
          OnlyRegs { s with les := s'.les } s' [stat]) ∧
      (armed = true → m = .keeper → WriteRefused (.shadowMicrowordWrite m le i v) s m 5 shadow) ∧
      (m ≠ .keeper → WriteRefused (.shadowMicrowordWrite m le i v) s m 4 shadow) ∧
      (armed = false → ∃ s', exec (.controlStoreCopy m le) s = .next s' ∧ s'.flag F.LE_STAT_COPYBUSY n = true ∧ OnlyRegs s s' [stat]) ∧
      (armed = true → WriteRefused (.controlStoreCopy m le) s m 5 (Reg.off .LE_CTL n 0)) ∧
      (armed = false → s.frame.toNat + 2 ≤ v.toNat → ∃ s', exec (.armMicrocodeSwitch m le v) s = .next s' ∧ s'.rd .LE_UCSW n = v ∧
        s'.flag F.LE_UCSWSTAT_ARMED n = true ∧ OnlyRegs s s' [Reg.off .LE_UCSW n 0, sw]) ∧
      ((armed = true ∨ v.toNat < s.frame.toNat + 2) → WriteRefused (.armMicrocodeSwitch m le v) s m 5 (Reg.off .LE_UCSW n 0)) ∧
      (armed = true → x.holding = false → x.swapped = false → quiet → ∃ s', exec (.cancelMicrocodeSwitch m le) s = .next s' ∧ ended s' a [sw]) ∧
      (armed = true → x.holding = true → quiet → ∃ s', exec (.cancelMicrocodeSwitch m le) s = .next s' ∧
        (∀ f ∈ [F.LE_UCSWSTAT_DONE, F.LE_UCSWSTAT_ABORTED], s'.flag f n = s.flag f n) ∧
        ended s' (if x.swapped then 1 - a else a) [sw, stat])) ∧
    (s.flag F.LE_STAT_COPYBUSY n = true → s.flag F.LE_STAT_HALTED n = false → (∀ j, (x.word a j).bad = 0) →
      ∃ s', exec (.controlStoreCopyDone le) s = .next s' ∧ s'.flag F.LE_STAT_COPYBUSY n = false ∧
        s'.flag F.LE_STAT_MIRRORED n = true ∧ s'.leBank n = a ∧
        (∀ j, (s'.le n).word (1 - a) j = x.word a j ∧ (s'.le n).word a j = x.word a j) ∧
        OnlyRegs { s with les := s'.les } s' [stat]) ∧
    (∀ y, mget x.thr th.val = some y → s.flag F.LE_STAT_HALTED n = false → s.ucParked n th.val = false → y.holding = false →
      let w := (x.word a y.addr).w
      let op := (Config.ucSeq (BitVec.ofNat 4 (ucBits w 125 122))).val
      let next := (y.addr + 1) % 16384
      let target := ucBits w 121 108
      let bad := (x.word a y.addr).bad
      (bad = 0 → op ≠ 9 → x.swapped = false → ∃ s' z, exec (.microwordIssue le th cond disp) s = .next s' ∧
        mget (s'.le n).thr th.val = some z ∧ z.turns = ucBits w 127 126 + 1 ∧
        (op = 0 → z.addr = next) ∧ (op = 1 → z.addr = target) ∧ (op = 2 → z.addr = if cond then target else next) ∧
        (op = 3 → z.addr = target ∧ z.stack = next :: y.stack) ∧ (∀ r l, op = 4 → y.stack = r :: l → z.addr = r ∧ z.stack = l) ∧
        (op = 5 → z.addr = disp.toNat) ∧ (op = 6 → z.addr = if cond then next else y.addr) ∧
        (op = 7 → if x.holding then z.holding = true else z.addr = next) ∧
        (op ≠ 3 → op ≠ 4 → z.stack = y.stack) ∧ (∀ j, j ≠ th.val → mget (s'.le n).thr j = mget x.thr j) ∧
        { s' with les := s.les, free := s.free } = s) ∧
      (bad = 0 → op = 8 → x.swapped = true → quiet →
        (∀ t, t < 4 → t ≠ th.val → s.ucParked n t = true ∨ ∃ z, mget x.thr t = some z ∧ z.released = true) →
        ends (.microwordIssue le th cond disp) true a [sw]) ∧
      (bad = 2 → (s.flag F.LE_STAT_MIRRORED n = false ∨ 2 ≤ (x.word (1 - a) y.addr).bad) →
        ∃ s', exec (.microwordIssue le th cond disp) s = .next s' ∧ s'.flag F.LE_STAT_HALTED n = true ∧ Records s s' 0x09 (112 + n))) ∧
    (x.holding = true → x.swapped = false → s.ucAll n (fun z => z.holding) = true →
      (∀ p ∈ s.leLinks n, ¬(3 ≤ s.linkSt p ∧ s.linkSt p ≤ 5)) →
      ∃ s', exec (.microcodeBankSwap le) s = .next s' ∧ s'.leBank n = 1 - a ∧ s'.flag F.LE_STAT_MIRRORED n = false ∧
        (s'.le n).swapped = true ∧ (∀ b j, (s'.le n).word b j = x.word b j) ∧
        (∀ t, t < 4 → s.ucParked n t = false → ∃ z, mget (s'.le n).thr t = some z ∧ z.addr = 0 ∧ z.holding = false) ∧
        OnlyRegs { s with les := s'.les } s' [stat]) ∧
    (x.holding = true → x.swapped = false → quiet → ends (.microcodeSwitchAbandon le) false a [sw]) ∧
    (x.swapped = true → quiet → ends (.microcodeSwitchRevert le) false (1 - a) [sw, stat])

/-- Configuration and negotiation of a link (R300 to R309, R328): LE_PORTCFG takes its fields unless one is reserved; RENEG, a timeout
and a loss of lock take a link to DOWN and count it; SIGNAL, three equal advertisements, training, sixteen delay probes and the key
agreement take it on to ACTIVE or to the management-only state. Each clause names a link that nothing else holds back. -/
def Obligations.LinksNegotiateByState : Prop :=
  ∀ (m : Master) (p : Fin 144) (v : Word) (adv : Adv) (t1 t2 t3 t4 locked : Nat) (ok : Bool) (s : State),
    let n := p.val / 4
    let t := p.val % 4
    let q := p.val
    let x := s.port q
    let cfg := Reg.off .LE_PORTCFG n t
    let stat := Reg.off .LE_PORTSTAT n t
    let isSt := fun (l : LinkState) => s.linkSt q = l.code
    let encOk := s.encReq = false ∨ s.featOn q 1 = true
    let goes := fun (c : Instr) (l : LinkState) (regs : List Nat) => ∃ s', exec c s = .next s' ∧ s'.linkSt q = l.code ∧
      (∀ k, k ≠ q → s'.port k = s.port k) ∧ OnlyRegs { s with ports := s'.ports, out := s'.out, sec := s'.sec } s' regs
    let falls := fun (c : Instr) (backoff : Bool) => ∃ s', exec c s = .next s' ∧ s'.pfld F.LE_PORTSTAT_VER q = 0 ∧
      (backoff = true → s'.linkSt q = 0) ∧ (backoff = false → Restarts s' q) ∧
      s'.rd .LE_PORTDOWNCNT n t = s.rd .LE_PORTDOWNCNT n t + 1 ∧
      s'.port q = { Port.initial with backoff := backoff, sak := x.sak } ∧ (∀ k, k ≠ q → s'.port k = s.port k) ∧
      OnlyRegs { s with ports := s'.ports } s' [stat, Reg.off .LE_PORTDOWNCNT n t]
    let mgmtFor := fun (c : Instr) (why : Nat) => ∃ s', exec c s = .next s' ∧ s'.linkSt q = 7 ∧ s'.pfld F.LE_PORTSTAT_REASON q = why ∧
      s'.pfld F.LE_PORTSTAT_VER q = 2 ∧ OnlyRegs { s with ports := s'.ports } s' [stat, Reg.off .LE_PORTADV n t]
    (MayWrite s m → s.winOn .le n = true → s.lane0 q = q →
      (portCfgReserved q v = false → F.LE_PORTCFG_RENEG.of v = 0 → s.bondDown q = true → s.pfld F.LE_PORTCFG_EN q = 0 →
        s.linkSt q = 0 → x.backoff = false → (∀ k, k < 2 ^ F.LE_PORTCFG_BOND.of v → s.pciePort (q + k) = false) →
        ∃ s', exec (.portConfigWrite m p v) s = .next s' ∧
          s'.rd .LE_PORTCFG n t = v &&& Reg.LE_PORTCFG.row.rw ∧ (F.LE_PORTCFG_EN.of v = 0 → s'.linkSt q = 0) ∧
          (s'.lane0 q = q → Restarts s' q) ∧ OnlyRegs s s' [cfg, stat]) ∧
      (portCfgReserved q v = true → WriteRefused (.portConfigWrite m p v) s m 2 cfg) ∧
      (portCfgReserved q (s.rd .LE_PORTCFG n t ||| 0x80) = false → (s.rd .LE_PORTCFG n t &&& ~~~Reg.LE_PORTCFG.row.rw) = 0 →
        s.linkSt q ≠ 0 → (∀ k ∈ s.lanes q, s.flag F.LE_UCSWSTAT_ARMED (k / 4) = false) → ∃ s', exec (.reneg m p) s = .next s' ∧ Restarts s' q ∧
          s'.rd .LE_PORTCFG n t = s.rd .LE_PORTCFG n t ∧ s'.rd .LE_PORTDOWNCNT n t = s.rd .LE_PORTDOWNCNT n t + 1)) ∧
    (x.backoff = true → s.linkSt q = 0 → ∃ s', exec (.linkBackoffExpiry p) s = .next s' ∧ Restarts s' q ∧
      s'.port q = { x with backoff := false } ∧ (∀ k, k ≠ q → s'.port k = s.port k) ∧ OnlyRegs { s with ports := s'.ports } s' [stat]) ∧
    (isSt .signal → goes (.linkSignalDetected p) .advert [stat]) ∧
    (isSt .advert → (x.adv ≠ some adv →
        exec (.advertisementReceive p adv) s = .next (s.setPort q { x with adv := some adv, advCnt := 1 })) ∧
      (∀ c, x.advCnt = c → x.adv = some adv → c < 2 →
        exec (.advertisementReceive p adv) s = .next (s.setPort q { x with advCnt := c + 1 })) ∧
      (x.adv = some adv → 2 ≤ x.advCnt →
        let lo := max s.advMin adv.minV.toNat
        let hi := min (s.advMax q) adv.maxV.toNat
        let feats := featActive (s.advFeat q) adv.feat.toNat hi
        (hi < lo → adv.maxV.toNat < s.advMin → mgmtFor (.advertisementReceive p adv) 1) ∧
        (hi < lo → s.advMin ≤ adv.maxV.toNat → mgmtFor (.advertisementReceive p adv) 2) ∧
        (lo ≤ hi → (s.encReq || adv.encReq) = true → feats.testBit 1 = false → mgmtFor (.advertisementReceive p adv) 3) ∧
        (lo ≤ hi → hi ≤ 7 → ((s.encReq || adv.encReq) = false ∨ feats.testBit 1 = true) → ∃ s',
          exec (.advertisementReceive p adv) s = .next s' ∧ s'.linkSt q = 3 ∧ s'.pfld F.LE_PORTSTAT_VER q = hi ∧
            s'.pfld F.LE_PORTSTAT_FEATACT q = feats ∧ (s'.port q).width = min (s.bondLanes q) (2 ^ adv.bond.toNat) ∧
            s'.rd .LE_PORTADV n t = advWord adv ∧ OnlyRegs { s with ports := s'.ports } s' [stat, Reg.off .LE_PORTADV n t]))) ∧
    (isSt .train → (3 ≤ s.pfld F.LE_PORTSTAT_VER q → goes (.trainingDone p) .delay [stat]) ∧
      (s.pfld F.LE_PORTSTAT_VER q < 3 → encOk → goes (.trainingDone p) .active [stat])) ∧
    (isSt .delay →
      (∃ s', exec (.delayProbe p none t2 t3 t4) s = .next s' ∧ s' = s.emit (.echo q t2 t3)) ∧
      (x.probes < 16 → ∃ s', exec (.delayProbe p (some t1) t2 t3 t4) s = .next s' ∧ s'.port q = { x with
          probes := x.probes + 1
          best := some (let d := (((t4 : Int) - t1) - ((t3 : Int) - t2)).tdiv 2
            match x.best with | some b => min b d | none => d) } ∧
        (∀ k, k ≠ q → s'.port k = s.port k) ∧ s'.out = (if x.probes < 15 then s.out ++ [.probe q] else s.out) ∧
        { s' with ports := s.ports, out := s.out } = s) ∧
      (16 ≤ x.probes → s.featOn q 1 = true → goes (.delayDone p) .keyx [stat, Reg.off .LE_PORTDLY n t]) ∧
      (16 ≤ x.probes → s.featOn q 1 = false → encOk → goes (.delayDone p) .active [stat, Reg.off .LE_PORTDLY n t]) ∧
      (x.probes < 16 → exec (.delayDone p) s = .next s)) ∧
    (isSt .keyx →
      (encOk → s.sec.rack.isSome = true → s.flag F.THS_STAT_TRNGFAIL = false → goes (.keyAgreementDone p true) .active [stat]) ∧
      ((s.sec.rack = none ∨ s.flag F.THS_STAT_TRNGFAIL = true ∨ ok = false) → mgmtFor (.keyAgreementDone p ok) 4) ∧
      mgmtFor (.linkStateTimeout p locked) 4) ∧
    (isSt .signal ∨ isSt .advert ∨ isSt .delay → falls (.linkStateTimeout p locked) true) ∧
    (isSt .train → 1 ≤ min locked (x.width - 1) → exec (.linkStateTimeout p locked) s =
      .next (s.setPort q { x with width := pow2Floor (min locked (x.width - 1)) })) ∧
    (isSt .active ∨ isSt .mgmt → falls (.fecLockLost p) false)

/-- Links in service (R310, R316, R324, R393, R473): a management message is passed on, or kept while a microcode switch holds the
port; where a rekey is due, new keys serve at a frame at least four ahead, and
a failed exchange takes the link down; a missing SerDes reference shows in SDREF_OK, and its return does; a PCI Express link
whose MODE is set, and which containment does not hold, enters L0 at a rate and width that its configuration bounds, and a link leaves
L0, for L1 or not. -/
def Obligations.LinksInService : Prop :=
  ∀ (p : Fin 144) (k : Fin 4) (l : Fin 8) (gen lanes : Nat) (there : Bool) (msg : List Byte) (f : Word) (s : State),
    let q := p.val
    let x := s.port q
    let active := s.linkSt q = LinkState.active.code ∧ s.featOn q 1 = true
    let bits := s.fld F.KPR_SUPSTAT_SDREF_OK
    (active ∨ s.linkSt q = 7 →
      (s.portHeld q = false → exec (.managementMessageReceive p msg) s = .next (s.emit (.linkMsg q msg))) ∧
      (s.portHeld q = true → exec (.managementMessageReceive p msg) s = .next (s.setPort q { x with inMsg := x.inMsg ++ [msg] }))) ∧
    (active → s.rekeyDue q = true → s.sec.rack.isSome = true → s.flag F.THS_STAT_TRNGFAIL = false → x.rekeyAt = none → s.frame.toNat + 4 ≤ f.toNat →
      exec (.linkRekey p f) s = .next (s.setPort q { x with rekeyAt := some f })) ∧
    (f.toNat < s.frame.toNat + 4 → exec (.linkRekey p f) s = .next s) ∧
    (active → ∃ s', exec (.linkRekeyFailure p) s = .next s' ∧ Restarts s' q ∧
       s'.rd .LE_PORTDOWNCNT (q / 4) (q % 4) = s.rd .LE_PORTDOWNCNT (q / 4) (q % 4) + 1 ∧ (s'.port q).keys = none) ∧
    (∃ s', exec (.sdrefMissing k) s = .next s' ∧ s'.board.sdMissing = s.board.sdMissing ||| (1#4 <<< k.val) ∧
      s'.fld F.KPR_SUPSTAT_SDREF_OK = (bits % 16 &&& (15 - 2 ^ k.val)) ∧
      (∀ j, j < 36 → s.lane0 (36 * k.val + j) = 36 * k.val + j → s'.linkSt (36 * k.val + j) = 0) ∧
      (∀ j, j < 8 → 36 * k.val < 8 * j + 8 → 8 * j < 36 * k.val + 36 → (s'.link j).l0 = false) ∧
      (∀ j, ¬(36 * k.val < 8 * j + 8 ∧ 8 * j < 36 * k.val + 36) → s'.link j = s.link j)) ∧
    (∃ s', exec (.sdrefRestored k) s = .next s' ∧ s'.board.sdMissing = s.board.sdMissing &&& ~~~(1#4 <<< k.val) ∧
      s'.fld F.KPR_SUPSTAT_SDREF_OK = (bits ||| 2 ^ k.val) ∧ s'.ports = s.ports ∧
      (∀ j, j < 36 → s.linkSt (36 * k.val + j) = 0 → (s.port (36 * k.val + j)).backoff = false → Restarts s' (36 * k.val + j)) ∧
      (∀ j, j < 144 → s.linkSt j ≠ 0 → s'.linkSt j = s.linkSt j)) ∧
    (let y := s.link l.val
      let most := if s.flag F.LE_PCIECFG_X16 (2 * l.val) then 16 else 8
      (s.fld F.LE_PCIECFG_MODE (2 * l.val) ≠ 0 → s.domOn (71 + 8 * l.val / 12) = true → Config.rootContains y.root = false →
        exec (.pcieLinkStateChange l (.l0 gen lanes)) s = .next (s.setLink l.val { y with l0 := true, root := { y.root with
          l1 := false, present := true, gen := min gen (s.fld F.LE_PCIECFG_MAXGEN (2 * l.val)), lanes := min lanes most } })) ∧
      exec (.pcieLinkStateChange l .l1) s = .next (s.setLink l.val { y with l0 := false, root := { y.root with l1 := y.l0 } }) ∧
      exec (.pcieLinkStateChange l (.down there)) s =
        .next (s.setLink l.val { y with l0 := false, root := { y.root with l1 := false, present := there } }))

/-! ### Memory channels -/

/-- The stored formats lose nothing (R249, R250): a superline that a format of codes 0x0 to 0x8 holds is what its decoder reads from
the image; and whatever format a write without Cowslip chooses (R251), the decoder reads the superline written. -/
def Obligations.TeaselFormatsLoseNothing : Prop :=
  ∀ (c : Nat) (d : Superline) (teasel rawOnly : Bool) (codec : BitVec 4),
    (teaselHolds c d = true → teaselDecode c (teaselImage c d) = d) ∧
    (cwOf codec = none → decodeImage (encodeSuper teasel codec rawOnly d).1 (encodeSuper teasel codec rawOnly d).2 = d) ∧
    (rawOnly = true → encodeSuper teasel codec rawOnly d = (1, d))

/-- Requests at a channel that carries out commands (R225, R253, R255, R274 to R277): a read that is served at once answers the superline
its master's key and tweak decode, with the poisoned sectors of those it returns; a write merges its bytes and leaves every other
superline; queued, a read waits in its queue and a write is answered and waits, or either waits at the mesh stop for room; a command
boundary takes C0 reads first; a limit of the write queue is judged. The clauses are about an unmirrored superline without a bad
burst, a loaded key, and arrays without errors. -/
def Obligations.ChannelsServeSuperlines : Prop :=
  ∀ (m : Master) (ch : Fin 16) (r : Req) (hi : Bool) (v : Word) (s : State),
    let c := ch.val
    let sl := r.sline.toNat
    let x := s.chan c
    let l := x.line sl
    let key := s.sealOf c sl r.tid.val
    let jobs := fun (s' : State) => ∀ n, ∃ u, s'.engine n = { s.engine n with job := (s.engine n).job.map (fun j => { j with used := u }) }
    let others := fun (s' : State) => (∀ d, d ≠ c → s'.chan d = s.chan d) ∧ jobs s' ∧
      { s' with regs := s.regs, chans := s.chans, ledger := s.ledger, out := s.out, engines := s.engines } = s
    let ready := s.chanUp c = true ∧ s.mirroredAt c sl = false ∧ s.keyLoaded (mcSlot c) r.tid.val = true
    let clean := ArraysClean s ∧ l.code.toNat < 12 ∧ l.bad = [] ∧ (l.code = 0 ∨ l.keys = key) ∧ mgetD x.mdErr (mdLine sl) 0 = 0
    let q := fun (write : Bool) => s.arriving r write
    let entry := fun (write : Bool) => { q write with seq := x.arrivals, inWin := !write && s.flag F.MC_STAT_C0WIN c }
    (ready → clean → s.waiting c sl = [] →
      (let ue : BitVec 4 := (if l.code.toNat ≤ 1 then l.poison else 0) &&& (if l.code = 1 then r.sect else 0xF);
        (if r.c0 then x.c0q.length < 16 else x.rdq.length < 64) →
        ∃ s', exec (.superlineRead ch r .atOnce) s = .next s' ∧
          s'.out = s.out ++ [.mem r.src (if ue = 0 then .ok else .poisoned) ue (l.plain key)] ∧
          (r.c0 = true → 4 ≤ x.c0q.length → s'.rd .MC_C0DEEPCNT c = s.rd .MC_C0DEEPCNT c + 1) ∧
          (s'.chan c).sl = x.sl ∧ (s'.chan c).c0q = x.c0q ∧ (s'.chan c).rdq = x.rdq ∧ (s'.chan c).wrq = x.wrq ∧ others s') ∧
      (l.poison = 0 → cwOf r.codec = none → x.wrq.length < 128 → ∃ s', exec (.superlineWrite ch r .atOnce) s = .next s' ∧
        s'.out = s.out ++ [.mem r.src .ok 0 0] ∧
        ((s'.chan c).line sl).plain key = mergeBytes (l.plain key) r.data r.mask ∧ ((s'.chan c).line sl).poison = 0 ∧
        (∀ k, k ≠ sl → (s'.chan c).line k = x.line k) ∧ (s'.chan c).wrq = x.wrq ∧ others s')) ∧
    (ready →
      (s.hasRoom c (q false) = true → ∃ s', exec (.superlineRead ch r .queued) s = .next s' ∧
        (s'.chan c).c0q = (if r.c0 then x.c0q ++ [entry false] else x.c0q) ∧
        (s'.chan c).rdq = (if r.c0 then x.rdq else x.rdq ++ [entry false]) ∧
        (r.c0 = true → 4 ≤ x.c0q.length → s'.rd .MC_C0DEEPCNT c = s.rd .MC_C0DEEPCNT c + 1) ∧
        (s'.chan c).sl = x.sl ∧ s'.out = s.out ∧ others s') ∧
      (s.hasRoom c (q true) = true → ∃ s', exec (.superlineWrite ch r .queued) s = .next s' ∧ s'.out = s.out ++ [.mem r.src .ok 0 0] ∧
        (r.c0 = false → (s'.chan c).wrq = x.wrq ++ [entry true]) ∧
        (∀ e, e ∈ (s'.chan c).wrq ↔ e ∈ x.wrq ∨ e = entry true) ∧
        (s.fld F.MC_WQ_HI_LEVEL c ≤ min 128 (x.wrq.length + 1) → s'.flag F.MC_QSTAT_DRAIN c = true) ∧
        (s'.chan c).sl = x.sl ∧ others s') ∧
      (s.hasRoom c (q false) = false →
        exec (.superlineRead ch r .queued) s = .next (s.setChan c { x with stop := x.stop ++ [q false] })) ∧
      (s.hasRoom c (q true) = false →
        exec (.superlineWrite ch r .queued) s = .next (s.setChan c { x with stop := x.stop ++ [q true] }))) ∧
    (s.chanUp c = false → s.mirroredAt c sl = false → s.flag F.MC_STAT_FROZEN c = false → s.flag F.MC_STAT_RETIRED c = true →
      (∀ how, (∀ n, r.src ≠ .writeback n) →
        exec (.superlineRead ch r how) s = .next (s.emit (.mem r.src .withdrawn 0 0)))) ∧
    (s.domOn (mcDom c) = true → s.flag F.MC_STAT_INSVC c = true → s.flag F.MC_STAT_FROZEN c = false → x.nbr = [] → x.mgmt = [] →
      (∀ e rest, x.c0q = e :: rest → exec (.dramCommandBoundary ch none) s =
        .next ((((s.setChan c { x with c0q := rest }).serveHere c e).refreshDue c).admitStop c)) ∧
      (∀ e rest, x.c0q = [] → x.wrq = [] → x.flush = [] → s.flag F.MC_MIRSTAT_REBUILDING c = false → x.rdq = e :: rest →
        exec (.dramCommandBoundary ch none) s =
          .next ((((s.setChan c { x with rdq := rest }).serveHere c e).refreshDue c).admitStop c)) ∧
      (∀ e : QReq, x.c0q = [] → x.flush = [] → x.stop = [] → s.flag F.MC_MIRSTAT_REBUILDING c = false →
        (x.rdq = [] ∨ s.flag F.MC_QSTAT_DRAIN c = true) → x.wrq = [e] → e.req = r → e.write = true → e.pois = 0 → ready → clean →
        l.poison = 0 → cwOf r.codec = none →
        ∃ s', exec (.dramCommandBoundary ch none) s = .next s' ∧ (s'.chan c).wrq = [] ∧
          ((s'.chan c).line sl).plain key = mergeBytes (l.plain key) r.data r.mask)) ∧
    (s.domOn (mcDom c) = true → s.flag F.MC_STAT_FROZEN c = true → x.nbr = [] → x.mgmt = [] →
      exec (.dramCommandBoundary ch none) s = .next s) ∧
    ((∃ e ∈ x.wrq, e.req.c0 = false) → ∃ s', exec (.writeAgeDrain ch) s = .next s' ∧ s'.flag F.MC_QSTAT_DRAIN c = true ∧
      OnlyRegs s s' [Reg.off .MC_QSTAT c 0]) ∧
    (MayWrite s m → s.winOn .mc c = true →
      let n := v.toNat % 256
      let reg := if hi then Reg.MC_WQ_HI else .MC_WQ_LO
      let bad := if hi then n = 0 ∨ 128 < n else 127 < n
      let cross := if hi then n ≤ s.fld F.MC_WQ_LO_LEVEL c else s.fld F.MC_WQ_HI_LEVEL c ≤ n
      (bad → WriteRefused (.writeQueueLimitWrite m ch hi v) s m 2 (Reg.off reg c 0)) ∧
      (¬bad → cross → WriteRefused (.writeQueueLimitWrite m ch hi v) s m 5 (Reg.off reg c 0)) ∧
      (¬bad → ¬cross → ∃ s', exec (.writeQueueLimitWrite m ch hi v) s = .next s' ∧ s'.rd reg c = BitVec.ofNat 64 n ∧
        OnlyRegs s s' [Reg.off reg c 0]))

/-- A channel's service (R247, R248, R272, R280, R281, R487): a channel of a listed population that is trained and whose metadata is
clear enters service; clearing makes every superline zero; a flush takes the dirty lines and ends with none to write, and writes none
while the channel is frozen; refresh intervals are paid from those pulled in, put off in a C0 window and while its reads wait, or
refreshed; a window of the plan sets C0WIN or refreshes what is owed, after the reads that a C0 window left, and no more than four
intervals are held pulled in. The four intervals at most are R281's inside a C0 window; the fifth outside it, while its reads wait,
is the model's reading (entry 150). -/
def Obligations.ChannelsEnterServiceAndRefresh : Prop :=
  ∀ (m : Master) (ch : Fin 16) (ok hot : Bool) (u : Fin 1024) (s : State),
    let c := ch.val
    let x := s.chan c
    let stat := Reg.off .MC_STAT c 0
    let cmp := Reg.off .MC_CMPSTAT c 0
    let owed := s.fld F.MC_STAT_OWED c
    let blocked := s.flag F.MC_STAT_C0WIN c = true ∨ ∃ e ∈ x.c0q, e.inWin = true
    let most := if s.flag F.MC_STAT_C0WIN c then 4 else 5
    let others := fun (s' : State) => ∀ d, d ≠ c → s'.chan d = s.chan d
    let logged := fun (s' : State) (code : BitVec 4) => ∃ cmd : DramCmd, cmd.cmd = code ∧ (s'.chan c).history.getLast? = some cmd ∧
      (s'.chan c).history = (x.history ++ [cmd]).drop (x.history.length + 1 - 256)
    (s.domOn (mcDom c) = true →
      (s.popOk c = true → ∃ s', exec (.channelTrainingDone ch ok) s = .next s' ∧ s'.chan c = { x with trained := ok } ∧ others s' ∧
        (s'.flag F.MC_STAT_INSVC c =
          (s.flag F.MC_STAT_INSVC c || (ok && s.flag F.MC_CMPSTAT_MDREADY c && !s.flag F.MC_STAT_RETIRED c))) ∧
        OnlyRegs { s with chans := s'.chans } s' [stat]) ∧
      (s.popOk c = false → ∃ s', exec (.channelTrainingDone ch ok) s = .next s' ∧ s'.flag F.MC_STAT_UNSUP c = true ∧
        OnlyRegs s s' [stat]) ∧
      (s.flag F.MC_STAT_INSVC c = false → s.flag F.MC_MIRSTAT_REBUILDING c = false → ∃ s', exec (.metadataClearDone ch) s = .next s' ∧
        (∀ k, (s'.chan c).line k = SLine.zero) ∧ s'.flag F.MC_CMPSTAT_MDREADY c = true ∧ others s' ∧
        s'.flag F.MC_STAT_INSVC c = (x.trained && !s.flag F.MC_STAT_RETIRED c) ∧
        OnlyRegs { s with chans := s'.chans } s' [stat, cmp]) ∧
      (x.trained = true → ∃ s', exec (.modeRegister4Poll ch hot) s = .next s' ∧ others s' ∧
        { s'.chan c with history := x.history } = { x with hotNext := hot } ∧ logged s' 8 ∧ { s' with chans := s.chans } = s) ∧
      (x.trained = true → x.nbr = [] → x.mgmt = [] → ∃ s', exec (.refreshIntervalDue ch) s = .next s' ∧ others s' ∧
        s'.flag F.MC_STAT_TEMPHI c = x.hotNext ∧
        (0 < x.pulled → s'.chan c = { x with pulled := x.pulled - 1 } ∧ s'.fld F.MC_STAT_OWED c = owed) ∧
        (x.pulled = 0 → ¬blocked → logged s' 5 ∧ { s'.chan c with history := x.history } = x ∧ s'.fld F.MC_STAT_OWED c = owed) ∧
        (x.pulled = 0 → blocked → owed < most → s'.chan c = x ∧ s'.fld F.MC_STAT_OWED c = owed + 1) ∧
        (x.pulled = 0 → blocked → most ≤ owed → s.flag F.MC_REFCTL_SBREF c = false → logged s' 5 ∧
          s'.fld F.MC_STAT_OWED c = owed ∧ s'.rd .MC_REFSPLITCNT c = s.rd .MC_REFSPLITCNT c + 1)) ∧
      (2 ≤ u.val → u.val < s.tf → ∃ s', exec (.dramWindowBoundary ch u) s = .next s' ∧ others s' ∧
        s'.flag F.MC_STAT_C0WIN c = decide (s.windowAt c u.val = 1) ∧ (s'.chan c).refWin = decide (s.windowAt c u.val = 2) ∧
        (x.pulled ≤ 4 → (s'.chan c).pulled ≤ 4 ∧ x.pulled ≤ (s'.chan c).pulled) ∧
        (s.windowAt c u.val = 2 → (x.refWin = false ∨ x.refDue = true) →
          ((∀ e ∈ x.c0q, e.inWin = false) → s'.fld F.MC_STAT_OWED c = 0 ∧ (s'.chan c).refDue = false) ∧
          ((∃ e ∈ x.c0q, e.inWin = true) → s'.fld F.MC_STAT_OWED c = owed ∧ (s'.chan c).refDue = true)) ∧
        (s.windowAt c u.val ≠ 2 → s'.fld F.MC_STAT_OWED c = owed) ∧ (s'.chan c).sl = x.sl)) ∧
    (u.val < 2 → exec (.dramWindowBoundary ch u) s = .next s) ∧
    (MayWrite s m → s.winOn .mc c = true → s.flag F.MC_CMPSTAT_MDBUSY c = false →
      ∃ s', exec (.metadataFlush m ch) s = .next s' ∧ s'.chan c = { x with flush := x.dirtyLines } ∧ others s' ∧
        s'.flag F.MC_CMPSTAT_MDBUSY c = true ∧ OnlyRegs { s with chans := s'.chans } s' [cmp]) ∧
    (s.flag F.MC_CMPSTAT_MDBUSY c = true → s.flag F.MC_STAT_FROZEN c = false → ∃ s', exec (.metadataFlushDone ch) s = .next s' ∧
      (s'.chan c).flush = [] ∧ s'.flag F.MC_CMPSTAT_MDBUSY c = false ∧ (s'.chan c).sl = x.sl ∧ others s') ∧
    (s.flag F.MC_STAT_FROZEN c = true → exec (.metadataFlushDone ch) s = .next s)

/-- Freezes, actions and rebuilds (R287 to R290, R292, R295): a trigger freezes a channel in service, with its cause and a record, and a
later one counts into the snapshot; a snapshot takes what waits; an action needs a frozen channel and one only runs at a time;
RETIRE takes the channel out of service and fails what waits on it; a REPLAY after a metadata error poisons the superlines of the
metadata line named at the trigger; the default runs at the deadline; a rebuild copies the partner and returns the channel to service. -/
def Obligations.ChannelsFreezeAndRebuild : Prop :=
  ∀ (m : Master) (ch : Fin 16) (cause : FreezeCause) (sline : BitVec 44) (s : State),
    let c := ch.val
    let p := pairOf c
    let x := s.chan c
    let frozen := s.flag F.MC_STAT_FROZEN c = true
    let gone := s.flag F.MC_STAT_RETIRED c = true
    let may := MayWrite s m ∧ s.winOn .mc c = true
    let ctl := Reg.off .MC_FRZCTL c 0
    let plain := x.mdFix = none ∧ x.inflight = none ∧ x.resync = [] ∧ s.flag F.MC_FRZSTAT_RESYNCOVF c = false
    let retires := fun (cmd : Instr) => ∃ s', exec cmd s = .next s' ∧ (s'.chan c).acting = some .retire ∧
      s'.flag F.MC_STAT_INSVC c = false ∧ s'.flag F.MC_STAT_RETIRED c = true ∧ (s'.chan c).trained = false ∧
      (s'.chan c).c0q = [] ∧ (s'.chan c).rdq = [] ∧ (s'.chan c).wrq = [] ∧ (s'.chan c).stop = [] ∧ (s'.chan c).defer = [] ∧ (s'.chan c).sl = x.sl
    let acts := fun (cmd : Instr) (a : FrzAct) (d : Bool) => ∃ s', exec cmd s = .next s' ∧ s'.chan c = { x with acting := some a, byDefault := d } ∧
      (∀ d, d ≠ c → s'.chan d = s.chan d) ∧ { s' with chans := s.chans, regs := s.regs } = s
    (s.flag F.MC_STAT_INSVC c = true → ¬gone → ¬frozen → ∃ s', exec (.channelFreeze ch ⟨cause, sline⟩) s = .next s' ∧
      s'.flag F.MC_STAT_FROZEN c = true ∧ s'.flag F.MC_FRZSTAT_FROZEN c = true ∧ s'.fld F.MC_FRZSTAT_CAUSE c = frzCode cause ∧
      Records s s' 0x08 c ∧ (s'.chan c).acting = none ∧ (s'.chan c).snap.isSome = true ∧
      (s'.chan c).mdFix = (if cause = .mdUncorrectable ∨ cause = .mdCode then some sline.toNat else none) ∧
      (s'.chan c).inflight = (if cause = .caParity then x.last else none) ∧ (s'.chan c).sl = x.sl ∧
      (s'.chan c).c0q = x.c0q ∧ (s'.chan c).rdq = x.rdq ∧ (s'.chan c).wrq = x.wrq ∧
      (∀ d, d ≠ c → s'.chan d = s.chan d ∧ (d < 16 → (s.chan d).frzSeq < (s'.chan c).frzSeq))) ∧
    (gone → ∃ s', exec (.channelFreeze ch ⟨cause, sline⟩) s = .next s' ∧ Records s s' 0x08 c ∧ s'.chans = s.chans) ∧
    (∀ q, ¬gone → frozen → x.snap = some q → ∃ s', exec (.channelFreeze ch ⟨cause, sline⟩) s = .next s' ∧ s'.regs = s.regs ∧
      s'.chan c = { x with snap := some { q with more := if q.more = 255 then 255 else q.more + 1,
                                                 moreCause := q.moreCause ||| BitVec.ofNat 4 (2 ^ (frzCode cause - 1)) } }) ∧
    (∀ q, frozen → x.snap = some q → ∃ s' q', exec (.freezeSnapshotDone ch) s = .next s' ∧ bitOf (s'.rd .KPR_IPEND) 2 = true ∧
      (s'.chan c).snap = some q' ∧ q'.deferred = x.defer ∧ q'.resync = x.resync ∧ q'.synd = x.synd ∧ q'.history = x.history ∧ q'.cause = q.cause ∧
      (∀ n e, n < 16 → x.c0q[n]? = some e → mget q'.queues n = some e) ∧
      OnlyRegs { s with chans := s'.chans } s' [Reg.off .KPR_IPEND 0 0]) ∧
    (may → (¬frozen ∨ x.acting.isSome = true) → WriteRefused (.replay m ch) s m 5 ctl ∧ WriteRefused (.resume m ch) s m 5 ctl ∧
      WriteRefused (.retire m ch) s m 5 ctl) ∧
    (may → frozen → x.acting = none → plain → acts (.replay m ch) .replay false ∧ acts (.resume m ch) .resume false) ∧
    (may → frozen → x.acting = none → s.mirrored c = false → retires (.retire m ch)) ∧
    (may → frozen → x.acting = none → s.mirrored c = false → s.flag F.MC_FRZSTAT_RESYNCOVF c = true →
      retires (.replay m ch) ∧ retires (.resume m ch)) ∧
    (∀ sl0, may → frozen → x.acting = none → x.mdFix = some sl0 → x.inflight = none → x.resync = [] → s.flag F.MC_FRZSTAT_RESYNCOVF c = false →
      s.mirrored c = false → ∃ s', exec (.replay m ch) s = .next s' ∧ (s'.chan c).acting = some .replay ∧
        ∀ k, (k / 128 = sl0 / 128 → ((s'.chan c).line k).code = 1 ∧ ((s'.chan c).line k).poison = 0xF) ∧
          (k / 128 ≠ sl0 / 128 → (s'.chan c).line k = x.line k)) ∧
    (frozen → x.acting = none → s.frzFirst c = true →
      (s.fld F.MC_FRZCTL_DEFAULT c = 1 → plain → acts (.freezeDeadline ch) .replay true) ∧
      (s.fld F.MC_FRZCTL_DEFAULT c = 2 → plain → acts (.freezeDeadline ch) .resume true) ∧
      (s.fld F.MC_FRZCTL_DEFAULT c = 3 → s.mirrored c = false → retires (.freezeDeadline ch))) ∧
    (∀ a, x.acting = some a → x.defer = [] → (s.chan p).defer = [] → x.resync = [] → s.fabric.held = [] →
      (s.thread 512).await = none → (s.thread 513).await = none →
      (∀ q, (s.port q).rxq = [] ∧ (s.port q).txq = none) → ∃ s', exec (.freezeActionDone ch) s = .next s' ∧
      s'.flag F.MC_STAT_FROZEN c = false ∧ s'.flag F.MC_FRZSTAT_FROZEN c = false ∧ s'.fld F.MC_FRZSTAT_ACTION c = a.code ∧
      (s'.chan c).acting = none ∧ (s'.chan c).sl = x.sl ∧ Records s s' 0x08 c) ∧
    (may → let ready := gone ∧ x.trained = true ∧ s.flag F.MC_STAT_INSVC p = true
      (ready → ∃ s', exec (.rebuild m ch) s = .next s' ∧ s'.flag F.MC_MIRSTAT_REBUILDING c = true ∧
        s'.fld F.MC_MIRSTAT_PROGRESS c = 0 ∧ OnlyRegs s s' [Reg.off .MC_MIRSTAT c 0]) ∧
      (¬ready → WriteRefused (.rebuild m ch) s m 5 (Reg.off .MC_MIRCTL c 0))) ∧
    (s.flag F.MC_MIRSTAT_REBUILDING c = true → s.chanUp p = true → ∃ s', exec (.rebuildDone ch) s = .next s' ∧ s'.flag F.MC_STAT_INSVC c = true ∧
      s'.flag F.MC_STAT_RETIRED c = false ∧ s'.flag F.MC_MIRSTAT_REBUILDING c = false ∧ s'.flag F.MC_MIRSTAT_DEGRADED c = false ∧
      s'.flag F.MC_MIRSTAT_DEGRADED p = false ∧
      (ArraysClean s → (s.chan p).wrq = [] → (∀ k, ((s.chan p).line k).bad = []) → ∀ k ∈ s.rebuildLines c,
        ((s'.chan c).line k).code = ((s.chan p).line k).code ∧
        (((s.chan p).line k).code ≠ 0 → (s'.chan c).line k = (s.chan p).line k)))

/-! ### The fabric -/

/-- A packet has joined the egress queue of port p, in the next group of words of the crossbar buffer (R348, R413); beside the
fabric's own state, what that write corrects or corrupts there (R421) and free values, nothing else differs. -/
def Enqueued (s s' : State) (p : Nat) (w : Waiting) : Prop :=
  s'.port p = { s.port p with egress := (s.port p).egress ++ [{ w with word := 8 * (s.fabric.xword % 589824) }] } ∧
    (∀ q, q ≠ p → s'.port q = s.port q) ∧ s'.fabric.xword = s.fabric.xword + 1 ∧
    RegsBut s s' [Reg.off .ERR_FLIPMASK 0 152] ∧
    { s' with ports := s.ports, fabric := s.fabric, errs := s.errs, regs := s.regs, free := s.free } = s

/-- An answer to a packet has joined the egress queue towards the node it came from (R330, R348). -/
def Answered (s s' : State) (k : Packet) (resp : BitVec 2) (reason : Nat) (tid : Nat) : Prop :=
  ∃ p, s.routeTo k.src.toNat = some p ∧ { s'.fabric with xword := s.fabric.xword } = s.fabric ∧
    Enqueued s s' p ⟨s.responsePacket k resp reason .response false [] 0, 255, true, none, tid, 0⟩

/-- Requests and responses (R239, R337, R344 to R347): a request that the source gateway accepts is outstanding and waits at its
link; one behind another of its line, one without credit and one put off wait; one refused is counted and its master told; a message of
a busy C0 flow waits its turn; a response completes, defers or refuses; a deferred request goes out again when its frame comes, and
one without an answer for 64 frames fails; slots carry what the plan and the classes say, whole or in part; a packet is counted when
its header fails, waits while a switch holds the port, crosses the node with one hop less, or is answered; a request is served under
the lease that names it. The egress queues are without errors; that C0 messages are timed by the slot that has begun is the model's
choice (entry 49). -/
def Obligations.FabricRequestsAreJudgedAndServed : Prop :=
  ∀ (r : FabReq) (f : Fin 4096) (tag : BitVec 16) (pkt : Packet) (raw : RawPacket) (pp : Fin 144) (sl : Fin 65) (s : State),
      s.live = true →
    let cls := (s.classify r).1
    let fl := (BitVec.ofNat 12 (s.classify r).2).toNat
    let fb := s.fabric
    let tid := r.tid.val
    let verdict := s.judgeSource r cls fl
    let mine := fun (t : Nat) (k : Nat) => Reg.off .MAP_TFABCNT 0 (8 * t + k)
    let refusals := fun (s : State) (t k : Nat) => s.fld F.MAP_TFABCNT_REFUSALS 0 (8 * t + k)
    let defers := fun (s : State) (t k : Nat) => s.fld F.MAP_TFABCNT_DEFERS 0 (8 * t + k)
    let stands := fun (s' : State) (o : Outst) => o ∈ s'.fabric.outs ∧ ∀ e, e.tag ≠ o.tag → (e ∈ s'.fabric.outs ↔ e ∈ fb.outs)
    let key := fun (o : Outst) => usedKey o.req.tid.val o.cls.val
    let sent := fun (c : Instr) (o : Outst) (p : Nat) (beyond : Bool) => ∃ s' w, exec c s = .next s' ∧ Enqueued s s' p w ∧
      w.pkt = s.requestPacket o.req o.cls o.flow.toNat o.tag ∧ w.inp = 255 ∧ w.beyond = beyond ∧ w.tid = o.req.tid.val ∧
      w.admitted.isSome = decide (o.cls = 0) ∧ stands s' { o with stand := .sent, issued := s.frame } ∧
      mgetD s'.fabric.used (key o) 0 = mgetD fb.used (key o) 0 + reqBytes o.req ∧
      (∀ n, n ≠ key o → mgetD s'.fabric.used n 0 = mgetD fb.used n 0) ∧ s'.fabric.flowQ = fb.flowQ
    let new : Outst := ⟨fb.nextTag, r, cls, BitVec.ofNat 12 (s.classify r).2, 0, 0, .sent, s.frame, gatewayOf r.dst.toNat r.addr.toNat⟩
    let admits := fun (c : Instr) => c = .fabricRequestIssue r ∨ (c = .c0MessageAdmit f r ∧ (cls ≠ 0 ∨ (s.classify r).2 = f.val))
    let waits := fun (c : Instr) (o : Outst) => ∃ s', exec c s = .next s' ∧ stands s' o ∧ s'.ports = s.ports ∧
      s'.fabric.used = fb.used ∧ { s' with fabric := fb } = s
    let fails := fun (c : Instr) (o : Outst) (k : Nat) => ∃ s1, exec c s = .next (s1.refused o.req k) ∧
      s1.fabric.outs = fb.outs.filter (fun e => decide (e.tag ≠ o.tag)) ∧
      refusals s1 o.req.tid.val k = (refusals s o.req.tid.val k + 1) % 2 ^ 32 ∧
      OnlyRegs { s with fabric := s1.fabric } s1 [mine o.req.tid.val k]
    (∀ c, admits c →
      (s.lineBusy r = true → waits c { new with stand := .behind }) ∧
      (s.lineBusy r = false →
        (∀ p b, verdict = .accept p b → (cls ≠ 0 ∨ s.c0Waiting p fl 255 = 0) → sent c new p b) ∧
        (∀ p b, verdict = .accept p b → cls = 0 → 0 < s.c0Waiting p fl 255 → ∃ s', exec c s = .next s' ∧
          mgetD s'.fabric.flowQ fl [] = mgetD fb.flowQ fl [] ++ [r] ∧ (∀ n, n ≠ fl → mgetD s'.fabric.flowQ n [] = mgetD fb.flowQ n []) ∧
          s'.fabric.outs = fb.outs.filter (fun e => decide (e.tag ≠ fb.nextTag)) ∧ { s' with fabric := fb } = s) ∧
        (∀ p, verdict = .credit p → waits c { new with stand := .credit p }) ∧
        (∀ k, verdict = .refuse k → fails c new k) ∧
        (∀ k, verdict = .defer k → 1 ≤ s.fld F.MAP_FABCTL_DEFMAX → ∃ s', exec c s = .next s' ∧
          stands s' { new with defers := 1, reason := BitVec.ofNat 3 k, stand := .until_ (s.frame + 1) } ∧
          defers s' tid k = (defers s tid k + 1) % 2 ^ 32 ∧ OnlyRegs { s with fabric := s'.fabric } s' [mine tid k]))) ∧
    (isLease r.op = false → s.held tid = true → verdict = .refuse 4) ∧
    (∀ o, fb.outs.find? (fun o => decide (o.tag = pkt.tag ∧ o.req.dst = pkt.src ∧ o.stand = .sent)) = some o →
      let t := o.req.tid.val
      let k := pkt.reason.toNat
      (pkt.resp = 1 → o.req.op = .write → ∀ h, o.req.src = .core h → (s.thread h.val).await = none →
        ∃ s', exec (.fabricResponseReceive pkt) s = .next s' ∧
          s'.fabric.outs = fb.outs.filter (fun e => decide (e.tag ≠ o.tag)) ∧ defers s' t 0 = (defers s t 0 + 1) % 2 ^ 32 ∧
          OnlyRegs { s with fabric := s'.fabric } s' [mine t 0]) ∧
      (pkt.resp = 2 → o.defers + pkt.deferK.toNat ≤ s.fld F.MAP_FABCTL_DEFMAX → ∃ s', exec (.fabricResponseReceive pkt) s = .next s' ∧
        stands s' { o with defers := o.defers + pkt.deferK.toNat, reason := BitVec.ofNat 3 k,
                           stand := .until_ (s.frame + BitVec.ofNat 64 pkt.deferK.toNat) } ∧
        defers s' t k = (defers s t k + 1) % 2 ^ 32 ∧ OnlyRegs { s with fabric := s'.fabric } s' [mine t k]) ∧
      (pkt.resp = 3 → fails (.fabricResponseReceive pkt) o k)) ∧
    (fb.outs.find? (fun o => decide (o.tag = pkt.tag ∧ o.req.dst = pkt.src ∧ o.stand = .sent)) = none →
      exec (.fabricResponseReceive pkt) s = .next s) ∧
    (∀ o p b n, fb.outs.find? (fun o => decide (o.tag = tag)) = some o → o.stand = .until_ n →
      (n.toNat < s.frame.toNat ∨ (n = s.frame ∧ s.tick.effectDue = false)) → (∀ e ∈ fb.outs, e.stand ≠ .behind) →
      s.judgeSource o.req o.cls o.flow.toNat = .accept p b → (o.cls ≠ 0 ∨ s.c0Waiting p o.flow.toNat 255 = 0) →
      sent (.deferredReissue tag) o p b) ∧
    (∀ o, fb.outs.find? (fun o => decide (o.tag = tag ∧ o.stand = .sent)) = some o → o.issued.toNat + 64 ≤ s.frame.toNat →
      fails (.fabricRequestTimeout tag) o 6) ∧
    (s.linkUp pp.val = true → s.portHeld pp.val = false → ArraysClean s → (∀ e ∈ fb.outs, e.stand = .sent) →
      let n := pp.val
      let x := s.port n
      let k := sl.val
      let bytes := s.slotBytes (if k < 64 then s.slotLen else s.tf * 20 - 64 * s.slotLen) n
      let word := if s.featOn n 0 && decide (k < 64) then s.slotWord n k else 0
      let wire := fun (w : Waiting) => s.linkCode n w.pkt
      let on := fun (w : Waiting) (i : Nat) => Out.packet n (Hdr.encode (wire w)) (if s.featOn n 1 then
        x.keys.map (fun k => ⟨k.tx, s.nodeId, n, x.txCount + BitVec.ofNat 64 i⟩) else none)
      let leaves := fun (ws : List Waiting) => ∃ s', exec (.slotBoundary pp sl) s = .next s' ∧
        s'.out = s.out ++ ws.mapIdx (fun i w => on w i) ∧ (s'.port n).egress = [] ∧ (s'.port n).sending = [] ∧
        (s'.port n).txCount = x.txCount + BitVec.ofNat 64 ws.length ∧ ∀ q, q ≠ n → s'.port q = s.port q
      (∀ w, x.egress = [w] → x.sending = [] → w.inp = 255 → mgetD x.unpaid w.pkt.cls.val 0 + wireBytes (wire w) ≤ 65536 →
        let goes := (wireBytes (wire w) ≤ bytes → leaves [w]) ∧
          (0 < bytes → bytes < wireBytes (wire w) → ∃ s', exec (.slotBoundary pp sl) s = .next s' ∧ s'.out = s.out ∧
            (s'.port n).egress = [] ∧ (s'.port n).sending = [⟨w, wireBytes (wire w) - bytes⟩])
        let stays := ∃ s', exec (.slotBoundary pp sl) s = .next s' ∧ s'.out = s.out ∧ (s'.port n).egress = [w]
        (getBits word 1 0 = 0 → (if w.pkt.cls = 0 then w.pkt.flow = 0 else w.pkt.cls = 1 → s.freeC1 n w = true) → goes) ∧
        (getBits word 1 0 = 2 → w.pkt.cls = 1 → w.pkt.flow.toNat = getBits word 15 4 → getBits word 23 16 = 255 → goes) ∧
        (getBits word 1 0 = 1 → bitOf word 2 = true → getBits word 23 16 = 255 → k ∉ x.took → w.pkt.cls = 0 →
          w.pkt.flow.toNat = getBits word 15 4 → w.pkt.flow ≠ 0 → mgetD fb.flowQ (getBits word 15 4) [] = [] →
          (s.c0Ready (getBits word 15 4) 255 (k * s.slotLen) w = true → goes) ∧
          (s.c0Ready (getBits word 15 4) 255 (k * s.slotLen) w = false → stays))) ∧
      (∀ w, x.egress = [] → x.sending = [⟨w, wireBytes (wire w)⟩] → w.inp = 255 → getBits word 1 0 = 0 → 2 ≤ w.pkt.cls.val →
        wireBytes (wire w) ≤ bytes → leaves [w]) ∧
      (∀ a b, x.egress = [a, b] → x.sending = [] → a.inp = 255 → b.inp = 255 → a.pkt.cls = 3 → b.pkt.cls = 2 → getBits word 1 0 = 0 →
        mgetD x.unpaid 3 0 + wireBytes (wire a) ≤ 65536 → mgetD x.unpaid 2 0 + wireBytes (wire b) ≤ 65536 →
        wireBytes (wire a) + wireBytes (wire b) ≤ bytes → leaves [b, a])) ∧
    (s.linkIs (s.lane0 pp.val) .active = true →
      let q := s.lane0 pp.val
      let k := s.linkDecode q (Hdr.decode raw)
      let got := { s.port q with rxCount := (s.port q).rxCount + 1 }
      let own := s.ownNode k.dst.toNat
      let x : Traffic := ⟨k.cls.val, k.flow.toNat, k.dst.toNat, q, pktBytes k, k.addr.toNat / 256⟩
      (Hdr.ok raw = false → ∃ s', exec (.packetReceive pp raw) s = .next s' ∧ s'.port q = got ∧ (∀ n, n ≠ q → s'.port n = s.port n) ∧
        s'.rd .MAP_XBARDROPCNT = s.rd .MAP_XBARDROPCNT + 1 ∧ OnlyRegs { s with ports := s'.ports } s' [Reg.off .MAP_XBARDROPCNT 0 0]) ∧
      (Hdr.ok raw = true → s.portHeld q = true → ∃ s', exec (.packetReceive pp raw) s = .next s' ∧
        s'.port q = { got with inq := (s.port q).inq ++ [k] } ∧ (∀ n, n ≠ q → s'.port n = s.port n) ∧
        { s' with ports := s.ports, ledger := s.ledger } = s) ∧
      (Hdr.ok raw = true → s.portHeld q = false →
        let told := fun (resp : BitVec 2) (reason : Nat) => ∀ p, s.routeTo k.src.toNat = some p → ∃ s' w,
          exec (.packetReceive pp raw) s = .next s' ∧ w ∈ (s'.port p).egress ∧ w.inp = 255 ∧
          w.pkt = s.responsePacket k resp reason .response false [] 0 ∧ s'.out = s.out ++ [.credit q k.cls (pktBytes k)]
        (∀ v, k.op = .reserved v → k.resp = 0 → told 3 5) ∧
        (own = true → k.resp = 0 → k.op = .write → k.bad = false → k.dataOk = true → ∀ n, s.leaseFor k = .inl n → told 3 n) ∧
        (own = true → k.resp = 0 → (k.op = .write ∨ k.op = .readReq) → (k.bad = true ∨ k.dataOk = false) → told 3 6) ∧
        (own = false → (∀ v, k.op ≠ .reserved v) → ∀ o b, s.way x = some (o, b) → s.linkLacks o k.cls.val k.flow.toNat k.op = false →
          (k.hops = 0 → k.resp = 0 → told 3 6) ∧
          (k.hops ≠ 0 → (k.cls ≠ 0 ∨ k.flow = 0 ∨ s.groupTaken o k.flow.toNat q = false) → ∃ s' w,
            exec (.packetReceive pp raw) s = .next s' ∧ (s'.port o).egress = (s.port o).egress ++ [w] ∧ w.inp = q ∧ w.beyond = b ∧
            w.pkt = { k with hops := k.hops - 1, bad := k.bad || !k.dataOk, dataOk := true } ∧
            s'.out = s.out ∧ ∀ n, n ≠ o → n ≠ q → s'.port n = s.port n)))) ∧
    (pkt.resp = 0 → pkt.bad = false → pkt.dataOk = true → (pkt.op = .write ∨ pkt.op = .readReq) →
      (∀ k p, s.leaseFor pkt = .inl k → s.routeTo pkt.src.toNat = some p →
        ∃ s', exec (.fabricRequestArrival pkt) s = .next s' ∧ Answered s s' pkt 3 k 0) ∧
      (∀ t, s.leaseFor pkt = .inr t →
        let ps := (piecesOf 256 pkt.addr.toNat pkt.len.toNat).map (fun x => (x.1, x.1 - pkt.addr.toNat, x.2))
        let g := gatewayOf pkt.src.toNat pkt.addr.toNat
        (s.lineHeld g ps = false → exec (.fabricRequestArrival pkt) s = .next (s.servePieces (fabSrc pkt) pkt t ps 0 false)) ∧
        (s.lineHeld g ps = true → ∃ s' h, exec (.fabricRequestArrival pkt) s = .next s' ∧ s'.fabric.held = fb.held ++ [h] ∧
          h.pkt = pkt ∧ h.ltid = t ∧ h.gw = g ∧ h.behind = true ∧ { s' with fabric := fb } = s)))


/-- The map, flows, leases and service (R226, R241, R336, R349 to R353): a range is enabled when every check passes and disabled at any time
before the lock point; a slice moves to another; a flow descriptor is written while it is not valid; a grant and a recall are taken
by an entry in the state they need; the messages of a lease are sent, answered and noted; a forced recall is recorded; a block joins or
leaves one at a time, is noted drained or ready, and fails after 1,025 frames. -/
def Obligations.MapLeasesAndServiceTakeTheirCommands : Prop :=
  ∀ (m : Master) (r : Fin 16) (l : Fin 256) (f : Fin 4096) (i j : Fin 64) (v : Word) (pkt : Packet) (s : State),
    let fb := s.fabric
    let rcfg := Reg.off .MAP_RCFG 0 r.val
    let slice := Reg.off .MAP_SLICE 0 l.val
    let flow := Reg.off .MAP_FLOW 0 f.val
    let la := Reg.off .MAP_LEASEA 0 i.val
    let new := v &&& Reg.MAP_RCFG.row.lk
    let t := F.MAP_SLICE_TARGET.of v
    let svc := Reg.off .MAP_SVCSTAT 0 0
    let st := s.fld F.MAP_LEASEA_STATE 0 i.val
    let x := s.leaseX i.val
    let kind := F.MAP_SVCCTL_KIND.of v
    let index := F.MAP_SVCCTL_INDEX.of v
    let known := (kind = 0 ∧ index < 32) ∨ (kind = 1 ∧ index < 16) ∨ (kind = 2 ∧ index < 144)
    let began := fun (c : Instr) (join : Bool) => ∃ s', exec c s = .next s' ∧ s'.fld F.MAP_SVCSTAT_STATE = 1 ∧
      s'.fld F.MAP_SVCSTAT_KIND = kind ∧ s'.fld F.MAP_SVCSTAT_INDEX = index ∧
      s'.fabric = { fb with svc := some ⟨join, kind, index, s.frame, false⟩ } ∧ OnlyRegs { s with fabric := s'.fabric } s' [svc]
    let answers := fun (c : Instr) (t : State) (resp : BitVec 2) (reason : Nat) => ∀ p, s.routeTo pkt.src.toNat = some p →
      ∃ s', exec c s = .next s' ∧ Answered t s' pkt resp reason 0
    let drained : FabReq := ⟨.fabric 0 0, BitVec.ofNat 12 (s.fld F.MAP_BORROWA_LNODE 0 j.val),
      BitVec.ofNat 52 (s.fld F.MAP_BORROWB_BASE 0 j.val * 4096), 0, .drained, false, false, 0, 0, 0, []⟩
    let dcls := (s.classify drained).1
    let dfl := (BitVec.ofNat 12 (s.classify drained).2).toNat
    (MayWrite s m →
      (s.board.locked = false → bitOf v 0 = true → s.flag F.MAP_RCFG_V 0 r.val = false → 8 ≤ F.MAP_RCFG_GRAIN.of v →
        F.MAP_RCFG_GRAIN.of v ≤ 30 →
        ((s.wr .MAP_RCFG new 0 r.val).rangeOk r.val = true → ∃ s', exec (.rangeEnable m r v) s = .next s' ∧
          s'.rd .MAP_RCFG 0 r.val = new ∧ OnlyRegs s s' [rcfg]) ∧
        ((s.wr .MAP_RCFG new 0 r.val).rangeOk r.val = false → WriteRefused (.rangeEnable m r v) s m 5 rcfg)) ∧
      (s.board.locked = false → bitOf v 0 = false → ∃ s', exec (.rangeDisable m r v) s = .next s' ∧
        s'.rd .MAP_RCFG 0 r.val = v &&& Reg.MAP_RCFG.row.lk ∧ OnlyRegs s s' [rcfg]) ∧
      (s.board.locked = true → WriteRefused (.rangeEnable m r v) s m 3 rcfg ∧ WriteRefused (.rangeDisable m r v) s m 3 rcfg) ∧
      ((s.flag F.MAP_SLICE_BUSY 0 l.val = false → s.sliceUp t = true → ∃ s', exec (.sliceRetarget m l v) s = .next s' ∧
          s'.fld F.MAP_SLICE_TARGET 0 l.val = t ∧ s'.flag F.MAP_SLICE_BUSY 0 l.val = decide (t ≠ s.fld F.MAP_SLICE_CUR 0 l.val) ∧
          s'.fld F.MAP_SLICE_CUR 0 l.val = s.fld F.MAP_SLICE_CUR 0 l.val ∧ OnlyRegs s s' [slice]) ∧
        ((s.flag F.MAP_SLICE_BUSY 0 l.val = true ∨ s.sliceUp t = false) → WriteRefused (.sliceRetarget m l v) s m 5 slice)) ∧
      (flowReserved v = true → WriteRefused (.flowDescriptorWrite m f v) s m 2 flow) ∧
      (f.val ≠ 0 → s.flag F.MAP_FLOW_V 0 f.val = false → flowReserved v = false → ∃ s', exec (.flowDescriptorWrite m f v) s = .next s' ∧
        s'.rd .MAP_FLOW 0 f.val = v &&& Reg.MAP_FLOW.row.rw ∧ OnlyRegs s s' [flow]) ∧
      (f.val = 0 → flowReserved v = false → (bitOf v 0 = true → WriteRefused (.flowDescriptorWrite m f v) s m 5 flow) ∧
        (bitOf v 0 = false → exec (.flowDescriptorWrite m f v) s = .next s)) ∧
      (f.val ≠ 0 → s.flag F.MAP_FLOW_V 0 f.val = true → flowReserved v = false →
        (bitOf v 0 = true → WriteRefused (.flowDescriptorWrite m f v) s m 5 flow) ∧
        (bitOf v 0 = false → exec (.flowDescriptorWrite m f v) s = .next { s with fabric := { fb with flowClr := fb.flowClr ++ [f.val] } })) ∧
      (st = 0 → s.flag F.MAP_LEASEA_V 0 i.val = true → s.fld F.MAP_LEASEA_MODE 0 i.val = 0 → ∃ s', exec (.grant m i) s = .next s' ∧
        (s'.leaseX i.val).grantDue = true ∧ (s'.leaseX i.val).recalled = x.recalled ∧ (∀ k, k ≠ i.val → s'.leaseX k = s.leaseX k) ∧
        OnlyRegs { s with fabric := s'.fabric } s' [la]) ∧
      (st = 1 → s.fld F.MAP_LEASEA_MODE 0 i.val < 2 → x.recallDue = false → ∃ s', exec (.recall m i) s = .next s' ∧
        s'.leaseX i.val = { x with recallDue := true, frame := s.frame } ∧ (∀ k, k ≠ i.val → s'.leaseX k = s.leaseX k) ∧
        { s' with fabric := fb } = s) ∧
      (st ≠ 0 → s.fld F.MAP_LEASEA_MODE 0 i.val < 2 → WriteRefused (.grant m i) s m 5 la) ∧
      (st ≠ 1 → s.fld F.MAP_LEASEA_MODE 0 i.val < 2 → WriteRefused (.recall m i) s m 5 la) ∧
      (known → s.fld F.MAP_SVCSTAT_STATE = 0 → (F.MAP_SVCCTL_OP.of v = 1 → began (.leave m v) false) ∧
        (F.MAP_SVCCTL_OP.of v = 2 → began (.join m v) true)) ∧
      (¬known → WriteRefused (.leave m v) s m 2 (Reg.off .MAP_SVCCTL 0 0) ∧ WriteRefused (.join m v) s m 2 (Reg.off .MAP_SVCCTL 0 0))) ∧
    (s.live = true → s.fld F.MAP_BORROWA_STATE 0 j.val = 2 →
      (∀ o ∈ fb.outs, isLease o.req.op = true ∨ s.inBorrow j.val o.req.dst.toNat o.req.addr.toNat = false) → fb.flowQ = [] →
      ∃ s', exec (.leaseDrained j) s = .next s' ∧ s'.fld F.MAP_BORROWA_STATE 0 j.val = 3 ∧
        (∀ e ∈ fb.outs, e.tag ≠ fb.nextTag → e ∈ s'.fabric.outs) ∧
        (s.lineBusy drained = false → ∀ p b, s.judgeSource drained dcls dfl = .accept p b →
          (dcls ≠ 0 ∨ s.c0Waiting p dfl 255 = 0) → ∃ w, (s'.port p).egress = (s.port p).egress ++ [w] ∧ w.inp = 255 ∧
            w.pkt = s.requestPacket drained dcls dfl fb.nextTag) ∧
        RegsBut s s' (Reg.off .MAP_BORROWA 0 j.val :: Reg.off .ERR_FLIPMASK 0 152 :: (List.range 8).map (fun k => Reg.off .MAP_TFABCNT 0 k)) ∧
        { s' with regs := s.regs, ports := s.ports, fabric := fb, errs := s.errs, free := s.free } = s) ∧
    (s.live = true → st = 2 → x.drainedIn = false → x.frame.toNat + 64 ≤ s.frame.toNat → ∃ s', exec (.forcedRecallConfirm i) s = .next s' ∧
      s'.fld F.MAP_LEASEA_STATE 0 i.val = 0 ∧ s'.flag F.MAP_LEASEA_FORCED 0 i.val = true ∧ (s'.leaseX i.val).recalled = true ∧
      Records s s' 0x14 154) ∧
    (s.live = true →
      answers (.leaseGrantReceive pkt) s 1 0 ∧
      (s.borrowNamed pkt = some j.val → s.fld F.MAP_BORROWA_STATE 0 j.val = 1 → j.val ∉ fb.noticed →
        answers (.recallNoticeReceive pkt) { s with fabric := { fb with noticed := fb.noticed ++ [j.val] } } 1 0) ∧
      (s.leaseNamed pkt = some i.val → st = 2 →
        answers (.drainedReceive pkt) { s with fabric := { fb with lease := mput fb.lease i.val { x with drainedIn := true } } } 1 0) ∧
      (s.borrowNamed pkt = some j.val → s.fld F.MAP_BORROWA_STATE 0 j.val = 2 →
        answers (.confirmReceive pkt) (s.setFld F.MAP_BORROWA_STATE 3 0 j.val) 1 0) ∧
      (s.borrowNamed pkt = none → answers (.recallNoticeReceive pkt) s 3 6 ∧ answers (.confirmReceive pkt) s 3 6) ∧
      (s.leaseNamed pkt = none → answers (.drainedReceive pkt) s 3 6)) ∧
    (∀ y, fb.svc = some y → s.fld F.MAP_SVCSTAT_STATE = 2 →
      (y.join = false → s.drained y.kind y.index = true →
        exec .serviceDrainDone s = .next { s with fabric := { fb with svc := some { y with ready := true } } }) ∧
      (y.join = false → s.drained y.kind y.index = false → exec .serviceDrainDone s = .next s) ∧
      (y.join = true → s.joinReady y.kind y.index = true →
        exec .serviceReady s = .next { s with fabric := { fb with svc := some { y with ready := true } } }) ∧
      (y.frame.toNat + 1025 ≤ s.frame.toNat → ∃ s', exec .serviceOperationTimeout s = .next s' ∧ s'.fabric.svc = none ∧
        s'.fld F.MAP_SVCSTAT_STATE = 3 ∧ s'.flag F.MAP_SVCSTAT_FAILED = true ∧ Records s s' 0x15 154))

/-- Accesses over PCI Express and Ethernet (R120, R222, R313, R314, R317, R318): an inbound request needs a window, and W to write; a
32-bit write to CL_IRAISE raises the vector; another is served like a request for memory; a refused write is in the root port's AER
record; a completion ends the read of its thread, and one that fails or never comes is a MACHINE-CHECK, where no interrupt is taken
first; a frame is dropped, pauses priorities, or goes to its queue's descriptor; the highest queue that is ready sends its frame, with
its FCS, and protected under an association key that the link holds; while a microcode switch holds the port no work is taken up.
Which association key the key agreement has chosen is free where the link holds several (entry 157). -/
def Obligations.PcieAndEthernetMoveData : Prop :=
  ∀ (k : Fin 8) (r : PcieReq) (t : Th) (st : CplStatus) (v : Word) (p : Fin 144) (f : EthFrame) (s : State), s.live = true →
    let win := s.pcieWindow k.val r.addr
    let n := p.val
    let x := s.port n
    let drops := ∃ s', exec (.ethernetFrameReceive p f) s = .next s' ∧
      s'.rd .LE_PORTDROPCNT (n / 4) (n % 4) = s.rd .LE_PORTDROPCNT (n / 4) (n % 4) + 1 ∧
      (s'.port n).rxq = x.rxq ∧ { s' with regs := s.regs, ports := s.ports, ledger := s.ledger } = s
    let first := fun (a : Await) => a.atCommit = true ∨ s.nextVec t.val false = none
    let aer := fun (s' : State) => (s'.link k.val).root.aer = (s.link k.val).root.aer ++ (if r.write then [(r.addr, r.size.toNat)] else [])
    let checks := fun (c : Instr) => ∀ a, (s.thread t.val).await = some a → first a → ∃ s', exec c s = .next s' ∧
      Records s s' 0x04 (if t.val = 512 then 148 else if t.val = 513 then 149 else 32 + t.val / 16) ∧
      (s'.thread t.val).await = none ∧ (s'.link k.val).outs = (s.link k.val).outs.erase t.val
    (s.linkPresent k.val = true → (s.link k.val).l0 = true →
      (win = none → ∃ s', exec (.pcieInboundRequest k r) s = .next s' ∧ Records s s' 0x07 154 ∧
        s'.rd .MAP_NOMEMCNT = s.rd .MAP_NOMEMCNT + 1 ∧
        s'.out = s.out ++ (if r.write then [] else [.pcie k.val .unsupported false []]) ∧ aer s') ∧
      (∀ w ga, win = some (w, ga) → let tid := s.fld F.LE_PCIEWTGT_TID (2 * k.val) w
        (r.write = true → s.flag F.LE_PCIEWIN_W (2 * k.val) w = false → ∃ s', exec (.pcieInboundRequest k r) s = .next s' ∧
          Records s s' 0x07 154 ∧ s'.out = s.out ∧ aer s') ∧
        (∀ cl d, r.write = true → s.flag F.LE_PCIEWIN_W (2 * k.val) w = true → s.iraiseAt ga = some cl → r.size = 4 → r.data = [d] →
          let u : Word := (d.setWidth 32).setWidth 64
          let h := F.CL_IRAISE_THREAD.of u
          let b := F.CL_IRAISE_VECTOR.of u
          ∃ s', exec (.pcieInboundRequest k r) s = .next s' ∧ bitOf (s'.rd .CL_IPEND cl (4 * h + b / 64)) (b % 64) = true ∧
            OnlyRegs { s with entering := s'.entering } s' [Reg.off .CL_IPEND cl (4 * h + b / 64)]) ∧
        (s.iraiseAt ga = none → r.write = false → s.held tid = true →
          exec (.pcieInboundRequest k r) s = .next (s.emit (.pcie k.val .abort false []))) ∧
        (∀ a l, s.iraiseAt ga = none → (r.write = true → s.flag F.LE_PCIEWIN_W (2 * k.val) w = true) → s.held tid = false →
          s.space ga = .mem a l → exec (.pcieInboundRequest k r) s = .next (s.servePieces (.pcie k) (pciePacket ga tid r) tid
            ((piecesOf 256 a r.size.toNat).map (fun y => (y.1, y.1 - a, y.2))) 0 false)))) ∧
    ((s.link k.val).outs.contains t.val = true →
      (∀ a rd size sg y, (s.thread t.val).await = some a → a.what = .load rd size sg false y → rd < 32 → first a →
        ∃ s', exec (.pcieCompletionReceive k t .success v) s = .next s' ∧
          RegTakes s s' t.val rd (extend t.val size sg v) y ∧ (s'.thread t.val).await = none ∧
          (s'.thread t.val).pc = cutTo t.val ((s.thread t.val).pc + 4) ∧ (∀ u, u ≠ t.val → s'.thread u = s.thread u) ∧
          (s'.link k.val).outs = (s.link k.val).outs.erase t.val) ∧
      (t.val < 512 → st ≠ .success → checks (.pcieCompletionReceive k t st v)) ∧
      (t.val < 512 → checks (.pcieCompletionTimeout k t))) ∧
    ((s.link k.val).outs.contains t.val = false → exec (.pcieCompletionReceive k t st v) s = .next s ∧
      exec (.pcieCompletionTimeout k t) s = .next s) ∧
    (s.ethPort n = true →
      ((f.checksOk = false ∨ f.len.toNat < 60 ∨ 9212 < f.len.toNat) → drops) ∧
      (f.checksOk = true → 60 ≤ f.len.toNat → f.len.toNat ≤ 9212 →
        (s.pfld F.LE_PORTCFG_MACSEC n = 1 → f.prot = false → drops) ∧
        (∀ en times, (s.pfld F.LE_PORTCFG_MACSEC n ≠ 1 ∨ f.prot = true) → pfcOf f = some (en, times) → ∃ s',
          exec (.ethernetFrameReceive p f) s = .next s' ∧ { s'.port n with paused := x.paused } = x ∧
          (∀ i, i < 8 → mgetD (s'.port n).paused i 0 =
            (if en.testBit i then 512000 * (times[i]?).getD 0 / s.ethGb n else mgetD x.paused i 0)) ∧
          (∀ q, q ≠ n → s'.port q = s.port q) ∧ { s' with ports := s.ports } = s) ∧
        (pfcOf f = none → (s.pfld F.LE_PORTCFG_MACSEC n ≠ 1 ∨ f.prot = true) → x.rxq = [] → x.rxAt = none →
          let q := match f.pcp with | some c => c.val | none => s.pfld F.LE_PORTCFG_DEFQ n
          let tid := s.ethTid n q
          let d := s.ethDesc n q
          (s.portHeld n = true → exec (.ethernetFrameReceive p f) s = .next (s.setPort n { x with rxq := [(q, f)] })) ∧
          (s.portHeld n = false → s.ethOwns n q = false → drops) ∧
          (∀ y s2 s3, s.portHeld n = false → s.ethOwns n q = true →
            (((s.setPort n { x with rxq := [(q, f)] }).chargePort tid f.len.toNat).setPort n
              { x with rxq := [(q, f)], rxAt := some ⟨q, d, tid⟩ }).ethRead n false tid d 16 = (.got y, s2) → f.len.toNat ≤ y / 2 ^ 64 % 2 ^ 14 →
            s2.ethWrite n false tid (y % 2 ^ 64) f.len.toNat (frameNat f) = (true, s3) →
            let s4 := (s3.ethWrite n false tid (d + 8) 8 (ethBack (y / 2 ^ 64) f.len.toNat q (b2n f.prot) 0)).2
            ∃ s', exec (.ethernetFrameReceive p f) s = .next s' ∧ (s'.port n).rxq = [] ∧ (s'.port n).rxAt = none ∧
              s'.fld F.LE_ETHQPTR_HEAD (n / 4) (ethIdx n q) =
                (s4.fld F.LE_ETHQPTR_HEAD (n / 4) (ethIdx n q) + 1) % s4.ethRing n q % 2 ^ 16 ∧
              RegsBut s4 s' [Reg.off .LE_ETHQPTR (n / 4) (ethIdx n q)] ∧ { s' with regs := s4.regs, ports := s4.ports } = s4))) ∧
      (x.txq = none → (s.portHeld n = true ∨ s.ethNext n = none) → exec (.ethernetFrameTransmit p) s = .next s) ∧
      (∀ q y z s2 s3, x.txq = none → s.portHeld n = false → s.ethNext n = some q →
        let tid := s.ethTid n q
        let d := s.ethDesc n q
        let len := y / 2 ^ 64 % 2 ^ 14
        (s.setPort n { x with txq := some ⟨q, d, tid⟩, txGot := [] }).ethRead n true tid d 16 = (.got y, s2) →
        60 ≤ len → len ≤ 9212 → s2.ethRead n true tid (y % 2 ^ 64) len = (.got z, s3) →
        let frame := fun (len z : Nat) => Out.eth n len ((pieces 64 ((len + 7) / 8) z).map (fun k => BitVec.ofNat 64 k))
          (BitVec.ofNat 32 (crc32 (8 * len) z))
        let c := s3.chargePort tid len
        let ends := fun (t : State) =>
          let s4 := (t.ethWrite n true tid (d + 8) 8 (ethBack (y / 2 ^ 64) 0 0 0 0)).2
          ∃ s', exec (.ethernetFrameTransmit p) s = .next s' ∧ (s'.port n).txq = none ∧
            s'.fld F.LE_ETHQPTR_HEAD (n / 4) (ethIdx n q) =
              (s4.fld F.LE_ETHQPTR_HEAD (n / 4) (ethIdx n q) + 1) % s4.ethRing n q % 2 ^ 16 ∧ s'.out = s4.out
        ((s3.port n).sak = [] → ends (c.emit (frame len z))) ∧
        (∀ an key, (s3.port n).sak = [(an, key)] → 
          let r := Config.macsec key an (s3.port n).macSent len z
          let c : State := { c.setPort n { s3.port n with macSent := (s3.port n).macSent + 1 } with free := c.free + 1 }
          ends (c.emit (frame r.1 r.2)))))

/-! ### Cores -/

/-- Sleep, the Sorrel region and misses of a core (R104, R116, R376 to R378): a core both of whose threads wait goes to sleep, to S2
where its region is ready; S2 keeps the L2 and S3 keeps nothing; a wake during the entry is kept; from S3 both threads start at
CL_STARTPC; a region is loaded, becomes ready or is released with every line unlocked; a miss is filled, a prefetcher's line where it
has trained, and a load that runs ahead takes an entry of the fill buffer. That a prefetcher's line lies near one of its training is the
model's choice (entry 137). -/
def Obligations.CoresSleepWakeAndLoadRegions : Prop :=
  ∀ (m : Master) (c : Fin 256) (v a : Word) (s : State),
    let n := c.val
    let x := s.core n
    let ths := [thOf n 0, thOf n 1]
    let slp := Reg.off .CL_SLPCTL (n / 8) (n % 8)
    let srl := Reg.off .CL_SRLCTL (n / 8) (n % 8)
    let st := s.fld F.CL_SLPCTL_STATE (n / 8) (n % 8)
    let depth := s.fld F.CL_SLPCTL_DEPTH (n / 8) (n % 8)
    let entering := s.flag F.CL_SLPCTL_ENTERING (n / 8) (n % 8)
    let w := F.CL_SRLCTL_WAYS.of v
    let base := F.CL_SRLCTL_BASE.of v
    let released := fun (s' : State) => s'.flag F.CL_SRLCTL_READY (n / 8) (n % 8) = false ∧ (s'.core n).srlLoading = false ∧
      s'.fld F.CL_SRLCTL_WAYS (n / 8) (n % 8) = 0 ∧ ∀ e ∈ (s'.core n).l2, ∀ y ∈ e.2.ways, y.2.locked = false
    (s.live = true → s.domOn (clDom (n / 8)) = true → (∀ t ∈ ths, (s.thread t).run = .waiting) → depth ≠ 0 → s.sleeping n = false →
      ∃ s', exec (.sleepEntry c) s = .next s' ∧ s'.flag F.CL_SLPCTL_ENTERING (n / 8) (n % 8) = true ∧
        s'.core n = { x with wakePending := false,
                             sleepTo := if depth = 3 ∧ s.flag F.CL_SRLCTL_READY (n / 8) (n % 8) = true then 2 else depth } ∧
        (∀ d, d ≠ n → s'.core d = s.core d) ∧ OnlyRegs { s with cores := s'.cores } s' [slp]) ∧
    (entering = true → x.sleepTo < 4 → ∃ s', exec (.sleepEntryDone c) s = .next s' ∧
      s'.flag F.CL_SLPCTL_ENTERING (n / 8) (n % 8) = false ∧ s'.fld F.CL_SLPCTL_STATE (n / 8) (n % 8) = x.sleepTo ∧
      (x.wakePending = true → x.sleepTo ≤ 2 → s'.flag F.CL_SLPCTL_WAKING (n / 8) (n % 8) = true ∧ (s'.core n).wakePending = false) ∧
      (x.sleepTo ≤ 1 → s'.core n = { x with wakePending := false } ∧ s'.threads = s.threads) ∧
      (x.sleepTo = 2 → s'.core n = { x with
            wakePending := false,
            l1i := [], l1d := [], itlb := [], dtlb := [], dirPred := [], indPred := [], fillBuf := [], train := [], walk := [] } ∧
        ∀ t ∈ ths, (s'.thread t).resv = none ∧ (s'.thread t).ras = []) ∧
      (x.sleepTo = 3 → s'.core n = Core.initial ∧ ∀ t ∈ ths, (s.thread t).run = .waiting →
        s'.thread t = { Thread.initial t with run := .waiting })) ∧
    (s.live = true → s.sleeping n = true → s.wakeCond n (if entering then x.sleepTo else st) = true →
      (entering = true → exec (.sleepWakeEvent c) s = .next (s.setCore n { x with wakePending := true })) ∧
      (entering = false → ∃ s', exec (.sleepWakeEvent c) s = .next s' ∧ s'.flag F.CL_SLPCTL_WAKING (n / 8) (n % 8) = true ∧
        OnlyRegs s s' [slp])) ∧
    (s.flag F.CL_SLPCTL_WAKING (n / 8) (n % 8) = true → ∃ s', exec (.sleepWakeDone c) s = .next s' ∧
      s'.flag F.CL_SLPCTL_WAKING (n / 8) (n % 8) = false ∧ s'.fld F.CL_SLPCTL_STATE (n / 8) (n % 8) = 0 ∧
      (∀ t, t ∉ ths → s'.thread t = s.thread t ∧ mget s'.entering t = mget s.entering t) ∧ (∀ d, d ≠ n → s'.core d = s.core d) ∧
      { s'.core n with fillBuf := x.fillBuf } = x ∧
      OnlyRegs { s with threads := s'.threads, cores := s'.cores, entering := s'.entering } s' [slp] ∧
      (st = 3 → ∀ t ∈ ths, (s.thread t).run = .waiting →
        s'.thread t = { Thread.initial t with pc := s.startPc t, run := .running })) ∧
    (MayWrite s m → s.winOn .cl (n / 8) = true →
      (8 < w → WriteRefused (.sorrelRegionLoad m c v) s m 2 srl) ∧
      (w ≤ 8 → (s.sorrel (thOf n 0) || s.sorrel (thOf n 1)) = true → WriteRefused (.sorrelRegionLoad m c v) s m 5 srl ∧
        WriteRefused (.sorrelRegionRelease m c v) s m 5 srl) ∧
      ((s.sorrel (thOf n 0) || s.sorrel (thOf n 1)) = false →
        (w = 0 → ∃ s', exec (.sorrelRegionRelease m c v) s = .next s' ∧ released s' ∧ s'.threads = s.threads) ∧
        (1 ≤ w → w ≤ 8 → s.rangeLocal (base * 2 ^ 17) (w * 2 ^ 17) = false → WriteRefused (.sorrelRegionLoad m c v) s m 5 srl) ∧
        (1 ≤ w → w ≤ 8 → s.rangeLocal (base * 2 ^ 17) (w * 2 ^ 17) = true → ∃ s', exec (.sorrelRegionLoad m c v) s = .next s' ∧
          s'.fld F.CL_SRLCTL_WAYS (n / 8) (n % 8) = w ∧ s'.fld F.CL_SRLCTL_BASE (n / 8) (n % 8) = base ∧
          s'.flag F.CL_SRLCTL_READY (n / 8) (n % 8) = false ∧ (s'.core n).srlLoading = true ∧ s'.threads = s.threads))) ∧
    (x.srlLoading = true → ∀ s1, (s.lockGrans n (s.sorrelRegion n).1 ((s.sorrelRegion n).2 / 64) = (.waits, s1) →
        exec (.sorrelRegionReady c) s = .next s1) ∧
      (s.lockGrans n (s.sorrelRegion n).1 ((s.sorrelRegion n).2 / 64) = (.locked, s1) →
        ∃ s', exec (.sorrelRegionReady c) s = .next s' ∧ s'.flag F.CL_SRLCTL_READY (n / 8) (n % 8) = true ∧
          s'.core n = { s1.core n with srlLoading := false } ∧ OnlyRegs { s1 with cores := s'.cores } s' [srl]) ∧
      (s.lockGrans n (s.sorrelRegion n).1 ((s.sorrelRegion n).2 / 64) = (.stopped, s1) →
        ∃ s', exec (.sorrelRegionReady c) s = .next s' ∧ released s')) ∧
    (s.live = true → s.domOn (clDom (n / 8)) = true → x.failed = false → (s.rd .ERR_CORESTAT 0 (n / 8)).getLsbD (n % 8) = true →
      a.toNat < ctlBase →
      let g := a.toNat / 64
      let fills := fun (kind : FillKind) (slot age : Nat) (l1 : Bool) => ∀ s1 e,
        s.obtain n a.toNat (s.thread (thOf n slot)).tid false false false (.core (Fin.ofNat 514 (thOf n slot))) age = (e, s1) →
        (e = none → exec (.coreMissFill c a kind) s = .next (if l1 && !s1.l1dHas n g then s1.l1dFill n g else s1)) ∧
        (e = some .noMemory → ∃ s', exec (.coreMissFill c a kind) s = .next s' ∧ Records s1 s' 0x07 154) ∧
        (e = some .withdrawn ∨ e = some .wait → exec (.coreMissFill c a kind) s = .next s1)
      (∀ h : Fin 2, fills (.demand h) h.val 1 (!s.sorrel (thOf n h.val))) ∧
      (x.asks g = true → fills .stride 0 1 true ∧ fills .stream 0 3 false) ∧
      (x.asks g = false → exec (.coreMissFill c a .stride) s = .next s ∧ exec (.coreMissFill c a .stream) s = .next s) ∧
      (∀ h : Fin 2, let t := thOf n h.val
        let seen := { s.thread t with ahead := (s.thread t).ahead ++ [g] }
        (s.sorrel t = true → exec (.coreMissFill c a (.early h)) s = .next s) ∧
        (s.sorrel t = false → s.canIssue t = true →
          ((s.l1dHas n g = true ∨ (s.l2Find n g).isNone = true) → exec (.coreMissFill c a (.early h)) s = .next (s.setThread t seen)) ∧
          (s.l1dHas n g = false → (s.l2Find n g).isSome = true → ⟨h.val, g⟩ ∉ x.fillBuf →
            (x.fillBuf.length < 16 → exec (.coreMissFill c a (.early h)) s =
              .next ((s.setCore n { x with fillBuf := x.fillBuf ++ [⟨h.val, g⟩] }).setThread t seen)) ∧
            (16 ≤ x.fillBuf.length → exec (.coreMissFill c a (.early h)) s = .next s)))))

/-! ### Energy and power -/

/-- The ledger, levels, domains and Dormant (R359 to R362, R367 to R375, R379 to R381): a posting debits whole nJ and carries the rest;
a close records the frame that has ended, moves the device account and its gate and grants the plan's energy; FACTOR moves at most 64 and stays in
its range; a level request, the ramp and the end of a transition move a cluster; a domain goes on and off where software may switch
it; Dormant keeps AO alone and a wake brings back the domains that were on. -/
def Obligations.EnergyLedgerAndPowerDomains : Prop :=
  ∀ (m : Master) (v : Word) (cl : Fin 32) (d : Fin 83) (sensed t e : Nat) (s : State),
    let l := s.ledger
    let bal := s.balance t
    let target := max (max (F.ENL_PLVL_REQ.of v) (s.fld F.ENL_PLVL_CAP 0 cl.val)) (s.fld F.ENL_STAT_NOP0)
    let plvl := Reg.off .ENL_PLVL 0 cl.val
    let pwr := Reg.off .ENL_PWRCTL 0 d.val
    let st := s.fld F.ENL_PWRCTL_STATE 0 d.val
    let cap : Int := s.dcap
    let w := s.planWord (0x40_0000 + 8 * t)
    let busy := s.rd .MAP_INSVCA ≠ 0 ∨ (∃ k, k < 3 ∧ s.rd .MAP_INSVCP 0 k ≠ 0) ∨
      (s.flag F.ENL_RTCALM_ALMEN = true ∧ s.fld F.ENL_RTCALM_ALARM ≤ s.fld F.ENL_RTC_COUNT)
    let frames := [Reg.off .ENL_ACCT 0 t, Reg.off .ENL_STAT 0 0]
    (t < 1024 → l.sets = [] → l.c0act = [] → l.act = [(t, e)] →
      let nj := (e + mgetD l.rem t 0) / enUnit
      bal - nj ≥ -(2 ^ 39) → ∃ s', exec (.ledgerPosting []) s = .next s' ∧ s'.balance t = bal - nj ∧
        mgetD s'.ledger.rem t 0 = (e + mgetD l.rem t 0) % enUnit ∧ s'.ledger.act = [] ∧
        s'.ledger.frame = l.frame + nj ∧ s'.ledger.window = l.window + nj ∧ s'.ledger.posted = l.posted + nj ∧
        (s.pexc * s.tf * 10 ≤ l.posted + nj → s'.flag F.ENL_STAT_FRAMECAP = true ∧ s'.ledger.capNow = true) ∧
        OnlyRegs { s with ledger := s'.ledger } s' frames) ∧
    (l.ended = none → exec (.ledgerClose []) s = .next s) ∧
    (∀ fr tf, l.sets = [] → l.ended = some fr → fr.act = [] → fr.c0act = [] → fr.tf = some tf → ∃ s', exec (.ledgerClose []) s = .next s' ∧
      let dev : Int := max (min cap (sexNat 40 (s.fld F.ENL_DEVACCT_D) + (s.psust * tf * 10 : Nat) - (fr.energy : Int))) (-(2 ^ 39))
      s'.rd .ENL_FRAMEEN = BitVec.ofNat 64 (fr.energy % 2 ^ 40) ∧
      let last := (s.frame - 1).toNat % 1024 = 0
      s'.ledger = { l with ended := none, closed := some (s.frame - 1), usedLast := fr.used, ramp := s'.ledger.ramp,
                           recalDue := decide last || l.recalDue, metered := if last then l.window else l.metered,
                           window := if last then 0 else l.window,
                           capNow := l.capNow || decide (s.pexc * s.tf * 10 ≤ l.posted) } ∧
      (s'.fld F.ENL_DEVACCT_D = encInt 40 dev ∧
        s'.flag F.ENL_STAT_GATE = (if dev ≤ 0 ∧ s.flag F.ENL_STAT_GATE = false then true else if cap ≤ 8 * dev then false else s.flag F.ENL_STAT_GATE) ∧
        s'.flag F.ENL_STAT_NOP0 = (s'.flag F.ENL_STAT_GATE || decide (4 * dev < cap))) ∧
      (t < 1024 → s.planBad (0x40_0000 + 8 * t) = false → bal + (getBits w 31 0 : Nat) < 2 ^ 39 →
        s'.balance t = bal + (getBits w 31 0 : Nat) ∧ s'.fld F.ENL_C0RES_RES 0 t = getBits w 63 32)) ∧
    (l.recalDue = true → 0 < l.metered →
      let f := s.fld F.ENL_CALFACT_FACTOR
      let q := f * sensed / l.metered + (if 2 * (f * sensed % l.metered) > l.metered then 1 else 0)
      let near := min (max q (f - 64)) (f + 64)
      2 * (f * sensed % l.metered) ≠ l.metered → ∃ s', exec (.recalibration sensed) s = .next s' ∧
        s'.fld F.ENL_CALFACT_FACTOR = min (max near 3584) 4608 ∧ s'.ledger = { l with recalDue := false } ∧
        ((near < 3584 ∨ 4608 < near) → s'.flag F.ENL_STAT_CALOOR = true ∧ Records s s' 0x13 154)) ∧
    (l.recalDue = false → exec (.recalibration sensed) s = .next s) ∧
    (MayWrite s m →
      ((m = .keeper ∨ m = .cadence) → exec (.setBalance m v) s = .next { s with ledger := { l with
        sets := l.sets ++ [(F.ENL_ACCTSET_TID.of v, BitVec.ofNat 40 (F.ENL_ACCTSET_VALUE.of v))] } }) ∧
      (m ≠ .keeper → m ≠ .cadence → WriteRefused (.setBalance m v) s m 4 (Reg.off .ENL_ACCTSET 0 0)) ∧
      (5 < F.ENL_PLVL_REQ.of v → WriteRefused (.performanceLevelRequest m cl v) s m 2 plvl) ∧
      (F.ENL_PLVL_REQ.of v ≤ 5 → s.flag F.ENL_PLVL_BUSY 0 cl.val = false → ∃ s', exec (.performanceLevelRequest m cl v) s = .next s' ∧
        s'.fld F.ENL_PLVL_REQ 0 cl.val = F.ENL_PLVL_REQ.of v ∧
        s'.flag F.ENL_PLVL_BUSY 0 cl.val = decide (target ≠ s.fld F.ENL_PLVL_CUR 0 cl.val) ∧
        s'.fld F.ENL_PLVL_CUR 0 cl.val = (if s.fld F.ENL_PLVL_CUR 0 cl.val < target then target else s.fld F.ENL_PLVL_CUR 0 cl.val) ∧
        (target ≠ s.fld F.ENL_PLVL_CUR 0 cl.val → mget s'.ledger.ramp cl.val = some target) ∧
        OnlyRegs { s with ledger := s'.ledger } s' [plvl]) ∧
      (st = 0 → ∃ s', exec (.powerDomainOn m d) s = .next s' ∧ s'.fld F.ENL_PWRCTL_STATE 0 d.val = 1 ∧
        s'.flag F.ENL_PWRCTL_ON 0 d.val = true ∧ OnlyRegs s s' [pwr]) ∧
      (st = 2 → s.mayOff d.val = true → ∃ s', exec (.powerDomainOff m d) s = .next s' ∧ s'.fld F.ENL_PWRCTL_STATE 0 d.val = 3 ∧
        s'.flag F.ENL_PWRCTL_ON 0 d.val = false ∧ OnlyRegs s s' [pwr]) ∧
      (st ≠ 0 → s.mayOff d.val = false → WriteRefused (.powerDomainOff m d) s m 5 pwr) ∧
      ((¬busy → s.board.dorm = .awake → exec (.enterDormant m) s =
          .next { s with board := { s.board with dorm := .entering, wakePend := false } }) ∧
        (busy → WriteRefused (.enterDormant m) s m 5 (Reg.off .ENL_DORMCTL 0 0)))) ∧
    (∀ k, mget l.ramp cl.val = some k → k < 8 → ∃ s', exec (.voltageRampDone cl) s = .next s' ∧ s'.fld F.ENL_PLVL_CUR 0 cl.val = k ∧
      s'.ledger = { l with ramp := merase l.ramp cl.val } ∧ OnlyRegs { s with ledger := s'.ledger } s' [plvl]) ∧
    (s.flag F.ENL_PLVL_BUSY 0 cl.val = true → mget l.ramp cl.val = none → s.levelTarget cl.val = s.fld F.ENL_PLVL_CUR 0 cl.val →
      ∃ s', exec (.levelTransitionDone cl) s = .next s' ∧ s'.flag F.ENL_PLVL_BUSY 0 cl.val = false ∧ OnlyRegs s s' [plvl]) ∧
    (d.val ≠ 0 → (st = 1 → ∃ s', exec (.powerDomainOnDone d) s = .next s' ∧
        s'.fld F.ENL_PWRCTL_STATE 0 d.val = (if s.flag F.ENL_PWRCTL_ON 0 d.val then 2 else 3) ∧
        (∀ w, 55 ≤ d.val → d.val < 71 → s.sec.kwk = some w →
          mget s'.sec.slots ((d.val - 55) * 1024) = some (Config.kdfTid0 w))) ∧
      (st = 3 → ∃ s', exec (.powerDomainOffDone d) s = .next s' ∧
        s'.fld F.ENL_PWRCTL_STATE 0 d.val = (if s.flag F.ENL_PWRCTL_ON 0 d.val then 1 else 0) ∧
        (∀ k, 55 ≤ d.val → d.val < 71 → k < 1024 → mget s'.sec.slots ((d.val - 55) * 1024 + k) = none))) ∧
    (st ≠ 1 → exec (.powerDomainOnDone d) s = .next s) ∧ (st ≠ 3 → exec (.powerDomainOffDone d) s = .next s) ∧
    (s.board.dorm = .entering → s.board.wakePend = false → ∃ s', exec .dormantEntryDone s = .next s' ∧ s'.board.dorm = .dormant ∧
      s'.board.session = none ∧ s'.live = false ∧ (d.val ≠ 0 → s'.domOn d.val = false) ∧
      (d.val ∈ s'.board.savedOn ↔ d.val ≠ 0 ∧ s.domOn d.val = true) ∧ s'.keep = s.keep ∧ s'.kwcnt = s.kwcnt ∧ s'.sec.kwk = s.sec.kwk) ∧
    (s.board.dorm ≠ .awake → s.board.wakePend = false → ∃ s', exec .wakeNAssert s = .next s' ∧ s'.fld F.ENL_WAKESTAT_CAUSE = 2 ∧
      s'.board = { s.board with wakePend := true } ∧ OnlyRegs { s with board := s'.board } s' [Reg.off .ENL_WAKESTAT 0 0]) ∧
    (s.board.dorm = .awake → exec .wakeNAssert s = .next s) ∧
    (s.board.dorm = .dormant → s.board.wakePend = true → s.sec.erasing = false → ∃ s', exec .dormantWake s = .next s' ∧
      s'.board.dorm = .awake ∧ s'.board.romReady = true ∧ s'.board.kind = 3 ∧ s'.keep = s.keep ∧
      (7 ≤ d.val → d.val ∈ s.board.savedOn → s'.domOn d.val = true)) ∧
    (s.flag F.ENL_RTCALM_ALMEN = true → ∃ s', exec .rtcAlarm s = .next s' ∧ s'.flag F.ENL_STAT_RTCFIRED = true ∧
      s'.fld F.ENL_RTC_COUNT = s.fld F.ENL_RTCALM_ALARM ∧ bitOf (s'.rd .KPR_IPEND) 8 = true ∧
      RegsBut s s' [Reg.off .ENL_STAT 0 0, Reg.off .ENL_RTC 0 0, Reg.off .KPR_IPEND 0 0, Reg.off .ENL_WAKESTAT 0 0]) ∧
    (s.flag F.ENL_RTCALM_ALMEN = false → exec .rtcAlarm s = .next s)

/-! ### Signal engines and groups -/

/-- Jobs of an engine (R173 to R176, R178 to R180, R365, R366, R461): the next frame slot is due; a halted engine skips it, a held TID
and an account that cannot pay refuse it; otherwise it begins at its entry with its arguments and its TID's hold, once the loads
of the job before have landed. The deadline aborts a job with its outputs STALE; a debug session with the scope halts and releases
an engine; a missed line of the DRAM cache comes in, ends the job where it cannot be had, and is a program error of the load's slot
and bundle where there is no memory. -/
def Obligations.EngineJobsStartEndAndHalt : Prop :=
  ∀ (e : Fin 128) (j : Nat) (s : State), j < 4 →
    let n := e.val
    let x := s.engine n
    let w := s.jobWord n j 0
    let arg := s.jobWord n j 2
    let tid := getBits w 41 32
    let en := getBits (s.jobWord n j 1) 63 32
    let outs := getBits (s.jobWord n j 3) 7 0
    let st := s.fld F.SE_STAT_STATE n
    let stat := Reg.off .SE_STAT n 0
    let bufs := (List.range 8).map (fun k => Reg.off .SE_OBUFST n k)
    let plain := fun k => s.jobKind n k ≠ 1 ∧ s.jobBad n k = false
    let begins := fun (c : Instr) (sf : Bool) (hold : Nat) => ∃ s', exec c s = .next s' ∧
      s'.fld F.SE_STAT_STATE n = 1 ∧ s'.flag F.SE_STAT_SFJOB n = sf ∧ s'.fld F.SE_STAT_SLOT n = j ∧ s'.fld F.SE_STAT_TID n = tid ∧
      (s'.engine n).pc = getBits w 26 16 ∧ (s'.engine n).next = j + 1 ∧ (s'.engine n).rd_p 0 = arg.setWidth 32 ∧
      (s'.engine n).rd_p 1 = (arg >>> 32).setWidth 32 ∧ (s'.engine n).cache = [] ∧ (s'.engine n).flight = [] ∧ (s'.engine n).lbuf = [] ∧
      (s'.engine n).job = some { slot := j, sf := sf, c0 := bitOf w 2, yieldOk := bitOf w 3, tid := tid, endPos := getBits w 59 48,
                                 outmask := BitVec.ofNat 8 outs, hold := hold, used := 0,
                                 wins := (List.range 4).map (fun k => s.jobWord n j (4 + k)) } ∧
      (x.lastTid = some tid → (s'.engine n).dmem = x.dmem ∧ (s'.engine n).d = x.d ∧ (s'.engine n).a = x.a ∧ (s'.engine n).m = x.m) ∧
      (x.lastTid ≠ some tid → (s'.engine n).dmem = [] ∧ (s'.engine n).d = [] ∧ (s'.engine n).a = [] ∧ (s'.engine n).m = [] ∧
        (s'.engine n).loc = []) ∧
      s'.balance tid = s.balance tid - hold ∧ (∀ k, k ≠ n → s'.engine k = s.engine k) ∧
      RegsBut s s' [stat, Reg.off .ENL_ACCT 0 tid] ∧ { s' with regs := s.regs, engines := s.engines, errs := s.errs } = s
    let notStarted := fun (c : Instr) (result : Nat) => ∃ s', exec c s = .next s' ∧ s'.fld F.SE_LASTJOB_RESULT n = result ∧
      s'.fld F.SE_LASTJOB_SLOT n = j ∧ s'.fld F.SE_LASTJOB_FRAME n = s.frame.toNat % 2 ^ 48 ∧
      s'.rd .SG_SKIPCNT (n / 8) = s.rd .SG_SKIPCNT (n / 8) + 1 ∧ s'.engine n = { x with next := j + 1 } ∧
      (∀ k, k < 8 → s'.flag F.SE_OBUFST_STALE n k = (outs.testBit k || s.flag F.SE_OBUFST_STALE n k)) ∧
      (∀ k, k ≠ n → s'.engine k = s.engine k) ∧ RegsBut s s' ([Reg.off .SE_LASTJOB n 0, Reg.off .SG_SKIPCNT (n / 8) 0] ++ bufs) ∧
      { s' with regs := s.regs, engines := s.engines } = s
    let due := fun (c : Instr) (sf : Bool) =>
      (st = 3 → notStarted c 3) ∧
      (st ≠ 3 → s.held tid = true → notStarted c 4) ∧
      (st ≠ 3 → s.held tid = false →
        (bitOf w 2 = true → begins c sf 0) ∧
        (bitOf w 2 = false → tid ≠ 0 → (s.deviceGate = true ∨ s.balance tid < en) → notStarted c 4) ∧
        (bitOf w 2 = false → (tid = 0 ∨ (s.deviceGate = false ∧ en ≤ s.balance tid)) → s.balance tid - en ≥ -(2 ^ 39) →
          begins c sf en))
    let aborts := fun (y : Job) (result : Nat) => ∃ s', exec (.jobDeadline e) s = .next s' ∧ (s'.engine n).job = none ∧
      s'.fld F.SE_STAT_STATE n = (if x.haltReq = true ∨ st = 3 then 3 else 0) ∧ s'.flag F.SE_STAT_SFJOB n = false ∧
      (y.sf = true ∨ y.slot = 3 → s'.fld F.SE_LASTJOB_RESULT n = result ∧ s'.fld F.SE_LASTJOB_SLOT n = y.slot) ∧
      s'.rd .SG_OVRCNT (n / 8) = (if result = 2 then s.rd .SG_OVRCNT (n / 8) + 1 else s.rd .SG_OVRCNT (n / 8)) ∧
      (∀ k, k < 8 → y.outmask.getLsbD k = true → s'.flag F.SE_OBUFST_STALE n k = true) ∧
      (∀ k, k < 4 → s'.flag F.SE_DMACTL_BUSY n k = false) ∧ (∀ k, k ≠ n → s'.engine k = s.engine k) ∧
      { s' with regs := s.regs, engines := s.engines, ledger := s.ledger } = s
    let refused := fun (c : Instr) => s.live = true → s.scope 3 = false → WriteRefused c s .debug 4 stat
    (s.engineUp n = true → x.job = none → x.owed = none →
      (x.next ≤ j → s.jobKind n j = 1 → (∀ k, x.next ≤ k → k < j → plain k) → due (.jobStart e) false) ∧
      ((∀ k, x.next ≤ k → k < 4 → plain k) → exec (.jobStart e) s = .next s ∧
        exec (.jobDeadline e) s = .next (s.setEngine n { x with next := 4 })) ∧
      (j = 0 → s.jobKind n 0 = 2 → x.next = 0 → (s.rd .CAD_SFPOS).toNat = getBits w 15 4 →
        (s.tick.fresh = true → due (.superframeJobStart e) true) ∧
        (s.tick.fresh = false → notStarted (.superframeJobStart e) 3))) ∧
    (s.engineUp n = true → x.job = none → x.owed.isSome = true → (∀ k, x.next ≤ k → k < 4 → plain k) →
      exec (.jobDeadline e) s = .next (s.setEngine n { x.abandon with next := 4 })) ∧
    ((x.job.isSome = true ∨ x.owed.isSome = true) → exec (.jobStart e) s = .next s ∧ exec (.superframeJobStart e) s = .next s) ∧
    (s.engineUp n = true → ∀ y, x.job = some y → y.slot < 4 →
      (y.sf = false → aborts y 2) ∧
      (y.sf = true → (s.rd .CAD_SFPOS).toNat = y.endPos → aborts y 2) ∧
      (y.sf = true → (s.rd .CAD_SFPOS).toNat ≠ y.endPos → s.changeNext = true → aborts y 6) ∧
      (y.sf = true → (s.rd .CAD_SFPOS).toNat ≠ y.endPos → s.changeNext = false → exec (.jobDeadline e) s = .next s)) ∧
    (s.live = true → s.scope 3 = true → s.domOn (sgDom (n / 8)) = true →
      ((∀ y, x.job = some y → y.c0 = true → y.yieldOk = true) → ∃ s', exec (.haltEngine e) s = .next s' ∧
        s'.fld F.SE_STAT_STATE n = 3 ∧ OnlyRegs s s' [stat]) ∧
      (∀ y, x.job = some y → y.c0 = true → y.yieldOk = false →
        exec (.haltEngine e) s = .next (s.setEngine n { x with haltReq := true })) ∧
      (∃ s', exec (.releaseEngine e) s = .next s' ∧ s'.engine n = { x with haltReq := false } ∧
        s'.fld F.SE_STAT_STATE n = (if st = 3 then b2n x.job.isSome else st) ∧ (∀ k, k ≠ n → s'.engine k = s.engine k) ∧
        OnlyRegs { s with engines := s'.engines } s' [stat])) ∧
    refused (.haltEngine e) ∧ refused (.releaseEngine e) ∧
    (∀ y line slot b rest, x.job = some y → x.miss = ⟨line, slot, b⟩ :: rest → s.space (BitVec.ofNat 64 (line * 128)) = .nothing →
      ∃ s', exec (.dramCacheFill e) s = .next s' ∧ (s'.engine n).job = none ∧
        s'.rd .SE_FAULT n = BitVec.ofNat 64 (7 + slot * 2 ^ 4 + b * 2 ^ 16 + s.frame.toNat % 2 ^ 32 * 2 ^ 32)) ∧
    (∀ y line slot b rest la l, x.job = some y → x.owed = none → x.miss = ⟨line, slot, b⟩ :: rest →
        s.space (BitVec.ofNat 64 (line * 128)) = .mem la l →
      let k := la / 128 % 2
      ∀ f s1, (s.ncRead la l (3#4 <<< (2 * k)) y.tid y.c0 (.engineCache e) = (.done f, s1) → f.ue = 0 →
        let z := s1.engine n
        ∃ s' c, exec (.dramCacheFill e) s = .next s' ∧ (s'.engine n).ecFind line = some c ∧
          c.data = (f.data >>> (1024 * k)).setWidth 1024 ∧ (s'.engine n).miss = z.miss.filter (fun m => decide (m.line ≠ line)) ∧
          (s'.engine n).job = z.job ∧ (s'.engine n).flight.length = z.flight.length ∧
          { s' with engines := s1.engines, errs := s1.errs, regs := s1.regs } = s1) ∧
        (s.ncRead la l (3#4 <<< (2 * k)) y.tid y.c0 (.engineCache e) = (.withdrawn, s1) →
          ∃ s', exec (.dramCacheFill e) s = .next s' ∧ (s'.engine n).job = none))

/-- The units of a group (R164, R168, R169, R181 to R188): GO of a channel that is busy is refused, one with wrong endpoints or an
unaligned address stops with its code, a good one starts under its job's TID; STOP, the end and a failure set the channel's
event; a timer loads at cycle 30 of a later frame, and with its count at 0 expires with its event and its pin, which it toggles or
pulses; a pin has one driver; an edge goes into the FIFO of four or
sets OVF; a program switch is armed two frames ahead; the active bank takes no write. -/
def Obligations.GroupsMoveTimeAndSwitch : Prop :=
  ∀ (m : Master) (e : Fin 128) (c : Fin 4) (g : Fin 16) (t : Fin 8) (rise : Bool) (cycle : BitVec 16) (code : BitVec 4) (ev : Fin 20)
    (v : Word) (off : BitVec 40) (s : State),
    let n := e.val
    let k := c.val
    let a := g.val
    let i := t.val
    let x := s.engine n
    let ctl := Reg.off .SE_DMACTL n k
    let busy := s.flag F.SE_DMACTL_BUSY n k
    let sh := dmaShape (s.rd .SE_DMASHAPE n k)
    let src := s.rd .SE_DMASRC n k
    let dst := s.rd .SE_DMADST n k
    let ap1 := s.inAperture n src sh.2.1 sh.2.2.1 sh.1
    let ap2 := s.inAperture n dst sh.2.1 sh.2.2.2 sh.1
    let far := s.space (if ap1 then dst else src)
    let stopped := fun (i : Instr) (code : Nat) => ∃ s', exec i s = .next s' ∧ s'.flag F.SE_DMACTL_BUSY n k = false ∧
      s'.flag F.SE_DMACTL_ERR n k = true ∧ s'.fld F.SE_DMACTL_ERRCODE n k = code % 16 ∧ (s'.evPend n).testBit (16 + k) = true ∧
      mget (s'.engine n).dma k = none ∧ (∀ b, b ≠ n → s'.engine b = s.engine b) ∧
      OnlyRegs { s with engines := s'.engines } s' [ctl, Reg.off .SE_EVPEND n 0]
    let timers := [Reg.off .SG_TMRCTL a i, Reg.off .SG_TMRCNT a i]
    let reload := s.fld F.SG_TMRCNT_RELOAD a i
    let bound := 8 * a + s.fld F.SG_TMRCTL_ENGINE a i
    let pin := s.fld F.SG_TMRCTL_PIN a i
    let drives := s.flag F.SG_TMRCTL_OUTEN a i && (s.rd .SG_TIODRV a).getLsbD pin
    let edge := s.fld F.SG_CAPCTL_EDGE a i
    let hit := if rise then decide (edge = 1 ∨ edge = 3) else decide (edge = 2 ∨ edge = 3)
    let q := mgetD (s.group a).fifo i []
    let clash := ∃ h, h < 16 ∧ h ≠ a ∧ (s.rd .SG_TIODRV h).toNat &&& getBits v 15 0 ≠ 0
    let armed := s.flag F.SE_SWSTAT_ARMED n
    let sw := [Reg.off .SE_SWFRAME n 0, Reg.off .SE_SWSTAT n 0]
    (s.groupUp (n / 8) = true → x.held = false →
      (busy = true → (∃ s', exec (.dmaGo e c) s = .next s' ∧ CtlErrorLogged s s' (sgStop (n / 8)) true 5 ctl) ∧ stopped (.dmaStop e c) 5) ∧
      (busy = false → exec (.dmaStop e c) s = .next s ∧
        (ap1 = ap2 → stopped (.dmaGo e c) 6) ∧ (∀ o, ap1 ≠ ap2 → far = .ctl o → stopped (.dmaGo e c) 6) ∧
        (ap1 ≠ ap2 → (∀ o, far ≠ .ctl o) →
          ((sh.1 % 8 ≠ 0 ∨ src.toNat % 8 ≠ 0 ∨ dst.toNat % 8 ≠ 0) → stopped (.dmaGo e c) 7) ∧
          (∀ j p l, sh.1 % 8 = 0 → src.toNat % 8 = 0 → dst.toNat % 8 = 0 → far = .mem p l → x.job = some j → j.tid < 1024 →
            ∃ s', exec (.dmaGo e c) s = .next s' ∧ s'.flag F.SE_DMACTL_BUSY n k = true ∧ s'.fld F.SE_DMACTL_TID n k = j.tid ∧
              s'.engine n = { x with dma := mput x.dma k ⟨j.tid, j.c0, j.wins, src, dst, s.rd .SE_DMASHAPE n k⟩ } ∧
              (∀ b, b ≠ n → s'.engine b = s.engine b) ∧ OnlyRegs { s with engines := s'.engines } s' [ctl])))) ∧
    (∀ d, mget x.dma k = some d → s.dmaOuts n k = false →
      (∀ s1, s.dmaMoves n k d (s.dmaPieces n d 256).1 (s.dmaPieces n d 256).2 = (.moved, s1) → (s1.engine n).held = false →
        ∃ s', exec (.dmaDone e c) s = .next s' ∧ s'.flag F.SE_DMACTL_BUSY n k = false ∧ (s'.evPend n).testBit (16 + k) = true ∧
          mget (s'.engine n).dma k = none ∧ (s'.engine n).dmem = (s1.engine n).dmem ∧
          OnlyRegs { s1 with engines := s'.engines } s' [ctl, Reg.off .SE_EVPEND n 0]) ∧
      (∀ s1, s.dmaMoves n k d (s.dmaPieces n d 256).1 (s.dmaPieces n d 256).2 = (.failed code.toNat, s1) → (s1.engine n).held = false →
        ∃ s', exec (.dmaFail e c code) s = .next s' ∧ s'.flag F.SE_DMACTL_ERR n k = true ∧
          s'.fld F.SE_DMACTL_ERRCODE n k = code.toNat ∧ (s'.evPend n).testBit (16 + k) = true)) ∧
    (∀ d, mget x.dma k = some d → s.dmaOuts n k = true → x.held = false → (code = 3 ∨ code = 4) → stopped (.dmaFail e c code) code.toNat) ∧
    (∀ f, mget (s.group a).start i = some f → s.groupUp a = true → s.flag F.CAD_STAT_RUN = true → s.tick.started = true →
        s.tick.effectDue = false →
      (f ≠ some s.frame → ∃ s', exec (.timerLoad g t) s = .next s' ∧ mget (s'.group a).start i = none ∧
        mget (s'.group a).count i = (if reload = 0 then none else some reload) ∧
        s'.flag F.SG_TMRCTL_EN a i = (s.flag F.SG_TMRCTL_EN a i && decide (reload ≠ 0)) ∧
        (∀ h, h ≠ a → s'.group h = s.group h) ∧ OnlyRegs { s with groups := s'.groups } s' timers) ∧
      (f = some s.frame → exec (.timerLoad g t) s = .next s)) ∧
    (mget (s.group a).start i = none → exec (.timerLoad g t) s = .next s) ∧
    (mget (s.group a).count i ≠ some 0 → exec (.timerExpiry g t) s = .next s) ∧
    (s.groupUp a = true → mget (s.group a).count i = some 0 → s.flag F.SG_TMRCTL_EN a i = true →
      ∃ s', exec (.timerExpiry g t) s = .next s' ∧ (s'.evPend bound).testBit i = true ∧
        s'.flag F.SG_TMRCTL_EN a i = (!s.flag F.SG_TMRCTL_MODE a i && decide (reload ≠ 0)) ∧
        mget (s'.group a).count i = (if s.flag F.SG_TMRCTL_MODE a i = true ∨ reload = 0 then none else some reload) ∧
        s'.out = s.out ++ (if drives = true ∧ s.flag F.SG_TMRCTL_OUTACT a i = true then [.pulse pin] else []) ∧
        (∀ h, h ≠ a → s'.group h = s.group h) ∧
        (∀ b, b < 16 → s'.board.tioOut.getLsbD b = if drives = true ∧ b = pin then
          (!s.flag F.SG_TMRCTL_OUTACT a i && !s.board.tioOut.getLsbD b) else s.board.tioOut.getLsbD b) ∧
        OnlyRegs { s with board := s'.board, groups := s'.groups, out := s'.out } s' (Reg.off .SE_EVPEND bound 0 :: timers)) ∧
    (s.groupUp a = true → s.flag F.SG_CAPCTL_EN a i = true → hit = true →
      (q.length < 4 → exec (.tioEdge g t rise cycle) s = .next (s.setGroup a { s.group a with
        fifo := mput (s.group a).fifo i (q ++ [⟨BitVec.ofNat 32 s.frame.toNat, cycle, rise⟩]) })) ∧
      (4 ≤ q.length → ∃ s', exec (.tioEdge g t rise cycle) s = .next s' ∧ s'.flag F.SG_CAPDATA_OVF a i = true ∧
        OnlyRegs s s' [Reg.off .SG_CAPDATA a i])) ∧
    ((s.flag F.SG_CAPCTL_EN a i = false ∨ hit = false) → exec (.tioEdge g t rise cycle) s = .next s) ∧
    (s.groupUp (n / 8) = true → (s.evPend n).testBit ev.val = true → exec (.eventPending e ev) s = .next (s.retry n)) ∧
    ((s.evPend n).testBit ev.val = false → exec (.eventPending e ev) s = .next s) ∧
    (MayWrite s m →
      (s.winOn .sg a = true →
        (clash → WriteRefused (.tioDriveWrite m g v) s m 5 (Reg.off .SG_TIODRV a 0)) ∧
        (¬clash → ∃ s', exec (.tioDriveWrite m g v) s = .next s' ∧ s'.rd .SG_TIODRV a = BitVec.ofNat 64 (getBits v 15 0) ∧
          OnlyRegs s s' [Reg.off .SG_TIODRV a 0])) ∧
      (s.winOn .se n = true →
        (armed = false → s.frame.toNat + 2 ≤ v.toNat → ∃ s', exec (.armProgramSwitch m e v) s = .next s' ∧ s'.rd .SE_SWFRAME n = v ∧
          s'.flag F.SE_SWSTAT_ARMED n = true ∧ OnlyRegs s s' sw) ∧
        ((armed = true ∨ v.toNat < s.frame.toNat + 2) → WriteRefused (.armProgramSwitch m e v) s m 5 (Reg.off .SE_SWFRAME n 0)) ∧
        (∃ s', exec (.cancelProgramSwitch m e) s = .next s' ∧ s'.flag F.SE_SWSTAT_ARMED n = false ∧ OnlyRegs s s' sw)) ∧
      (∀ b kind o, ctlPlace off.toNat = .engineMem b kind o → s.winOn .se b = true →
        (kind = 0 → ∃ s', exec (.engineApertureAccess m off (some v)) s = .next s' ∧ mgetD (s'.engine b).dmem o ⟨0, false⟩ = ⟨v, false⟩ ∧
          (∀ h, h ≠ o → mgetD (s'.engine b).dmem h ⟨0, false⟩ = mgetD (s.engine b).dmem h ⟨0, false⟩) ∧
          { s' with engines := s.engines, errs := s.errs, regs := s.regs } = s) ∧
        (kind = 1 + s.fld F.SE_STAT_ACTIVE b → WriteRefused (.engineApertureAccess m off (some v)) s m 5 off.toNat) ∧
        (kind ≠ 0 → s.flag F.SE_SWSTAT_ARMED b = true → WriteRefused (.engineApertureAccess m off (some v)) s m 5 off.toNat) ∧
        (kind = 2 → s.fld F.SE_STAT_ACTIVE b = 0 → s.flag F.SE_SWSTAT_ARMED b = false →
          ∃ s', exec (.engineApertureAccess m off (some v)) s = .next s' ∧ mgetD (s'.engine b).progB o ⟨0, false⟩ = ⟨v, false⟩ ∧
            (s'.engine b).progA = (s.engine b).progA ∧ (s'.engine b).dmem = (s.engine b).dmem))) ∧
    (∀ b o w, MayRead s m → ArraysClean s → ctlPlace off.toNat = .engineMem b 0 o → s.winOn .se b = true →
      mgetD (s.engine b).dmem o ⟨0, false⟩ = ⟨w, false⟩ →
      exec (.engineApertureAccess m off none) s = .next (s.emit (.read m off.toNat w)))

/-! ### Instructions of the signal engines -/

/-- The M slots and slot A (R190, R194, R197, R199 to R202): a syllable joins its bundle; issued, the multiplies add to, subtract
from or replace an accumulator, saturated, visible two bundles later; a complex pair takes the odd slot with it; slot A gives
its sample to the next bundle, rounded and brought into range as SMODE says. -/
def Obligations.SignalArithmeticComputes : Prop :=
  ∀ (e : Fin 128) (sl : Slot) (w : Syl) (j : Job) (s : State),
    let n := e.val
    let x := s.engine n
    let f := fun hi lo => sylFld w hi lo
    let mem := fun i => mgetD x.dmem i ⟨0, false⟩
    let now := some (0 : Fin 2048)
    let joins := fun (c : Instr) (o : BitVec 6) => s.mayIssue n = true →
      exec c s = .next (s.setEngine n { x with bundle := x.bundle.filter (fun b => decide (b.1 ≠ sl)) ++ [(sl, o, w)] })
    let acc := fun (r : Nat) (v : Int) => (⟨1, .a r, BitVec.ofNat 64 (encInt 56 (sat56 v).1), none⟩ : Flight)
    let sat := fun (v : Int) => b2n (sat56 v).2
    let a := f 25 23
    let old := accInt (x.rd_a a)
    let sum := x.smp (f 22 18) * x.smp (f 17 13) + x.smp (f 12 8) * x.smp (f 7 3)
    let mac := fun (i : Option (Fin 2048) → Instr) (o : BitVec 6) (v : Int) => joins (i none) o ∧
      (EngineReady s n j [] → sl ∈ [Slot.m0, .m1, .m2, .m3] → sylBad sl o.toNat w = false →
        Yields (i now) s n [] [acc a v] (sat v) mem)
    let z := fun conj => cmul conj (x.smp (f 22 18)) (x.smp (f 22 18 + 1)) (x.smp (f 17 13)) (x.smp (f 17 13 + 1))
    let old' := accInt (x.rd_a (a + 1))
    let dround := fun (v : Int) (k : Nat) => fitSample (decide (x.locFld 0x0D 2 2 = 1)) (roundShift (x.locFld 0x0D 1 0) v k)
    let cx := fun (m : Slot) => if m = .m0 then Slot.m1 else .m3
    let cplx := fun (i : Option (Fin 2048) → Instr) (o : BitVec 6) (fly : List Flight) (flags : Nat) => joins (i none) o ∧
      ((sl = .m0 ∨ sl = .m2) → sylBad sl o.toNat w = false →
        (EngineReady s n j [(cx sl, 0x3F, 0)] → Yields (i now) s n [] fly flags mem) ∧
        (EngineReady s n j [(sl, o, w)] → Yields (.seCx e (cx sl) 0 now) s n [] fly flags mem))
    let rd := f 25 21
    let xs := x.smp (f 20 16)
    let xt := x.smp (f 15 11)
    let bs := (x.rd_d (f 20 16)).toNat % 2 ^ 24
    let bt := (x.rd_d (f 15 11)).toNat % 2 ^ 24
    let alu := fun (i : Option (Fin 2048) → Instr) (o : BitVec 6) (land : List (Dest × Nat)) (fly : List Flight) (flags : Nat) =>
      joins (i none) o ∧ (EngineReady s n j [] → sl = .a → sylBad sl o.toNat w = false → Yields (i now) s n land fly flags mem)
    let num := fun (i : Option (Fin 2048) → Instr) (o : BitVec 6) (v : Int) (k : Nat) =>
      alu i o [(.d rd, (dround v k).1)] [] (2 * b2n (dround v k).2)
    let bits := fun (i : Option (Fin 2048) → Instr) (o : BitVec 6) (v : Nat) => alu i o [(.d rd, v)] [] 0
    let bf := fun (k : Nat) (v : Int) => ((.d (rd + k), (dround v (f 0 0)).1) : Dest × Nat)
    let ys := x.smp (f 20 16 + 1)
    let yt := x.smp (f 15 11 + 1)
    let ovf := fun (v : Int) => 2 * b2n (dround v (f 0 0)).2
    mac (.seMac2 e sl w) 0x01 (old + sum) ∧ mac (.seMsu2 e sl w) 0x02 (old - sum) ∧ mac (.seMul2 e sl w) 0x03 sum ∧
    cplx (.seCmac e sl w) 0x04 [acc a (old + (z false).1), acc (a + 1) (old' + (z false).2)]
      (sat (old + (z false).1) ||| sat (old' + (z false).2)) ∧
    cplx (.seCmacj e sl w) 0x05 [acc a (old + (z true).1), acc (a + 1) (old' + (z true).2)]
      (sat (old + (z true).1) ||| sat (old' + (z true).2)) ∧
    cplx (.seCmul e sl w) 0x06 [acc a (z false).1, acc (a + 1) (z false).2] (sat (z false).1 ||| sat (z false).2) ∧
    cplx (.seCmulr e sl w) 0x07
      [⟨1, .d (f 12 8), BitVec.ofNat 64 (dround (z false).1 23).1, none⟩, ⟨1, .d (f 12 8 + 1), BitVec.ofNat 64 (dround (z false).2 23).1, none⟩]
      (2 * b2n (dround (z false).1 23).2 ||| 2 * b2n (dround (z false).2 23).2) ∧
    joins (.seCx e sl w none) 0x3F ∧
    num (.seAdd e sl w) 0x01 (xs + xt) 0 ∧ num (.seSub e sl w) 0x02 (xs - xt) 0 ∧ num (.seNeg e sl w) 0x03 (-xs) 0 ∧
    num (.seAbs e sl w) 0x04 (xs.natAbs : Int) 0 ∧ num (.seShl e sl w) 0x08 (xs * 2 ^ f 4 0) 0 ∧
    num (.seExt e sl w) 0x10 (accInt (x.rd_a (f 20 16))) (23 + f 3 0) ∧
    bits (.seAnd e sl w) 0x05 (bs &&& bt) ∧ bits (.seOr e sl w) 0x06 (bs ||| bt) ∧ bits (.seXor e sl w) 0x07 (bs ^^^ bt) ∧
    bits (.seShr e sl w) 0x09 (encInt 24 (xs / 2 ^ f 4 0)) ∧ bits (.seMin e sl w) 0x0A (encInt 24 (min xs xt)) ∧
    bits (.seMax e sl w) 0x0B (encInt 24 (max xs xt)) ∧ bits (.seMov e sl w) 0x0C bs ∧
    bits (.seMovi e sl w) 0x0D (encInt 24 (sexNat 16 (f 20 5))) ∧
    bits (.seMovhi e sl w) 0x0E (f 12 5 * 2 ^ 16 + (x.rd_d rd).toNat % 2 ^ 16) ∧
    alu (.seAld e sl w) 0x11 [] [⟨1, .a (rd % 8), BitVec.ofNat 64 (encInt 56 (xs * 2 ^ 23)), none⟩] 0 ∧
    alu (.seAclr e sl w) 0x12 [] [⟨1, .a (rd % 8), 0, none⟩] 0 ∧
    alu (.seAbf e sl w) 0x13 [bf 0 (xs + xt), bf 1 (ys + yt), bf 2 (xs - xt), bf 3 (ys - yt)] []
      (ovf (xs + xt) ||| ovf (ys + yt) ||| (ovf (xs - xt) ||| ovf (ys - yt)))

/-- The memory slots and slot B (R167, R175, R191 to R198, R203 to R213): a load gives its words three bundles later, or waits for the
missed line; a store writes its half or its granules; pointers move; local and engine registers are read and written; a branch acts
after two delay slots, which an annulling one that is not taken discards; loops repeat; EVWAIT and EVTAKE are held until
their event, JEND until the channels are idle; an interrupt is entered and left. -/
def Obligations.SignalMemoryAndControl : Prop :=
  ∀ (e : Fin 128) (sl : Slot) (w : Syl) (j : Job) (s : State),
    let n := e.val
    let x := s.engine n
    let f := fun hi lo => sylFld w hi lo
    let mem := fun i => mgetD x.dmem i ⟨0, false⟩
    let now := some (0 : Fin 2048)
    let ready := EngineReady s n j []
    let good := fun (o : BitVec 6) => sylBad sl o.toNat w = false
    let seq := (x.pc + 1) % 2048
    let p := x.rd_p (f 20 17)
    let r := f 25 21
    let a := p.toNat % 2 ^ 18
    let near := fun (bytes : Nat) => p.msb = false ∧ p.toNat / 2 ^ 18 % 2 ^ 13 = 0 ∧ a % bytes = 0
    let half := fun (b : Nat) => getBits (mem (b / 8)).data (32 * (b / 4 % 2) + 31) (32 * (b / 4 % 2))
    let post : List (Dest × Nat) := if f 12 11 = 0 then [] else
      [((.p (f 20 17) : Dest), (nextPtr (f 12 11) p (x.rd_m (f 16 13)) (x.locRd (0x18 + f 10 9)) (x.locRd (0x1C + f 10 9))).toNat)]
    let loads := fun (i : Option (Fin 2048) → Instr) (o : BitVec 6) (k : Nat) (dest : Nat → Dest) =>
      ready → (sl = .ld0 ∨ sl = .ls1) → good o → near (4 * k) → (∀ b, b < k → (mem ((a + 4 * b) / 8)).poison = false) →
        Yields (i now) s n post ((List.range k).map (fun b => ⟨2, dest b, BitVec.ofNat 64 (half (a + 4 * b)), none⟩)) 0 mem
    let dram := dramAddr j.wins p
    let win := j.wins.getD (p.toNat / 2 ^ 29 % 4) 0
    let put := fun (v : BitVec 32) (b : Nat) => (if b = a / 8 then
      ⟨if a / 4 % 2 = 0 then setBits (mem b).data 31 0 v.toNat else setBits (mem b).data 63 32 v.toNat, false⟩ else mem b : MemW)
    let pair := fun (k : Nat) => (⟨BitVec.ofNat 64 ((x.rd_d (r + 2 * k)).toNat + (x.rd_d (r + 2 * k + 1)).toNat * 2 ^ 32), false⟩ : MemW)
    let stores := fun (i : Option (Fin 2048) → Instr) (o : BitVec 6) (bytes : Nat) (after : Nat → MemW) =>
      ready → sl = .ls1 → good o → near bytes → (bytes = 4 → (mem (a / 8)).poison = false) → Yields (i now) s n post [] 0 after
    let b := fun (i : Option (Fin 2048) → Instr) (o : BitVec 6) (pre : Prop) (land : List (Dest × Nat)) =>
      ready → sl = .b → good o → pre → Yields (i now) s n land [] 0 mem
    let src := f 20 11
    let idx := src / 16
    let reg := seReg n w
    let pv := (x.rd_p r).toNat
    let takes := fun (i : Option (Fin 2048) → Instr) (o : BitVec 6) (cond : Bool) =>
      ready → sl = .b → good o → x.slots = 0 → ∃ s', exec (i now) s = .next s' ∧
        let y := s'.engine n
        y.pc = seq ∧ y.slots = 2 ∧ y.redirect = (if cond then some (f 10 0) else none) ∧ y.annul = (!cond && decide (f 25 25 = 1)) ∧
          RegsLand x y [] 0 ∧ y.dmem = x.dmem ∧ { s' with engines := s.engines, ledger := s.ledger } = s
    let xs := x.smp (f 24 20)
    let xt := x.smp (f 19 15)
    let loops := fun (i : Option (Fin 2048) → Instr) (o : BitVec 6) (count : Nat) =>
      ready → sl = .b → good o → x.slots = 0 → x.pc + 1 ≤ f 10 0 → ∃ s', exec (i now) s = .next s' ∧
        let y := s'.engine n
        (count = 0 → y.pc = (f 10 0 + 1) % 2048 ∧ RegsLand x y [] 0) ∧
        (count ≠ 0 → y.pc = seq ∧ RegsLand x y [(.loc 0, x.pc + 1), (.loc 4, f 10 0), (.loc 8, count), (.loc 0x0C, 1)] 0) ∧
        { s' with engines := s.engines, ledger := s.ledger } = s
    let event := src / 32 % 8 + 8 * (src / 256)
    let evs := s.evPend n
    loads (.seLdw e sl w) 0x01 1 (fun b => .d (r + b)) ∧ loads (.seLdx e sl w) 0x02 2 (fun b => .d (r + b)) ∧
    loads (.seLdq e sl w) 0x03 4 (fun b => .d (r + b)) ∧ loads (.seLdp e sl w) 0x04 1 (fun _ => .p r) ∧
    loads (.seLdm e sl w) 0x05 1 (fun _ => .m r) ∧
    (∀ la l, ready → (sl = .ld0 ∨ sl = .ls1) → good 0x01 → p.msb = true → f 12 11 < 2 → dram % 4 = 0 → bitOf win 59 = true →
      p.toNat % 2 ^ 29 + 4 ≤ 2 ^ getBits win 57 52 → s.space (BitVec.ofNat 64 dram) = .mem la l → x.ecFind (dram / 128) = none →
      ∃ s', exec (.seLdw e sl w now) s = .next s' ∧ (s'.engine n).flight = [⟨2, .d r, 0, some dram⟩] ∧
        (s'.engine n).miss = [⟨dram / 128, slotIdx sl, x.pc⟩] ∧ RegsLand x (s'.engine n) post 0) ∧
    stores (.seStw e sl w) 0x09 4 (put (x.rd_d r)) ∧
    stores (.seStx e sl w) 0x0A 8 (fun b => if b = a / 8 then pair 0 else mem b) ∧
    stores (.seStq e sl w) 0x0B 16 (fun b => if b = a / 8 then pair 0 else if b = a / 8 + 1 then pair 1 else mem b) ∧
    stores (.seStp e sl w) 0x0C 4 (put (x.rd_p r)) ∧ stores (.seStm e sl w) 0x0D 4 (put (x.rd_m r)) ∧
    b (.sePsetl e sl w) 0x10 True [(.p r, pv / 2 ^ 16 * 2 ^ 16 + f 20 5)] ∧
    b (.sePseth e sl w) 0x11 True [(.p r, f 20 5 * 2 ^ 16 + pv % 2 ^ 16)] ∧
    b (.seMset e sl w) 0x12 True [(.m r, encInt 32 (sexNat 16 (f 20 5)))] ∧
    b (.sePadd e sl w) 0x13 True [(.p r, (x.rd_p (src / 64) + x.rd_m (src / 2)).toNat)] ∧
    b (.seRdc e sl w) 0x14 ((locMask idx).isSome = true) [(.p r, (x.locRd idx).toNat)] ∧
    (∀ k, b (.seWrc e sl w) 0x15 (locMask idx = some k ∧ idx ≠ 0x0E ∧ (idx = 0x0D → pv % 4 ≠ 3)) [(.loc idx, pv &&& k)]) ∧
    (∀ g h i, let v := s.rdx n g h i
      b (.seRdx e sl w) 0x16 (reg = some (g, h, i) ∧ g ≠ .SE_JOBCNT) [(.p r, getBits v 31 0), (.p (r + 1), getBits v 63 32)] ∧
      (ready → sl = .b → good 0x16 → reg = some (.SE_JOBCNT, h, i) → ∃ s', exec (.seRdx e sl w now) s = .next s' ∧
        s'.rd .SE_JOBCNT n = 0 ∧ (s'.engine n).rd_p r = (s.rd .SE_JOBCNT n).setWidth 32) ∧
      (ready → sl = .b → good 0x17 → reg = some (g, h, i) → (g = .SE_DMASRC ∨ g = .SE_DMADST ∨ g = .SE_DMASHAPE) →
        ∃ s', exec (.seWrx e sl w now) s = .next s' ∧ s'.rd g n i = BitVec.ofNat 64 (pv + (x.rd_p (r + 1)).toNat * 2 ^ 32) ∧
          RegsLand x (s'.engine n) [] 0 ∧ RegsBut s s' [g.off n i])) ∧
    takes (.seBr e sl w) 0x01 true ∧ takes (.seBeq e sl w) 0x02 (decide (xs = xt)) ∧ takes (.seBne e sl w) 0x03 (decide (xs ≠ xt)) ∧
    takes (.seBlt e sl w) 0x04 (decide (xs < xt)) ∧ takes (.seBge e sl w) 0x05 (decide (xt ≤ xs)) ∧
    takes (.sePbeq e sl w) 0x06 (decide (x.rd_p (f 24 20) = x.rd_p (f 19 15))) ∧
    takes (.sePbne e sl w) 0x07 (decide (x.rd_p (f 24 20) ≠ x.rd_p (f 19 15))) ∧
    loops (.seLoop e sl w) 0x08 ((x.rd_d (f 24 20)).toNat % 2 ^ 24) ∧ loops (.seLoopi e sl w) 0x09 (f 24 13) ∧
    (∀ k, EngineIssues s n j [] → sl = .a → good 0x0C → x.slots = 0 → x.locRd 0x0C = 1 → x.locFld 0x04 10 0 = x.pc → x.locFld 0x08 23 0 = k → 1 < k →
      ∃ s', exec (.seMov e sl w now) s = .next s' ∧ (s'.engine n).pc = x.locFld 0 10 0 ∧ (s'.engine n).locFld 0x08 23 0 = k - 1) ∧
    (s.mayIssue n = true → x.job = some j → x.bundle = [] → x.flight = [] → x.annul = true → 0 < x.slots → x.locRd 0x0C = 0 → ArraysClean s →
      (∀ i, i < 4 → (mgetD (if s.fld F.SE_STAT_ACTIVE n = 0 then x.progA else x.progB) (4 * x.pc + i) ⟨0, false⟩) = ⟨0, false⟩) →
      sl = .a → good 0x0C → ∃ s', exec (.seMov e sl w now) s = .next s' ∧ RegsLand x (s'.engine n) [] 0 ∧ (s'.engine n).flight = [] ∧
        (s'.engine n).pc = (if x.slots = 1 then x.redirect.getD seq else seq) ∧ (s'.engine n).annul = decide (x.slots ≠ 1) ∧
        { s' with engines := s.engines, ledger := s.ledger } = s) ∧
    (sl = .b →
      b (.seEvwait e sl w) 0x18 (evs &&& f 19 0 ≠ 0) [] ∧
      (ready → good 0x18 → evs &&& f 19 0 = 0 → HoldsBundle (.seEvwait e sl w now) s n [(sl, 0x18, w)]) ∧
      (ready → good 0x19 → evs.testBit event = false → HoldsBundle (.seEvtake e sl w now) s n [(sl, 0x19, w)]) ∧
      (ready → good 0x19 → evs.testBit event = true → src / 256 ≠ 1 → ∃ s', exec (.seEvtake e sl w now) s = .next s' ∧
        (s'.evPend n).testBit event = false ∧ RegsLand x (s'.engine n) [] 0 ∧ (s'.engine n).held = false ∧
        RegsBut s s' [Reg.off .SE_EVPEND n 0]) ∧
      (∀ c cs, ready → good 0x19 → evs.testBit event = true → src / 256 = 1 → mgetD (s.group (n / 8)).fifo (src / 32 % 8) [] = c :: cs →
        ∃ s', exec (.seEvtake e sl w now) s = .next s' ∧ mgetD (s'.group (n / 8)).fifo (src / 32 % 8) [] = cs ∧
          RegsLand x (s'.engine n) [(.p r, c.frame.toNat), (.p (r + 1), c.cycle.toNat + b2n c.rise * 2 ^ 16)] 0) ∧
      (ready → good 0x1A → x.slots = 0 → s.dmaIdle n = false → HoldsBundle (.seJend e sl w now) s n [(sl, 0x1A, w)]) ∧
      (ready → good 0x1A → x.slots = 0 → s.dmaIdle n = true → j.slot < 4 → ∃ s', exec (.seJend e sl w now) s = .next s' ∧
        (s'.engine n).job = none ∧ s'.fld F.SE_STAT_STATE n = (if x.haltReq then 3 else 0) ∧ s'.fld F.SE_LASTJOB_RESULT n = 1 ∧
        s'.fld F.SE_LASTJOB_SLOT n = j.slot ∧ s'.rd .SE_JOBCNT n = s.rd .SE_JOBCNT n + 1 ∧
        (∀ k, k < 8 → j.outmask.getLsbD k = true → s'.flag F.SE_OBUFST_STALE n k = false ∧
          s'.fld F.SE_OBUFST_FRAME n k = s.frame.toNat % 2 ^ 48) ∧
        (∀ k, k < 8 → j.outmask.getLsbD k = false → s'.rd .SE_OBUFST n k = s.rd .SE_OBUFST n k)) ∧
      (EngineIssues s n j [] → good 0x1B → x.slots = 0 → (x.locRd 0x0C).toNat / 4 % 2 = 1 → ∃ s', exec (.seIret e sl w now) s = .next s' ∧
        (s'.engine n).pc = x.locFld 0x11 10 0 ∧ (s'.engine n).locRd 0x0D = x.locRd 0x0D ||| 8 ∧
        (s'.engine n).locRd 0x0C = x.locRd 0x0C &&& 3 ∧ { s' with engines := s.engines, ledger := s.ledger } = s)) ∧
    (EngineIssues s n j [] → x.locFld 0x0D 3 3 = 1 → evs &&& x.locFld 0x0F 19 0 ≠ 0 → x.slots = 0 →
      ∃ s', exec (.seInterruptEntry e) s = .next s' ∧ (s'.engine n).pc = x.locFld 0x10 10 0 ∧
        (s'.engine n).locRd 0x11 = BitVec.ofNat 32 x.pc ∧ (s'.engine n).locRd 0x0D = x.locRd 0x0D &&& 7 ∧
        (s'.engine n).locRd 0x0C = x.locRd 0x0C ||| 4 ∧ { s' with engines := s.engines } = s)

/-! ### Keep, scrubbing, failures and restarts -/

/-- Keep words, scrubbing, injection, failures and restarts (R241, R402 to R404, R414, R420, R421, R432 to R437): Keeper writes a Keep word
that is not Thistle's, not worn, and neither reserved nor forbidden, and waits while 16 writes are queued; a scrub reads a unit of its assignment once and corrects a
single bit; a failed slice's logical slices move and its dirty TIDs are reported; a failed cluster, core or quadrant leaves service;
a stopped thread and a verified, halted link engine start again; a request lost a second time completes as poisoned. That a
requester is named by its thread, or by 0x8000 and its engine, is the model's choice (entry 163). -/
def Obligations.RasKeepsRepairsAndRetires : Prop :=
  ∀ (m : Master) (w : Fin 4096) (u : BitVec 32) (v : Word) (l sl : Fin 256) (c : Fin 256) (cl : Fin 32) (q : Fin 4) (tgt : Fin 155)
    (scr : Fin 256) (id : BitVec 16) (tid : Fin 1024) (lost : Bool) (s : State),
    let k := w.val
    let n := scr.val
    let off := keepOff k
    let write := Instr.keepWordWrite m w u
    let x := u &&& (keepMask k).getD 0
    let room := s.keepQ.length < 16
    let flip := Reg.off .ERR_FLIPMASK 0 tgt.val
    let devBad := fun (d : Nat) => 10 ≤ d ∧ d ≤ 14
    let resvd := devBad (F.ERR_FLIPMASK_DEV0.of v) ∨ devBad (F.ERR_FLIPMASK_DEV1.of v)
    let t := F.ERR_THRCTL_THREAD.of v
    let g := F.ERR_LERESTART_ENGINE.of v
    let cut := s.setBoard { s.board with sliceBad := s.board.sliceBad ++ [sl.val] }
    let ths := [thOf c.val 0, thOf c.val 1]
    let quad := s.board.meshOut &&& ~~~(1#4 <<< q.val)
    (MayWrite s m →
      (keepMask k = none → WriteRefused write s m 1 off) ∧
      (keepMask k ≠ none → 16 ≤ s.keepQ.length → exec write s =
        .next (s.setBoard { s.board with keepWait := s.board.keepWait ++ [(m, k, x)] })) ∧
      (keepMask k ≠ none → room → (m ≠ .keeper ∨ keepThistle k = true) → WriteRefused write s m 4 off) ∧
      (keepMask k ≠ none → room → m = .keeper → keepThistle k = false →
        (s.keepWorn k = true → WriteRefused write s m 7 off) ∧
        (s.keepWorn k = false → keepReserved k x = true → WriteRefused write s m 2 off) ∧
        (s.keepWorn k = false → keepReserved k x = false → keepForbidden k (s.keepRd k) x = true → WriteRefused write s m 5 off) ∧
        (s.keepWorn k = false → keepReserved k x = false → keepForbidden k (s.keepRd k) x = false → ∃ s', exec write s = .next s' ∧
          s'.keepRd k = x ∧ s'.keepCount k = s.keepCount k + 1 ∧ s'.keepQ = s.keepQ ++ [(k, s.keepRd k)] ∧
          (∀ j, j ≠ k → s'.keepRd j = s.keepRd j ∧ s'.keepCount j = s.keepCount j) ∧
          (k ≠ 1 → s.keepCount k + 1 ≠ 1000000 → RegsBut s s' [Reg.off .ERR_FLIPMASK 0 151] ∧
            { s' with keep := s.keep, kwcnt := s.kwcnt, keepQ := s.keepQ, errs := s.errs, regs := s.regs } = s) ∧
          (k ≠ 1 → s.keepCount k + 1 = 1000000 → Records s s' 0x12 151))) ∧
      (mayInject m = false → WriteRefused (.armErrorInjection m tgt v) s m 4 flip) ∧
      (mayInject m = true → resvd → WriteRefused (.armErrorInjection m tgt v) s m 2 flip) ∧
      (mayInject m = true → ¬resvd → ∃ s', exec (.armErrorInjection m tgt v) s = .next s' ∧
        s'.rd .ERR_FLIPMASK 0 tgt.val = v &&& Reg.ERR_FLIPMASK.row.rw ∧ OnlyRegs s s' [flip]) ∧
      (bitOf v 9 = false → exec (.restartThread m v) s = .next s) ∧
      (bitOf v 9 = true → (s.thread t).run ≠ .stopped → WriteRefused (.restartThread m v) s m 5 (Reg.off .ERR_THRCTL 0 0)) ∧
      (bitOf v 9 = true → (s.thread t).run = .stopped → ∃ s', exec (.restartThread m v) s = .next s' ∧
        s'.thread t = { Thread.initial t with pc := s.startPc t, run := .running } ∧ (∀ j, j ≠ t → s'.thread j = s.thread j) ∧
        (∀ j, mget s'.entering j = if j = t then none else mget s.entering j) ∧
        { s' with threads := s.threads, entering := s.entering } = s) ∧
      (36 ≤ g → WriteRefused (.restartLinkEngine m v) s m 2 (Reg.off .ERR_LERESTART 0 0)) ∧
      (g < 36 → bitOf v 6 = true → (s.flag F.LE_STAT_HALTED g = false ∨ (s.le g).verified = false) →
        WriteRefused (.restartLinkEngine m v) s m 5 (Reg.off .ERR_LERESTART 0 0)) ∧
      (g < 36 → bitOf v 6 = true → s.flag F.LE_STAT_HALTED g = true → (s.le g).verified = true →
        ∃ s', exec (.restartLinkEngine m v) s = .next s' ∧ s'.flag F.LE_STAT_HALTED g = false ∧ s'.flag F.LE_STAT_MIRRORED g = false ∧
          s'.leBank g = 1 - s.leBank g ∧ (∀ b j, (s'.le g).word b j = (s.le g).word b j) ∧
          ∀ j, j < 4 → s.ucParked g j = false → mget (s'.le g).thr j = some ⟨0, [], false, false, false, 0⟩)) ∧
    (∀ a rest, s.keepQ = a :: rest →
      (s.board.keepWait = [] → exec .keepWritePersisted s = .next { s with keepQ := rest }) ∧
      (s.board.keepWait = [(m, k, u)] → exec .keepWritePersisted s =
        .next ({ s with keepQ := rest, board := { s.board with keepWait := [] } }.actKeep m k u))) ∧
    (s.flag F.MAP_SLICE_BUSY 0 l.val = true → ∃ s', exec (.sliceRetargetDone l) s = .next s' ∧
      s'.fld F.MAP_SLICE_CUR 0 l.val = s.fld F.MAP_SLICE_TARGET 0 l.val ∧ s'.flag F.MAP_SLICE_BUSY 0 l.val = false) ∧
    (s.flag F.MAP_SLICE_BUSY 0 l.val = false → exec (.sliceRetargetDone l) s = .next s) ∧
    (s.scrubOf n = none → exec (.scrubRead scr u) s = .next s) ∧
    (∀ first count, s.live = true → s.scrubOf n = some (first, count) → 32 ≤ n → n < 112 →
      let done := mgetD s.scrubbed n []
      ((s.tick.sealClosed = true ∨ u.toNat < first ∨ first + count ≤ u.toNat ∨ done.contains u.toNat = true) →
        exec (.scrubRead scr u) s = .next s) ∧
      (s.tick.sealClosed = false → first ≤ u.toNat → u.toNat < first + count → done.contains u.toNat = false →
        (s.errs = [] → exec (.scrubRead scr u) s = .next { s with scrubbed := mput s.scrubbed n (u.toNat :: done) }) ∧
        (∀ sub i e, s.errs = [(errKey n sub i, e)] → e.bits = 1 → sub < 2 ^ 8 → i < 2 ^ 32 → unitPlace n 64 0 u.toNat = some (sub, i / 8) →
          (∀ j, j < 155 → s.flag F.ERR_FLIPMASK_ARM 0 j = false) → ∃ s', exec (.scrubRead scr u) s = .next s' ∧ s'.errs = [] ∧
            Records s s' 0x01 n ∧ RegsBut s s' logRegs))) ∧
    (s.live = true → s.board.meshOut.getLsbD q.val = false → ∃ s', exec (.meshQuadrantFailure q) s = .next s' ∧
      s'.board.meshOut.getLsbD q.val = true ∧ s'.flag F.ERR_STAT_MESHDEG = true ∧
      (∀ j, j < 32 → quadOf (coreStop (16 * j)) = q.val → s.domOn (clDom j) = true → bitOf (s'.rd .MAP_INSVCA) j = false) ∧
      (∀ j, j < 16 → quadOf (mcStop j) = q.val → s.flag F.MC_STAT_INSVC j = true → s'.flag F.MC_STAT_RETIRED j = true)) ∧
    (s.board.meshOut.getLsbD q.val = true → exec (.meshQuadrantFailure q) s = .next s) ∧
    (s.live = true → s.board.meshOut.getLsbD q.val = true → ∃ s', exec (.meshQuadrantRejoin q) s = .next s' ∧
      s'.board = { s.board with meshOut := quad } ∧ s'.flag F.ERR_STAT_MESHDEG = (quad != 0) ∧
      OnlyRegs { s with board := s'.board } s' [Reg.off .ERR_STAT 0 0]) ∧
    (s.live = true →
      ((lost = false ∨ (514 ≤ id.toNat ∧ id.toNat < 0x8000) ∨ (id.toNat < 514 ∧ (s.thread id.toNat).await = none)) →
        ∃ s', exec (.meshRequestReissue id tid lost) s = .next s' ∧ Records s s' 0x17 153 ∧ OnlyLogAnd s s' []) ∧
      (∀ a, lost = true → id.toNat < 514 → (s.thread id.toNat).await = some a → (a.atCommit = true ∨ s.nextVec id.toNat false = none) →
        ∃ s', exec (.meshRequestReissue id tid lost) s = .next s' ∧ (s'.thread id.toNat).await = none ∧
          ∃ r ∈ s'.ring, r.2.kind = 0x04) ∧
      (∀ e, e < 128 → lost = true → id.toNat = 0x8000 + e → (s.engine e).miss ≠ [] → (s.engine e).job.isSome = true →
        ∃ s', exec (.meshRequestReissue id tid lost) s = .next s' ∧ (s'.engine e).job = none)) ∧
    (s.live = true → s.board.sliceBad.contains sl.val = false → ∃ s', exec (.sliceFailure sl) s = .next s' ∧
      s'.board.sliceBad = s.board.sliceBad ++ [sl.val] ∧ s'.flag F.ERR_STAT_LOSTDATA = true ∧
      (∀ j, j < 16 → s'.rd .ERR_LOSTTID 0 j = s.rd .ERR_LOSTTID 0 j ||| ((mgetD s.dirty sl.val 0) >>> (64 * j)).setWidth 64) ∧
      (∀ p, cut.sliceSpare sl.val = some p → ∀ j, j < 256 → s.fld F.MAP_SLICE_CUR 0 j = sl.val →
        s'.fld F.MAP_SLICE_CUR 0 j = p ∧ s'.flag F.MAP_SLICE_BUSY 0 j = false ∧ j ∈ s'.board.dirScan)) ∧
    (s.board.sliceBad.contains sl.val = true → exec (.sliceFailure sl) s = .next s) ∧
    (s.live = true → s.domOn (clDom cl.val) = true → ∃ s', exec (.clusterFailure cl) s = .next s' ∧
      bitOf (s'.rd .MAP_INSVCA) cl.val = false ∧ s'.fld F.ERR_CORESTAT_INSVC 0 cl.val = 0 ∧
      (∀ j, j < 8 → s'.core (8 * cl.val + j) = { Core.initial with failed := true }) ∧
      ∃ r ∈ s'.ring, r.2.kind = 0x0B ∧ r.2.target = BitVec.ofNat 8 (32 + cl.val)) ∧
    (s.live = true → s.domOn (clDom (c.val / 8)) = true → ∃ s', exec (.coreFailure c) s = .next s' ∧
      s'.core c.val = { s.core c.val with failed := true } ∧ (∀ t ∈ ths, s'.thread t = { s.thread t with run := .off, resv := none, hold := false }) ∧
      bitOf (s'.rd .ERR_CORESTAT 0 (c.val / 8)) (F.ERR_CORESTAT_INSVC.lo + c.val % 8) = false ∧
      OnlyRegs { s with threads := s'.threads, cores := s'.cores } s' [Reg.off .ERR_CORESTAT 0 (c.val / 8)]) ∧
    (s.board.dirScan.contains l.val = true → ∃ s', exec (.directoryReportsComplete l) s = .next s' ∧
      ∀ j, j ∈ s'.board.dirScan ↔ j ∈ s.board.dirScan ∧ j ≠ l.val) ∧
    (s.board.dirScan.contains l.val = false → exec (.directoryReportsComplete l) s = .next s)

/-! ### Thistle -/

/-- Keys, images, alarms, holds, the zeroize wires and the TRNG (R386, R389 to R391, R395, R397 to R401, R405, R410): Keeper alone gives a
key or image command, one at a time, and its end tells the RESULT; an alarm is logged, or counted within 1 ms; Level 2 holds TIDs
and ends debug; Level 3 erases the keys and advances the epoch, and the device starts again; the wires count; a TRNG read gets
fresh bits, waits, or gets zero after a failure. -/
def Obligations.ThistleKeepsSecretsAndAlarms : Prop :=
  ∀ (m : Master) (tid : Fin 1024) (port detail : Byte) (an : Fin 4) (img : Image) (v : Word) (wire : TickInput) (s : State),
    let x := s.sec
    let cmd := Reg.off .THS_KEYCMD 0 0
    let stat := Reg.off .THS_KEYSTAT 0 0
    let gives := fun (c : Instr) (r : KeyRun) =>
      (m ≠ .keeper → WriteRefused c s m 4 cmd) ∧
      (m = .keeper → s.flag F.THS_KEYSTAT_BUSY = true → WriteRefused c s m 5 cmd) ∧
      (m = .keeper → s.flag F.THS_KEYSTAT_BUSY = false → ∃ s', exec c s = .next s' ∧ s'.flag F.THS_KEYSTAT_BUSY = true ∧
        s'.fld F.THS_KEYSTAT_RESULT = 0 ∧ s'.sec = { x with running := some r } ∧ OnlyRegs { s with sec := s'.sec } s' [stat])
    let ends := fun (res : Nat) (more : State → Prop) => ∃ s', exec .keyCommandDone s = .next s' ∧
      s'.flag F.THS_KEYSTAT_BUSY = false ∧ s'.fld F.THS_KEYSTAT_RESULT = res ∧ s'.sec.running = none ∧
      bitOf (s'.rd .KPR_IPEND) 5 = true ∧ more s'
    let wiped := fun (s' : State) => ∀ i, i < 13 → s'.rd .THS_KEYBUF 0 i = 0
    let dest := s.imgDest (s.rd .THS_IMGDST)
    let res := s.imgResult img (dest.map (fun d => d.2))
    let recent := fun (src : Nat) => match mget x.lastLog src with | some t => decide (s.aoTime < t + 100000) | none => false
    let logs := fun (s' : State) (src level detail : Nat) =>
      s'.flag F.THS_STAT_ALARM = true ∧ bitOf (s'.rd .KPR_IPEND) 1 = true ∧
      (∀ e q, s.alogPlace = some (e, q) → recent src = false →
        s'.keepRd (alogWord e) = BitVec.ofNat 32 (src + level * 16 + detail * 256 + q * 65536)) ∧
      (recent src = true → s'.rd .THS_SRCCNT 0 src = s.rd .THS_SRCCNT 0 src + 1)
    let held := fun (s' : State) => s'.flag F.THS_STAT_HOLD = true ∧ s'.flag F.THS_STAT_DBGLOCK = true ∧ s'.board.session = none
    let erased := fun (s' : State) => s'.sec.kwk = none ∧ s'.sec.slots = [] ∧ s'.sec.rack = none ∧ s'.sec.erasing = true ∧
      (s.keepWorn 6 = false → s'.keepRd 6 = s.keepRd 6 + 1)
    let alarms := fun (c : Instr) (src level detail : Nat) (who : Option Nat) =>
      (level = 1 → ∃ s', exec c s = .next s' ∧ logs s' src 1 detail ∧ s'.threads = s.threads ∧ s'.sec.slots = x.slots) ∧
      (level = 2 → ∃ s', exec c s = .next s' ∧ logs s' src 2 detail ∧ held s' ∧
        ∀ t, 1 ≤ t → t < 1024 → (who = none ∨ who = some t) → s'.held t = true) ∧
      (level = 3 → ∃ s', exec c s = .next s' ∧ logs s' src 3 detail ∧ erased s')
    let source := fun (c : Instr) (src : Nat) => s.thistle = true → alarms c src (s.alarmLevel src) detail.toNat none
    let level := F.THS_RAISE_LEVEL.of v
    let all := bitOf v 2
    let who := F.THS_RAISE_TID.of v
    let clr := F.THS_HOLDCLR_TID.of v
    let trng := Reg.off .THS_TRNG 0 0
    let idle := ∀ t, Master.th m = some t → (s.thread t).await = none
    (MayWrite s m →
      gives (.generateTenant m tid) ⟨1, tid.val, 0, 0⟩ ∧ gives (.importTenant m tid) ⟨2, tid.val, 0, 0⟩ ∧
      gives (.eraseTenant m tid) ⟨3, tid.val, 0, 0⟩ ∧ gives (.loadRack m) ⟨4, 0, 0, 0⟩ ∧
      gives (.loadSak m port an) ⟨5, 0, port.toNat, an.val⟩ ∧ gives (.eraseSak m port an) ⟨6, 0, port.toNat, an.val⟩ ∧
      (m ≠ .keeper → WriteRefused (.verifyImage m) s m 4 (Reg.off .THS_IMGCMD 0 0)) ∧
      (m = .keeper → s.flag F.THS_IMGSTAT_BUSY = true → WriteRefused (.verifyImage m) s m 5 (Reg.off .THS_IMGCMD 0 0)) ∧
      (m = .keeper → s.flag F.THS_IMGSTAT_BUSY = false → ∃ s', exec (.verifyImage m) s = .next s' ∧
        s'.flag F.THS_IMGSTAT_BUSY = true ∧ s'.fld F.THS_IMGSTAT_RESULT = 0 ∧ s'.sec = { x with verifying := true } ∧
        OnlyRegs { s with sec := s'.sec } s' [Reg.off .THS_IMGSTAT 0 0]) ∧
      (m ≠ .keeper → m ≠ .cadence → WriteRefused (.firmwareAlarm m v) s m 4 (Reg.off .THS_RAISE 0 0)) ∧
      ((m = .keeper ∨ m = .cadence) → (level = 0 ∨ (level = 2 ∧ all = false ∧ who = 0)) →
        WriteRefused (.firmwareAlarm m v) s m 2 (Reg.off .THS_RAISE 0 0)) ∧
      ((m = .keeper ∨ m = .cadence) → ¬(level = 2 ∧ all = false ∧ who = 0) →
        alarms (.firmwareAlarm m v) 8 level (F.THS_RAISE_DETAIL.of v) (if all then none else some who)) ∧
      (m ≠ .keeper → WriteRefused (.holdRelease m v) s m 4 (Reg.off .THS_HOLDCLR 0 0)) ∧
      (m = .keeper → ∃ s', exec (.holdRelease m v) s = .next s' ∧ (bitOf v 0 = true → s'.flag F.THS_STAT_DBGLOCK = false) ∧
        (∀ t, t < 1024 → s'.held t = (!bitOf v 0 && decide (t ≠ clr) && s.held t)) ∧
        (s'.flag F.THS_STAT_HOLD = true ↔ ∃ t, t < 1024 ∧ s'.held t = true) ∧
        OnlyRegs s s' (Reg.off .THS_STAT 0 0 :: (List.range 16).map (fun k => Reg.off .THS_HOLDMAP 0 k)))) ∧
    (x.running = none → exec .keyCommandDone s = .next s) ∧
    (∀ r, x.running = some r → r.tid < 1024 →
      (r.op = 1 → r.tid ≠ 0 → s.anyLoaded r.tid = false → s.flag F.THS_STAT_TRNGFAIL = false →
        ends 1 (fun s' => ∀ k, k < 20 → s.slotOn k = true → s'.keyLoaded k r.tid = true)) ∧
      (r.op = 1 → r.tid ≠ 0 → s.anyLoaded r.tid = true → ends 2 (fun s' => s'.sec.slots = x.slots)) ∧
      (r.op = 3 → r.tid ≠ 0 → s.anyLoaded r.tid = true → ends 1 (fun s' => (∀ k, k < 20 → s'.keyLoaded k r.tid = false) ∧ wiped s')) ∧
      (r.op = 3 → r.tid ≠ 0 → s.anyLoaded r.tid = false → ends 3 wiped) ∧
      ((r.op = 1 ∨ r.op = 3) → r.tid = 0 → ends 7 (fun s' => s'.sec.slots = x.slots)) ∧
      (∀ k, r.op = 2 → r.tid ≠ 0 → unwrapBlob (x.kwk.getD 0) s.keyBuf = some k → s.keyBuf / 2 ^ 16 % 1024 = r.tid →
        s.keyBuf / 2 ^ 32 % 2 ^ 32 = (s.keepRd 6).toNat → s.anyLoaded r.tid = false →
        ends 1 (fun s' => wiped s' ∧ ∀ j, j < 20 → s.slotOn j = true → mget s'.sec.slots (j * 1024 + r.tid) = some k)) ∧
      (r.op = 2 → r.tid ≠ 0 → s.keyBuf / 2 ^ 16 % 1024 ≠ 0 → unwrapBlob (x.kwk.getD 0) s.keyBuf = none →
        ends 4 (fun s' => wiped s' ∧ s'.sec.slots = x.slots)) ∧
      (r.op = 4 → ends 1 (fun s' => wiped s' ∧ s'.sec.rack = some s.bufKey)) ∧
      (r.op = 5 → s.sakPort r.port = true → ends 1 (fun s' => wiped s' ∧ mget (s'.port r.port).sak r.an = some s.bufKey)) ∧
      (r.op = 6 → s.sakPort r.port = true → ends 1 (fun s' => wiped s' ∧ mget (s'.port r.port).sak r.an = none)) ∧
      ((r.op = 5 ∨ r.op = 6) → s.sakPort r.port = false → ends 8 (fun s' => wiped s' ∧ s'.ports = s.ports))) ∧
    (x.verifying = true → ∃ s', exec (.imageVerifyDone img) s = .next s' ∧ s'.flag F.THS_IMGSTAT_BUSY = false ∧
      s'.fld F.THS_IMGSTAT_RESULT = res ∧ s'.fld F.THS_IMGSTAT_SVN = img.svn.toNat ∧ s'.sec.verifying = false ∧
      bitOf (s'.rd .KPR_IPEND) 5 = true ∧ (res ≠ 1 → res ≠ 8 → s'.kram = s.kram ∧ ∀ n b j, (s'.le n).word b j = (s.le n).word b j) ∧
      (∀ o cap, res = 1 → dest = some (.ram o, cap) → ∀ i, i < (imgWords img).length →
        mgetD s'.kram (o / 4 + 2 * i) 0 = (((imgWords img)[i]?).getD 0).setWidth 32)) ∧
    (x.verifying = false → exec (.imageVerifyDone img) s = .next s) ∧
    source (.lidMeshAlarm detail) 1 ∧ source (.railGlitch detail) 2 ∧ source (.clockGlitch detail) 3 ∧
    source (.temperatureAlarm detail) 4 ∧ source (.lightSensorAlarm detail) 5 ∧
    (x.erasing = true → ∃ s', exec .level3EraseDone s = .next s' ∧ s'.sec.erasing = false ∧ s'.flag F.THS_STAT_ERASED = true ∧
      s'.board.kind = 2 ∧ s'.board.cache = false ∧ s'.keep = s.keep ∧
      (s.keepFld 4 20 20 = 1 → s'.sec.haltedOff = true ∧ ∀ d, 1 ≤ d → d < 83 → s'.domOn d = false) ∧
      (s.keepFld 4 20 20 ≠ 1 → s.keepWorn 6 = false → s'.sec.kwk = some (Config.kdfKwk (s.keepRd 6))) ∧
      (s.keepFld 4 20 20 ≠ 1 → s.board.pwrgood = true → s.board.resetN = true → x.haltedOff = false → s.board.railDown = false →
        (s.flag F.KPR_SUPSTAT_REFA_OK = true ∨ s.flag F.KPR_SUPSTAT_REFB_OK = true) → s'.board.romReady = true ∧ s'.board.inReset = false)) ∧
    (x.erasing = false → exec .level3EraseDone s = .next s) ∧
    (s.thistle = true → s.wire wire = false →
      (s.wire (otherWire wire) = false → ∃ s', exec (.zeroizeWireAssert wire) s = .next s' ∧ s'.wire wire = true ∧
        s'.sec.zrun = some (0, s.keepFld 4 13 0 * 10) ∧ OnlyRegs { s with sec := s'.sec } s' [Reg.off .THS_ZSTAT 0 0]) ∧
      (s.wire (otherWire wire) = true → (∀ n lim, x.zrun = some (n, lim) → n < lim) →
        ∃ s', exec (.zeroizeWireAssert wire) s = .next s' ∧ s'.wire wire = true ∧ s'.sec.zrun = none ∧ erased s')) ∧
    (s.thistle = true → s.wire wire = true → ∀ n lim, x.zrun = some (n, lim) → n < lim →
      ∃ s', exec (.zeroizeWireRelease wire) s = .next s' ∧ s'.wire wire = false ∧ s'.sec.zrun = none ∧ logs s' 7 1 1) ∧
    (s.thistle = true → ∀ n lim, x.zrun = some (n, lim) → lim ≤ n → x.zraised = false →
      ∃ s', exec .zeroizeDiscrepancy s = .next s' ∧
      s'.flag F.THS_ZSTAT_DFAULT = true ∧ s'.sec.zrun = some (n, lim) ∧ s'.sec.zraised = true ∧ held s' ∧ ∀ t, 1 ≤ t → t < 1024 → s'.held t = true) ∧
    ((x.zrun = none ∨ x.zraised = true) → exec .zeroizeDiscrepancy s = .next s) ∧
    (MayRead s m → idle →
      (s.flag F.THS_STAT_TRNGFAIL = false → x.trngFull = true → exec (.trngRead m) s = .next
        { s with sec := { x with trngCnt := x.trngCnt + 1, trngFull := false }, out := s.out ++ [.read m trng (Config.trng x.trngCnt)] }) ∧
      (s.flag F.THS_STAT_TRNGFAIL = false → x.trngFull = false → exec (.trngRead m) s = .next
        { s with sec := { x with trngWait := x.trngWait ++ [(m, false)] } }) ∧
      (s.flag F.THS_STAT_TRNGFAIL = true → ∃ s' s1, exec (.trngRead m) s = .next s' ∧ s' = s1.emit (.read m trng 0) ∧
        CtlErrorLogged s s1 (stopOf m) false 5 trng)) ∧
    (s.flag F.THS_STAT_TRNGFAIL = false → x.erasing = false → x.trngFull = false →
      (x.trngWait = [] → exec .trngRefill s = .next { s with sec := { x with trngFull := true } }) ∧
      (∀ rest, x.trngWait = (m, false) :: rest → idle → exec .trngRefill s = .next
        { s with sec := { x with trngCnt := x.trngCnt + 1, trngFull := false, trngWait := rest },
                 out := s.out ++ [.read m trng (Config.trng x.trngCnt)] })) ∧
    (s.thistle = true → s.flag F.THS_STAT_TRNGFAIL = false → x.trngWait = [] → ∃ s', exec .trngHealthFailure s = .next s' ∧
      s'.flag F.THS_STAT_TRNGFAIL = true ∧ s'.sec.trngFull = false ∧
      (∀ e q, s.alogPlace = some (e, q) → recent 9 = false → s'.flag F.THS_STAT_ALARM = true))

/-! ### Resets, boot, management and debug -/

/-- Resets, starts, messages and debug (R407, R441 to R460, R462, R463, R466 to R472, R481): a loss of power or of a reference resets the
device, which starts again in Keeper ROM when power, RESET_N and a reference clock are there; after a cold start no clock is known
to run until one returns (entry 83); ROM verifies the firmware and enters it, or stops with its cause; threads and
Cadence start and stop; firmware, or ROM that has stopped, answers messages; JTAG, authentication and halts follow the
session and its scope. -/
def Obligations.BootStartsAnswersAndDebugs : Prop :=
  ∀ (m : Master) (t : Th) (th : Fin 512) (v : Word) (b : BootInput) (inp : RefIn) (d : Fin 83) (i3c hashOk sigOk : Bool)
    (msg : MgmtMsg) (status : Byte) (first : Fin 4096) (count : Fin 8) (scope : BitVec 5) (key : Fin 4) (s : State),
    let x := s.board
    let sup := Reg.off .KPR_SUPSTAT 0 0
    let boot := Reg.off .KPR_BOOTSTAT 0 0
    let up := s.firmwareUp
    let refs := s.flag F.KPR_SUPSTAT_REFA_OK || s.flag F.KPR_SUPSTAT_REFB_OK
    let may := x.inReset && !s.sec.erasing && !s.sec.haltedOff && refs
    let threads := fun (s' : State) => ∀ u, u < 514 → s'.thread u = Thread.initial u
    let resets := fun (c : Instr) (kind : Nat) => ∃ s', exec c s = .next s' ∧ s'.board.inReset = true ∧ s'.keep = s.keep ∧
      (x.inReset = false → s'.board.kind = kind ∧ s'.board.session = none ∧ s'.board.locked = false ∧ threads s')
    let starts := fun (s' : State) => s'.board.romReady = true ∧ s'.board.inReset = false
    let faults := fun (rail : Rail) (code : Nat) => resets (.supplyFault rail) 1 ∧
      ∀ s', exec (.supplyFault rail) s = .next s' → s'.fld F.KPR_SUPSTAT_LASTFAULT = code
    let rom := { s with board := { x with romReady := false } }
    let img := if x.slot then b.slotB else b.slotA
    let res := s.imgResult img (some 0x10_0000)
    let cached := x.kind = 3 ∨ x.kind = 5
    let stops := fun (cause result : Nat) => ∃ s', exec (.keeperRomBoot b) s = .next s' ∧ s'.fld F.KPR_BOOTSTAT_STAGE = 3 ∧
      s'.fld F.KPR_BOOTSTAT_CAUSE = cause ∧ s'.fld F.KPR_BOOTSTAT_RESULT = result ∧ s'.fld F.KPR_BOOTSTAT_KIND = x.kind ∧
      s'.board.romReady = false ∧ s'.board.entry = x.entry ∧ ∀ i, i < 12 → s'.domOn (71 + i) = false
    let restarts := fun (s' : State) (kind : Nat) => s'.board.romReady = true ∧ s'.board.entry = false ∧ s'.board.kind = kind ∧
      s'.thread 512 = Thread.initial 512 ∧ (∀ u, u ≠ 512 → s'.thread u = s.thread u) ∧ s'.cores = s.cores
    let pc := Reg.off .CL_STARTPC (th.val / 16) (th.val % 16)
    let answers := fun (c : Instr) (payload : List Byte) =>
      let sends := fun (st : Byte) (p : List Byte) =>
        exec c s = .next (s.emit (.mgmt st { msg with len := BitVec.ofNat 16 p.length, payload := p }))
      (s.live = true → s.fld F.KPR_BOOTSTAT_STAGE = 3 → (msg.apiver = 1 → sends 0 payload) ∧ (msg.apiver ≠ 1 → sends 3 [])) ∧
      (s.fld F.KPR_BOOTSTAT_STAGE ≠ 3 → (up = true → sends 0 payload) ∧ (up = false → sends 1 []))
    let jtag := fun (c : Instr) (ir : JtagIr) (out : List Out) => exec c s = .next { s with board := { x with jtag := ir }, out := s.out ++ out }
    let bypassed := [Out.jtag 1 0]
    let tries := s.keepFld 5 3 0 + 1
    let fails := fun (c : Instr) => s.sec.challenge.isSome = true → s.authRefused = false → s.keepWorn 5 = false → tries < s.keepFld 4 19 16 →
      ∃ s', exec c s = .next s' ∧ s'.keepRd 5 = BitVec.ofNat 32 tries ∧ s'.sec.challenge = none ∧ s'.board.session = x.session
    let good := hashOk && sigOk && !(s.keepRd 7).toNat.testBit key.val
    let debugs := fun (c : Instr) (P : Prop) => s.live = true →
      ((akz32 t.val = true ∨ s.scope 2 = false) → WriteRefused c s .debug 4 (Reg.off .CL_STARTPC (t.val / 16) (t.val % 16))) ∧
      (akz32 t.val = false → s.scope 2 = true → P)
    (∃ s', exec (.pwrgoodChange true) s = .next s' ∧ s'.board.pwrgood = true ∧ (may = true → x.resetN = true → starts s') ∧
      ((may && x.resetN) = false → s' = { s with board := { x with pwrgood := true, railDown := false } })) ∧
    (∃ s', exec (.resetNChange true) s = .next s' ∧ s'.board.resetN = true ∧ ((may && x.pwrgood && !x.railDown) = true → starts s') ∧
      ((may && x.pwrgood && !x.railDown) = false → s' = { s with board := { x with resetN := true } })) ∧
    resets (.pwrgoodChange false) 1 ∧ resets (.resetNChange false) 1 ∧
    (∃ s', exec .coldStart s = .next s' ∧ s'.board.kind = 0 ∧ s'.aoTime = 0 ∧ s'.ring = [] ∧ s'.keep = s.keep ∧ threads s' ∧
      (s.keepWorn 6 = false → s'.sec.kwk = some (Config.kdfKwk (s.keepRd 6))) ∧ s'.board.inReset = true ∧ s'.flag F.KPR_SUPSTAT_REFA_OK = false ∧
      s'.flag F.KPR_SUPSTAT_REFB_OK = false) ∧
    (∃ s', exec (.supplyFault .vao) s = .next s' ∧ s'.board.inReset = true ∧ s'.board.kind = 0 ∧ s'.ring = [] ∧ s'.keep = s.keep) ∧
    faults .vinCore 1 ∧ faults .vddq 3 ∧ faults .vsdA 4 ∧ faults .vsdH 5 ∧ faults .vio 6 ∧
    (s.live = true → s.domOn 2 = true → ∃ s', exec (.supplyFault (.domain 2)) s = .next s' ∧ Records s s' 0x0E 149 ∧
      s'.board.cadFail = true ∧ s'.thread 513 = { s.thread 513 with run := .stopped } ∧ ∀ u, u ≠ 513 → s'.thread u = s.thread u) ∧
    (s.domOn d.val = false → exec (.supplyFault (.domain d)) s = .next s) ∧
    (∃ s', exec (.refclkMissing inp) s = .next s' ∧ s'.flag (refOk inp) = false ∧ OnlyRegs { s with board := s'.board } s' [sup] ∧
      (s.fld F.KPR_SUPSTAT_REFSEL ≠ refNo inp → s'.board = x ∧ s'.fld F.KPR_SUPSTAT_REFSEL = s.fld F.KPR_SUPSTAT_REFSEL) ∧
      (s.fld F.KPR_SUPSTAT_REFSEL = refNo inp → s.flag (refOk (otherRef inp)) = true →
        s'.fld F.KPR_SUPSTAT_REFSEL = refNo (otherRef inp) ∧ s'.flag F.KPR_SUPSTAT_FAILOVER = true ∧ s'.board = x) ∧
      (s.fld F.KPR_SUPSTAT_REFSEL = refNo inp → s.flag (refOk (otherRef inp)) = false → s'.board = { x with refHold := true })) ∧
    (∃ s', exec (.refclkReturn inp) s = .next s' ∧ s'.flag (refOk inp) = true ∧
      let waits := x.inReset && x.pwrgood && x.resetN && !s.sec.erasing && !s.sec.haltedOff && !x.railDown
      (x.refHold = true → s'.board = { x with refHold := false } ∧ s'.fld F.KPR_SUPSTAT_REFSEL = refNo inp) ∧
      (x.refHold = false → waits = true → starts s' ∧
        s'.fld F.KPR_SUPSTAT_REFSEL = (if inp = .a ∨ s.flag F.KPR_SUPSTAT_REFA_OK = true then 0 else 1)) ∧
      (x.refHold = false → waits = false → s'.board = x ∧ s'.fld F.KPR_SUPSTAT_REFSEL = s.fld F.KPR_SUPSTAT_REFSEL) ∧
      (x.refHold = true ∨ waits = false → OnlyRegs { s with board := s'.board } s' [sup])) ∧
    (x.refHold = true → resets .refclkHoldExpiry 1) ∧ (x.refHold = false → exec .refclkHoldExpiry s = .next s) ∧
    (∃ s', exec .thermalTrip s = .next s' ∧ s'.flag F.KPR_SUPSTAT_TTRIP = true ∧ s'.flag F.KPR_SUPSTAT_THOT = true ∧ OnlyRegs s s' [sup]) ∧
    (∃ s', exec .thermtripNRelease s = .next s' ∧ s'.flag F.KPR_SUPSTAT_TTRIP = false ∧ s'.flag F.KPR_SUPSTAT_THOT = false ∧
      OnlyRegs s s' [sup]) ∧
    ((s.live && x.romReady) = false → exec (.keeperRomBoot b) s = .next s) ∧
    (s.live = true → x.romReady = true → x.kind < 16 →
      (¬cached → x.kind ≠ 4 → b.flashOk = false → stops 1 0) ∧
      (¬cached → (x.kind = 4 ∨ b.flashOk = true) → b.readOk = false → stops 2 0) ∧
      (cached → x.cache = false → stops 3 2) ∧
      (x.kind = 4 → b.readOk = true → res ≠ 1 → s.keepFld 2 1 1 ≠ 1 → stops 3 res) ∧
      (x.kind = 4 → b.readOk = true → res = 1 → ∃ s', exec (.keeperRomBoot b) s = .next s' ∧ s'.fld F.KPR_BOOTSTAT_KIND = 4 ∧
        s'.flag F.KPR_BOOTSTAT_SLOT = x.slot ∧ s'.board = { rom.board with entry := true, cache := true, cacheSlot := x.slot } ∧
        ∀ i, i < (imgWords img).length → mgetD s'.kram (2 * i) 0 = (((imgWords img)[i]?).getD 0).setWidth 32)) ∧
    ((s.live && x.entry) = false → exec .keeperFirmwareEntry s = .next s) ∧
    (s.live = true → x.entry = true → ∃ s', exec .keeperFirmwareEntry s = .next s' ∧ (s'.thread 512).pc = 0x10_0000 ∧
      (s'.thread 512).run = .running ∧ (s'.thread 512).priv = .s ∧ (s'.thread 512).csrv 0x400 = 0 ∧
      (s'.thread 512).reg 1 = BitVec.ofNat 64 x.kind ∧ (s'.thread 512).reg 2 = BitVec.ofNat 64 (b2n x.cacheSlot) ∧
      s'.fld F.KPR_BOOTSTAT_STAGE = (if x.locked then 2 else 1) ∧ s'.board = { x with entry := false } ∧
      (∀ u, u ≠ 512 → s'.thread u = s.thread u) ∧ s'.entering = merase s.entering 512 ∧
      OnlyRegs { s with board := s'.board, threads := s'.threads, entering := s'.entering } s' [boot]) ∧
    (s.live = true → ∃ s', exec .keeperLockstepMismatch s = .next s' ∧ restarts s' 5 ∧
      ∃ r ∈ s'.ring, r.2.kind = 0x0E ∧ r.2.target = 148) ∧
    (MayWrite s m →
      (∃ s', exec (.bootLock m) s = .next s' ∧ s'.board = { x with locked := true, lockedAo := true } ∧
        s'.fld F.KPR_BOOTSTAT_STAGE = 2 ∧ OnlyRegs { s with board := s'.board } s' [boot]) ∧
      (s.winOn .cl (th.val / 16) = true →
        (bitOf v 0 = false → ∃ s', exec (.startThread m th v) s = .next s' ∧ s'.rd .CL_STARTPC (th.val / 16) (th.val % 16) = v &&& ~~~3#64 ∧
          OnlyRegs s s' [pc]) ∧
        (bitOf v 0 = true → (x.locked = false ∨ bitOf (s.rd .MAP_INSVCA) (th.val / 16) = false ∨ (s.thread th.val).run ≠ .off) →
          WriteRefused (.startThread m th v) s m 5 pc) ∧
        (bitOf v 0 = true → x.locked = true → bitOf (s.rd .MAP_INSVCA) (th.val / 16) = true → (s.thread th.val).run = .off →
          ∃ s', exec (.startThread m th v) s = .next s' ∧
            s'.thread th.val = { Thread.initial th.val with pc := v &&& ~~~3#64, run := .running } ∧
            (∀ u, u ≠ th.val → s'.thread u = s.thread u) ∧ s'.entering = merase s.entering th.val ∧
            OnlyRegs { s with threads := s'.threads, entering := s'.entering } s' [pc])) ∧
      (bitOf v 0 = true → ∃ s', exec (.liveRestart m v) s = .next s' ∧ restarts s' 4 ∧ s'.board.slot = bitOf v 1) ∧
      (bitOf v 0 = false → exec (.liveRestart m v) s = .next s) ∧
      exec (.stopCadence m) s = .next (s.setThread 513 { s.thread 513 with run := .stopped }) ∧
      (∃ s', exec (.startCadence m) s = .next s' ∧ (s'.thread 513).pc = 0x10_0000 ∧ (s'.thread 513).run = .running ∧
        (s'.thread 513).reg 1 = 4 ∧ (∀ u, u ≠ 513 → s'.thread u = s.thread u) ∧ s'.board = { x with cadFail := false } ∧
        (x.cadFail = true → s'.flag F.CAD_STAT_LOCKSTEP = true)) ∧
      (m ≠ .keeper → WriteRefused (.cadenceDoorbell m v) s m 4 (Reg.off .CAD_DOORBELL 0 0)) ∧
      (m = .keeper → bitOf v 0 = true → ∃ s', exec (.cadenceDoorbell m v) s = .next s' ∧ bitOf (s'.rd .CAD_IPEND) 3 = true ∧
        OnlyRegs s s' [Reg.off .CAD_IPEND 0 0]) ∧
      (m = .keeper → bitOf v 0 = false → exec (.cadenceDoorbell m v) s = .next s) ∧
      (let n := F.KPR_MBOXDB_LEN.of v
       (s.flag F.KPR_MBOXDB_BUSY = true → WriteRefused (.mailboxDoorbell m v) s m 5 (Reg.off .KPR_MBOXDB 0 0)) ∧
       (s.flag F.KPR_MBOXDB_BUSY = false → (n < 8 ∨ 256 < n) → WriteRefused (.mailboxDoorbell m v) s m 2 (Reg.off .KPR_MBOXDB 0 0)) ∧
       (s.flag F.KPR_MBOXDB_BUSY = false → 8 ≤ n → n ≤ 256 → ∃ s', exec (.mailboxDoorbell m v) s = .next s' ∧
         s'.flag F.KPR_MBOXDB_BUSY = up ∧ (up = true → bitOf (s'.rd .KPR_IPEND) 7 = true) ∧
         (up = false → s'.flag F.KPR_MBOXDB_DONE = true ∧ byteOf (s'.rd .KPR_MBOXRSP 0 0) 6 = 1)))) ∧
    (up = true → s.flag F.KPR_MBOXDB_BUSY = true → ∃ s', exec (.mailboxResponse msg status) s = .next s' ∧
      s'.flag F.KPR_MBOXDB_BUSY = false ∧ s'.flag F.KPR_MBOXDB_DONE = true ∧ byteOf (s'.rd .KPR_MBOXRSP 0 0) 0 = msg.apiver ∧
      byteOf (s'.rd .KPR_MBOXRSP 0 0) 1 = msg.op ∧ byteOf (s'.rd .KPR_MBOXRSP 0 0) 6 = status) ∧
    (s.flag F.KPR_MBOXDB_BUSY = false → exec (.mailboxResponse msg status) s = .next s) ∧
    (i3c = false → x.i3cOnly = true → exec (.managementBusMessage i3c msg) s = .next s) ∧
    ((i3c = true ∨ x.i3cOnly = false) → ∃ s', exec (.managementBusMessage i3c msg) s = .next s' ∧
      s'.board = { x with i3cOnly := i3c || x.i3cOnly } ∧ (up = true → bitOf (s'.rd .KPR_IPEND) 6 = true ∧ s'.out = s.out) ∧
      (up = false → s.fld F.KPR_BOOTSTAT_STAGE ≠ 3 → s'.out = s.out ++ [.mgmt 1 { msg with len := 0, payload := [] }])) ∧
    (up = false → s.live = true → s.fld F.KPR_BOOTSTAT_STAGE = 3 → msg.apiver = 1 → ∃ s', exec (.getVersion msg) s = .next s' ∧
      s'.out = s.out ++ [.mgmt 0 { msg with len := 50, payload := [1, 1] ++ wordBytes (s.rd .KPR_DEVID) ++ wordBytes (s.rd .KPR_SERIAL) ++
        (0x0E :: List.replicate 31 0) }] ∧ { s' with out := s.out, free := s.free } = s) ∧
    answers (.getBootstat msg) (wordBytes (s.rd .KPR_BOOTSTAT)) ∧
    answers (.getRecords msg first count) ((List.range count.val).flatMap (fun i => s.recordBytes (first.val + i))) ∧
    jtag .bypass .bypass bypassed ∧ jtag .idcode .idcode [.jtag 32 0x2520_0147] ∧ jtag .samplePreload .sample [] ∧
    (s.scope 4 = true → jtag .extest .extest []) ∧ (s.scope 4 = false → jtag .extest .bypass bypassed) ∧
    ((s.scope 0 || s.scope 1 || s.scope 2 || s.scope 3) = true → jtag .dbgport .dbgport []) ∧
    ((s.scope 0 || s.scope 1 || s.scope 2 || s.scope 3) = false → jtag .dbgport .bypass bypassed) ∧
    exec .trstNAssert s = .next { s with board := { x with session := none, jtag := .idcode } } ∧
    (up = false → exec .debugChallenge s = .next s) ∧
    (up = true → ∃ s' c, exec .debugChallenge s = .next s' ∧ s'.sec.challenge = some c ∧ ∃ w : BitVec 512, w.setWidth 256 = c ∧
      s'.out = s.out ++ [.jtag 512 w] ∧ (w >>> 256).setWidth 64 = s.rd .KPR_DEVID ∧ (w >>> 320).setWidth 64 = s.rd .KPR_SERIAL) ∧
    ((s.sec.challenge = none ∨ s.authRefused = true) → exec (.debugAuthResponse scope key hashOk sigOk) s = .next s ∧
      exec .debugAuthTimeout s = .next s) ∧
    (s.sec.challenge.isSome = true → s.authRefused = false → good = true → ∃ s', exec (.debugAuthResponse scope key hashOk sigOk) s = .next s' ∧
      s'.board = { x with session := some scope } ∧ s'.sec = { s.sec with challenge := none } ∧
      (s.keepWorn 5 = false → s'.keepFld 5 3 0 = 0)) ∧
    (good = false → fails (.debugAuthResponse scope key hashOk sigOk)) ∧ fails .debugAuthTimeout ∧
    debugs (.haltThread t)
      (((s.thread t.val).run = .running ∨ (s.thread t.val).run = .waiting →
        ∃ s', exec (.haltThread t) s = .next s' ∧ (s'.thread t.val).run = .halted ∧ (s'.thread t.val).resv = none ∧
          (∀ u, u ≠ t.val → s'.thread u = s.thread u) ∧
          (mget s.entering t.val = none → s'.thread t.val = { s.thread t.val with run := .halted, resv := none, hold := false } ∧
            OnlyRegs { s with threads := s'.threads, cores := s'.cores } s' [Reg.off .CL_SLPCTL (coreOf t.val / 8) (coreOf t.val % 8)]) ∧
          (∀ e, mget s.entering t.val = some e → mget s'.entering t.val = none ∧
            (s'.thread t.val).pc = cutTo t.val ((s.thread t.val).vec e.toH + BitVec.ofNat 64 (0x4000 + 64 * e.vec)) ∧
            (s'.thread t.val).priv = (if e.toH then Priv.h else Priv.s))) ∧
       ((s.thread t.val).run ≠ .running → (s.thread t.val).run ≠ .waiting → mget s.entering t.val = none →
        exec (.haltThread t) s = .next s)) ∧
    debugs (.releaseThread t) (((s.thread t.val).run = .halted → exec (.releaseThread t) s =
        .next (s.setThread t.val { s.thread t.val with run := .running })) ∧
      ((s.thread t.val).run ≠ .halted → exec (.releaseThread t) s = .next s))
end

