-- ==== Sys2Proof/Laws/Bits.lean ====
section
/-! SUPPORT. The laws of bit fields: a field that is read after it was set, and the bits beside it. -/
set_option Elab.async false

namespace Sys2Proof.Laws

open Sys2Proof.Machine

theorem testBit_getBits (w : Word) (hi lo i : Nat) :
    (getBits w hi lo).testBit i = (decide (i < hi + 1 - lo) && w.getLsbD (lo + i)) := by
  simp only [getBits, Nat.testBit_mod_two_pow, Nat.testBit_div_two_pow, BitVec.getLsbD, Nat.add_comm]

theorem getBits_lt (w : Word) (hi lo : Nat) : getBits w hi lo < 2 ^ (hi + 1 - lo) := Nat.mod_lt _ (Nat.two_pow_pos _)

theorem getLsbD_fieldMask (hi lo i : Nat) (hi64 : i < 64) :
    (BitVec.ofNat 64 ((2 ^ (hi + 1 - lo) - 1) * 2 ^ lo)).getLsbD i = decide (lo ≤ i ∧ i < lo + (hi + 1 - lo)) := by
  simp only [BitVec.getLsbD_ofNat, hi64, decide_true, Bool.true_and]
  rw [Nat.testBit_mul_two_pow, Nat.testBit_two_pow_sub_one]
  by_cases h : lo ≤ i
  · simp [h]; omega
  · simp [h]

theorem getLsbD_setBits (w : Word) (hi lo v i : Nat) (h64 : i < 64) :
    (setBits w hi lo v).getLsbD i = if lo ≤ i ∧ i < lo + (hi + 1 - lo) then v.testBit (i - lo) else w.getLsbD i := by
  simp only [setBits, BitVec.getLsbD_or, BitVec.getLsbD_and, BitVec.getLsbD_not, getLsbD_fieldMask _ _ _ h64, h64,
    decide_true, Bool.true_and]
  simp only [BitVec.getLsbD_ofNat, h64, decide_true, Bool.true_and, Nat.testBit_mul_two_pow, Nat.testBit_mod_two_pow]
  by_cases h : lo ≤ i ∧ i < lo + (hi + 1 - lo)
  · have : i - lo < hi + 1 - lo := by omega
    simp [h, this]
  · by_cases h1 : lo ≤ i
    · have h2 : ¬ i - lo < hi + 1 - lo := by omega
      have h3 : ¬ i < lo + (hi + 1 - lo) := by omega
      simp [h1, h2, h3]
    · simp [h1]

/-- A field that was set reads as the value, cut to its width. -/
theorem getBits_setBits_self (w : Word) (hi lo v : Nat) (h : hi < 64) :
    getBits (setBits w hi lo v) hi lo = v % 2 ^ (hi + 1 - lo) := by
  apply Nat.eq_of_testBit_eq
  intro i
  rw [testBit_getBits, Nat.testBit_mod_two_pow]
  by_cases hi' : i < hi + 1 - lo
  · rw [getLsbD_setBits _ _ _ _ _ (by omega)]
    have : lo ≤ lo + i ∧ lo + i < lo + (hi + 1 - lo) := by omega
    simp [hi', this]
  · simp [hi']

/-- A field beside the one that was set is unchanged. -/
theorem getBits_setBits_of_disjoint (w : Word) {hi lo hi' lo' : Nat} (v : Nat) (h : hi' < 64)
    (hd : hi' < lo ∨ hi < lo' ∨ hi' < lo') :
    getBits (setBits w hi lo v) hi' lo' = getBits w hi' lo' := by
  apply Nat.eq_of_testBit_eq
  intro i
  rw [testBit_getBits, testBit_getBits]
  by_cases hi2 : i < hi' + 1 - lo'
  · rw [getLsbD_setBits _ _ _ _ _ (by omega)]
    have : ¬ (lo ≤ lo' + i ∧ lo' + i < lo + (hi + 1 - lo)) := by omega
    simp [this]
  · simp [hi2]

theorem bitOf_setBits (w : Word) (hi lo v i : Nat) (h64 : i < 64) :
    bitOf (setBits w hi lo v) i = if lo ≤ i ∧ i < lo + (hi + 1 - lo) then v.testBit (i - lo) else bitOf w i :=
  getLsbD_setBits w hi lo v i h64

theorem bitOf_setBit (w : Word) (i j : Nat) (b : Bool) (hj : j < 64) :
    bitOf (setBit w i b) j = if j = i then b else bitOf w j := by
  unfold bitOf setBit
  have e : (1#64 <<< i).getLsbD j = decide (j = i) := by
    simp only [BitVec.getLsbD_shiftLeft, hj, decide_true, Bool.true_and, BitVec.getLsbD_one]
    by_cases h1 : j = i
    · simp [h1]
    · by_cases h2 : j < i
      · simp [h2, h1]
      · have : j - i ≠ 0 := by omega
        simp [h2, h1, this]
  cases b
  · simp only [Bool.false_eq_true, if_false, BitVec.getLsbD_and, BitVec.getLsbD_not, hj, decide_true, Bool.true_and, e]
    by_cases h1 : j = i <;> simp [h1]
  · simp only [if_true, BitVec.getLsbD_or, e]
    by_cases h1 : j = i <;> simp [h1]

/-- A field of bits none of which lies at i is unchanged by setting bit i. -/
theorem getBits_setBit_of_not_mem (w : Word) (i hi lo : Nat) (b : Bool) (h : hi < 64) (hd : i < lo ∨ hi < i) :
    getBits (setBit w i b) hi lo = getBits w hi lo := by
  apply Nat.eq_of_testBit_eq
  intro k
  rw [testBit_getBits, testBit_getBits]
  by_cases hk : k < hi + 1 - lo
  · have := bitOf_setBit w i (lo + k) b (by omega)
    unfold bitOf at this
    rw [this, if_neg (by omega)]
  · simp [hk]

end Sys2Proof.Laws
end

