-- ==== Sys2Proof/Laws/SMap.lean ====
section
/-! SUPPORT. The laws of sparse arrays: a read after a write, other entries, and the canonical form. -/
set_option Elab.async false

namespace Sys2Proof.Laws

open Sys2Proof.Machine

variable {α : Type}

@[simp] theorem mget_mput_self (m : SMap α) (k : Nat) (v : α) : mget (mput m k v) k = some v := by
  induction m with
  | nil => simp [mput, mget]
  | cons e t ih =>
    obtain ⟨i, w⟩ := e
    simp only [mput]
    split
    · simp [mget]
    · split
      · simp [mget]
      · simp [mget, *]

theorem mget_mput_ne (m : SMap α) {k j : Nat} (v : α) (h : j ≠ k) : mget (mput m k v) j = mget m j := by
  induction m with
  | nil => simp [mput, mget, Ne.symm h]
  | cons e t ih =>
    obtain ⟨i, w⟩ := e
    simp only [mput]
    split
    · simp [mget, Ne.symm h]
    · split
      · next h2 => subst h2; simp [mget, Ne.symm h]
      · simp [mget, ih]

/-- A read after a write, at every index. -/
theorem mget_mput (m : SMap α) (k j : Nat) (v : α) : mget (mput m k v) j = if j = k then some v else mget m j := by
  by_cases h : j = k
  · subst h; simp
  · simp [h, mget_mput_ne]

@[simp] theorem mget_merase_self (m : SMap α) (k : Nat) : mget (merase m k) k = none := by
  induction m with
  | nil => rfl
  | cons e t ih =>
    obtain ⟨i, w⟩ := e
    simp only [merase]
    split
    · exact ih
    · simp [mget, *]

theorem mget_merase_ne (m : SMap α) {k j : Nat} (h : j ≠ k) : mget (merase m k) j = mget m j := by
  induction m with
  | nil => rfl
  | cons e t ih =>
    obtain ⟨i, w⟩ := e
    simp only [merase]
    split
    · next h2 => subst h2; simp [mget, Ne.symm h, ih]
    · simp [mget, ih]

@[simp] theorem mgetD_mput_self (m : SMap α) (k : Nat) (v d : α) : mgetD (mput m k v) k d = v := by
  simp [mgetD]

theorem mgetD_mput_ne (m : SMap α) {k j : Nat} (v d : α) (h : j ≠ k) : mgetD (mput m k v) j d = mgetD m j d := by
  simp [mgetD, mget_mput_ne _ _ h]

@[simp] theorem mgetD_mset_self [DecidableEq α] (m : SMap α) (k : Nat) (v d : α) : mgetD (mset m k v d) k d = v := by
  unfold mset
  split
  · next h => simp [mgetD, h]
  · simp

theorem mgetD_mset_ne [DecidableEq α] (m : SMap α) {k j : Nat} (v d d' : α) (h : j ≠ k) :
    mgetD (mset m k v d) j d' = mgetD m j d' := by
  unfold mset
  split
  · simp [mgetD, mget_merase_ne _ h]
  · exact mgetD_mput_ne m v d' h

/-- What a restriction of an array to some indices holds. -/
theorem mget_mkeep (m : SMap α) (p : Nat → Bool) (k : Nat) : mget (mkeep m p) k = if p k then mget m k else none := by
  induction m with
  | nil => simp [mkeep, mget]
  | cons e t ih =>
    obtain ⟨i, w⟩ := e
    unfold mkeep at ih ⊢
    by_cases hp : p i
    · rw [List.filter_cons_of_pos (by exact hp)]
      simp only [mget]
      by_cases hik : i = k
      · subst hik; simp [hp]
      · simp [hik, ih]
    · rw [List.filter_cons_of_neg (by exact hp)]
      simp only [mget]
      by_cases hik : i = k
      · subst hik; simp [hp, ih]
      · simp [hik, ih]

/-! ### The canonical form -/

/-- Every index of an array is above k. -/
theorem mwf_cons (i : Nat) (w : α) (t : SMap α) : mwf ((i, w) :: t) = true ↔ (∀ e ∈ t, i < e.1) ∧ mwf t = true := by
  induction t generalizing i w with
  | nil => simp [mwf]
  | cons e t ih =>
    obtain ⟨j, x⟩ := e
    simp only [mwf, Bool.and_eq_true, decide_eq_true_eq, List.mem_cons, forall_eq_or_imp]
    rw [ih j x]
    constructor
    · rintro ⟨h1, h2, h3⟩
      exact ⟨⟨h1, fun e he => Nat.lt_trans h1 (h2 e he)⟩, h2, h3⟩
    · rintro ⟨⟨h1, -⟩, h2, h3⟩
      exact ⟨h1, h2, h3⟩

theorem mem_mput (m : SMap α) (k : Nat) (v : α) (e : Nat × α) (h : e ∈ mput m k v) : e = (k, v) ∨ e ∈ m := by
  induction m with
  | nil => simp [mput] at h; exact .inl h
  | cons x t ih =>
    obtain ⟨i, w⟩ := x
    simp only [mput] at h
    split at h
    · simpa using h
    · split at h
      · rcases List.mem_cons.1 h with h | h
        · exact .inl h
        · exact .inr (List.mem_cons_of_mem _ h)
      · rcases List.mem_cons.1 h with h | h
        · exact .inr (by simp [h])
        · rcases ih h with h | h
          · exact .inl h
          · exact .inr (List.mem_cons_of_mem _ h)

/-- A write keeps the canonical form. -/
theorem mwf_mput (m : SMap α) (k : Nat) (v : α) (h : mwf m = true) : mwf (mput m k v) = true := by
  induction m with
  | nil => rfl
  | cons e t ih =>
    obtain ⟨i, w⟩ := e
    rw [mwf_cons] at h
    simp only [mput]
    split
    · next hk =>
      rw [mwf_cons, mwf_cons]
      refine ⟨fun e he => ?_, h⟩
      rcases List.mem_cons.1 he with he | he
      · simp [he, hk]
      · exact Nat.lt_trans hk (h.1 e he)
    · split
      · next hk => subst hk; rw [mwf_cons]; exact h
      · rw [mwf_cons]
        refine ⟨fun e he => ?_, ih h.2⟩
        rcases mem_mput t k v e he with he | he
        · simp [he]; omega
        · exact h.1 e he

theorem merase_eq_filter (m : SMap α) (k : Nat) : merase m k = m.filter (fun e => decide (e.1 ≠ k)) := by
  induction m with
  | nil => rfl
  | cons e t ih =>
    obtain ⟨i, w⟩ := e
    simp only [merase]
    split
    · next h => subst h; rw [List.filter_cons_of_neg (by simp)]; exact ih
    · next h => rw [List.filter_cons_of_pos (by simpa using h), ih]

/-- Dropping entries keeps the canonical form. -/
theorem mwf_filter (m : SMap α) (p : Nat × α → Bool) (h : mwf m = true) : mwf (m.filter p) = true := by
  induction m with
  | nil => rfl
  | cons e t ih =>
    obtain ⟨i, w⟩ := e
    rw [mwf_cons] at h
    by_cases hp : p (i, w)
    · rw [List.filter_cons_of_pos hp, mwf_cons]
      exact ⟨fun e he => h.1 e (List.mem_filter.1 he).1, ih h.2⟩
    · rw [List.filter_cons_of_neg hp]
      exact ih h.2

theorem mwf_merase (m : SMap α) (k : Nat) (h : mwf m = true) : mwf (merase m k) = true := by
  rw [merase_eq_filter]; exact mwf_filter m _ h

theorem mwf_mkeep (m : SMap α) (p : Nat → Bool) (h : mwf m = true) : mwf (mkeep m p) = true := mwf_filter m _ h

theorem mwf_mset [DecidableEq α] (m : SMap α) (k : Nat) (v d : α) (h : mwf m = true) : mwf (mset m k v d) = true := by
  unfold mset
  split
  · exact mwf_merase m k h
  · exact mwf_mput m k v h

theorem mwf_mputs (m : SMap α) (k : Nat) (vs : List α) (h : mwf m = true) : mwf (mputs m k vs) = true := by
  induction vs generalizing m k with
  | nil => exact h
  | cons v vs ih => exact ih _ _ (mwf_mput m k v h)

/-- A write of a value never lists the value that an unlisted index reads as. -/
theorem mset_no_default [DecidableEq α] (m : SMap α) (k : Nat) (v d : α) (h : ∀ e ∈ m, e.2 ≠ d) :
    ∀ e ∈ mset m k v d, e.2 ≠ d := by
  intro e he
  unfold mset at he
  split at he
  · rw [merase_eq_filter] at he
    exact h e (List.mem_filter.1 he).1
  · next hv =>
    rcases mem_mput m k v e he with h' | h'
    · rw [h']; exact hv
    · exact h e h'

end Sys2Proof.Laws
end

