-- ==== Sys2Proof/Laws/Regs.lean ====
section
/-! SUPPORT. The laws of control registers and their fields: a read after a write, and every other register. -/
set_option Elab.async false

namespace Sys2Proof.Laws

open Sys2Proof.Machine

/-- A register reads as what was written. -/
@[simp] theorem rd_wr_self (s : State) (r : Reg) (v : Word) (b i : Nat) : (s.wr r v b i).rd r b i = v := by
  simp [State.rd, State.wr]

/-- A write leaves every register at another offset alone. -/
theorem rd_wr_ne (s : State) (r r' : Reg) (v : Word) (b i b' i' : Nat) (h : r'.off b' i' ≠ r.off b i) :
    (s.wr r v b i).rd r' b' i' = s.rd r' b' i' := by
  simp [State.rd, State.wr, mgetD_mset_ne _ _ _ _ h]

/-- Registers are read from the register array alone. -/
theorem rd_of_regs {s s' : State} (h : s.regs = s'.regs) (r : Reg) (b i : Nat) : s.rd r b i = s'.rd r b i := by
  simp [State.rd, h]

theorem fld_of_regs {s s' : State} (h : s.regs = s'.regs) (f : Fld) (b i : Nat) : s.fld f b i = s'.fld f b i := by
  simp [State.fld, rd_of_regs h]

theorem flag_of_regs {s s' : State} (h : s.regs = s'.regs) (f : Fld) (b i : Nat) : s.flag f b i = s'.flag f b i := by
  simp [State.flag, rd_of_regs h]

/-- A field that was set reads as the value, cut to its width. -/
theorem fld_setFld_self (s : State) (f : Fld) (v b i : Nat) (h : f.hi < 64) :
    (s.setFld f v b i).fld f b i = v % 2 ^ (f.hi + 1 - f.lo) := by
  simp [State.fld, State.setFld, getBits_setBits_self _ _ _ _ h]

/-- A field at another offset is unchanged. -/
theorem fld_setFld_ne (s : State) (f g : Fld) (v b i b' i' : Nat) (h : g.reg.off b' i' ≠ f.reg.off b i) :
    (s.setFld f v b i).fld g b' i' = s.fld g b' i' := by
  simp [State.fld, State.setFld, rd_wr_ne _ _ _ _ _ _ _ _ h]

theorem flag_setFld_ne (s : State) (f g : Fld) (v b i b' i' : Nat) (h : g.reg.off b' i' ≠ f.reg.off b i) :
    (s.setFld f v b i).flag g b' i' = s.flag g b' i' := by
  simp [State.flag, State.setFld, rd_wr_ne _ _ _ _ _ _ _ _ h]

/-- Another field of the same register is unchanged. -/
theorem fld_setFld_field (s : State) (f g : Fld) (v b i : Nat) (hr : g.reg = f.reg) (h : g.hi < 64)
    (hd : g.hi < f.lo ∨ f.hi < g.lo) : (s.setFld f v b i).fld g b i = s.fld g b i := by
  simp only [State.fld, State.setFld, hr, rd_wr_self]
  exact getBits_setBits_of_disjoint _ _ h (hd.elim .inl (fun h => .inr (.inl h)))

/-- A register that is returned to reset reads as its reset value; others are unchanged. -/
theorem rd_resetRegs (s : State) (p : Nat → Bool) (r : Reg) (b i : Nat) :
    (s.resetRegs p).rd r b i = if p (r.off b i) then r.reset i else s.rd r b i := by
  simp only [State.rd, State.resetRegs, mgetD, mget_mkeep]
  by_cases h : p (r.off b i) <;> simp [h]

end Sys2Proof.Laws
end

