-- ==== Sys2Proof/Laws/State.lean ====
section
/-! SUPPORT. What each update of the state leaves of each field: true by rfl. -/
set_option Elab.async false

namespace Sys2Proof.Laws

open Sys2Proof.Machine

variable (s : State)

@[simp] theorem setThread_regs (t : Nat) (x : Thread) : (s.setThread t x).regs = s.regs := rfl
@[simp] theorem setThread_keep (t : Nat) (x : Thread) : (s.setThread t x).keep = s.keep := rfl
@[simp] theorem setThread_kwcnt (t : Nat) (x : Thread) : (s.setThread t x).kwcnt = s.kwcnt := rfl
@[simp] theorem setThread_keepQ (t : Nat) (x : Thread) : (s.setThread t x).keepQ = s.keepQ := rfl
@[simp] theorem setThread_entering (t : Nat) (x : Thread) : (s.setThread t x).entering = s.entering := rfl
@[simp] theorem setThread_ring (t : Nat) (x : Thread) : (s.setThread t x).ring = s.ring := rfl
@[simp] theorem setThread_aoTime (t : Nat) (x : Thread) : (s.setThread t x).aoTime = s.aoTime := rfl
@[simp] theorem setThread_rtcAcc (t : Nat) (x : Thread) : (s.setThread t x).rtcAcc = s.rtcAcc := rfl
@[simp] theorem setThread_holdK (t : Nat) (x : Thread) : (s.setThread t x).holdK = s.holdK := rfl
@[simp] theorem setThread_holdC (t : Nat) (x : Thread) : (s.setThread t x).holdC = s.holdC := rfl
@[simp] theorem setThread_threads (t : Nat) (x : Thread) : (s.setThread t x).threads = mput s.threads t x := rfl
@[simp] theorem setThread_cores (t : Nat) (x : Thread) : (s.setThread t x).cores = s.cores := rfl
@[simp] theorem setThread_llc (t : Nat) (x : Thread) : (s.setThread t x).llc = s.llc := rfl
@[simp] theorem setThread_dir (t : Nat) (x : Thread) : (s.setThread t x).dir = s.dir := rfl
@[simp] theorem setThread_dirty (t : Nat) (x : Thread) : (s.setThread t x).dirty = s.dirty := rfl
@[simp] theorem setThread_cur (t : Nat) (x : Thread) : (s.setThread t x).cur = s.cur := rfl
@[simp] theorem setThread_nxt (t : Nat) (x : Thread) : (s.setThread t x).nxt = s.nxt := rfl
@[simp] theorem setThread_wflag (t : Nat) (x : Thread) : (s.setThread t x).wflag = s.wflag := rfl
@[simp] theorem setThread_curBad (t : Nat) (x : Thread) : (s.setThread t x).curBad = s.curBad := rfl
@[simp] theorem setThread_was (t : Nat) (x : Thread) : (s.setThread t x).was = s.was := rfl
@[simp] theorem setThread_wasBad (t : Nat) (x : Thread) : (s.setThread t x).wasBad = s.wasBad := rfl
@[simp] theorem setThread_scrubbed (t : Nat) (x : Thread) : (s.setThread t x).scrubbed = s.scrubbed := rfl
@[simp] theorem setThread_tick (t : Nat) (x : Thread) : (s.setThread t x).tick = s.tick := rfl
@[simp] theorem setThread_engines (t : Nat) (x : Thread) : (s.setThread t x).engines = s.engines := rfl
@[simp] theorem setThread_groups (t : Nat) (x : Thread) : (s.setThread t x).groups = s.groups := rfl
@[simp] theorem setThread_chans (t : Nat) (x : Thread) : (s.setThread t x).chans = s.chans := rfl
@[simp] theorem setThread_cxl (t : Nat) (x : Thread) : (s.setThread t x).cxl = s.cxl := rfl
@[simp] theorem setThread_ports (t : Nat) (x : Thread) : (s.setThread t x).ports = s.ports := rfl
@[simp] theorem setThread_les (t : Nat) (x : Thread) : (s.setThread t x).les = s.les := rfl
@[simp] theorem setThread_pcie (t : Nat) (x : Thread) : (s.setThread t x).pcie = s.pcie := rfl
@[simp] theorem setThread_fabric (t : Nat) (x : Thread) : (s.setThread t x).fabric = s.fabric := rfl
@[simp] theorem setThread_ledger (t : Nat) (x : Thread) : (s.setThread t x).ledger = s.ledger := rfl
@[simp] theorem setThread_sec (t : Nat) (x : Thread) : (s.setThread t x).sec = s.sec := rfl
@[simp] theorem setThread_board (t : Nat) (x : Thread) : (s.setThread t x).board = s.board := rfl
@[simp] theorem setThread_errs (t : Nat) (x : Thread) : (s.setThread t x).errs = s.errs := rfl
@[simp] theorem setThread_kram (t : Nat) (x : Thread) : (s.setThread t x).kram = s.kram := rfl
@[simp] theorem setThread_cram (t : Nat) (x : Thread) : (s.setThread t x).cram = s.cram := rfl
@[simp] theorem setThread_out (t : Nat) (x : Thread) : (s.setThread t x).out = s.out := rfl
@[simp] theorem setThread_free (t : Nat) (x : Thread) : (s.setThread t x).free = s.free := rfl
@[simp] theorem setThread_pending (t : Nat) (x : Thread) : (s.setThread t x).pending = s.pending := rfl

@[simp] theorem setCore_regs (c : Nat) (x : Core) : (s.setCore c x).regs = s.regs := rfl
@[simp] theorem setCore_keep (c : Nat) (x : Core) : (s.setCore c x).keep = s.keep := rfl
@[simp] theorem setCore_kwcnt (c : Nat) (x : Core) : (s.setCore c x).kwcnt = s.kwcnt := rfl
@[simp] theorem setCore_keepQ (c : Nat) (x : Core) : (s.setCore c x).keepQ = s.keepQ := rfl
@[simp] theorem setCore_entering (c : Nat) (x : Core) : (s.setCore c x).entering = s.entering := rfl
@[simp] theorem setCore_ring (c : Nat) (x : Core) : (s.setCore c x).ring = s.ring := rfl
@[simp] theorem setCore_aoTime (c : Nat) (x : Core) : (s.setCore c x).aoTime = s.aoTime := rfl
@[simp] theorem setCore_rtcAcc (c : Nat) (x : Core) : (s.setCore c x).rtcAcc = s.rtcAcc := rfl
@[simp] theorem setCore_holdK (c : Nat) (x : Core) : (s.setCore c x).holdK = s.holdK := rfl
@[simp] theorem setCore_holdC (c : Nat) (x : Core) : (s.setCore c x).holdC = s.holdC := rfl
@[simp] theorem setCore_threads (c : Nat) (x : Core) : (s.setCore c x).threads = s.threads := rfl
@[simp] theorem setCore_cores (c : Nat) (x : Core) : (s.setCore c x).cores = mput s.cores c x := rfl
@[simp] theorem setCore_llc (c : Nat) (x : Core) : (s.setCore c x).llc = s.llc := rfl
@[simp] theorem setCore_dir (c : Nat) (x : Core) : (s.setCore c x).dir = s.dir := rfl
@[simp] theorem setCore_dirty (c : Nat) (x : Core) : (s.setCore c x).dirty = s.dirty := rfl
@[simp] theorem setCore_cur (c : Nat) (x : Core) : (s.setCore c x).cur = s.cur := rfl
@[simp] theorem setCore_nxt (c : Nat) (x : Core) : (s.setCore c x).nxt = s.nxt := rfl
@[simp] theorem setCore_wflag (c : Nat) (x : Core) : (s.setCore c x).wflag = s.wflag := rfl
@[simp] theorem setCore_curBad (c : Nat) (x : Core) : (s.setCore c x).curBad = s.curBad := rfl
@[simp] theorem setCore_was (c : Nat) (x : Core) : (s.setCore c x).was = s.was := rfl
@[simp] theorem setCore_wasBad (c : Nat) (x : Core) : (s.setCore c x).wasBad = s.wasBad := rfl
@[simp] theorem setCore_scrubbed (c : Nat) (x : Core) : (s.setCore c x).scrubbed = s.scrubbed := rfl
@[simp] theorem setCore_tick (c : Nat) (x : Core) : (s.setCore c x).tick = s.tick := rfl
@[simp] theorem setCore_engines (c : Nat) (x : Core) : (s.setCore c x).engines = s.engines := rfl
@[simp] theorem setCore_groups (c : Nat) (x : Core) : (s.setCore c x).groups = s.groups := rfl
@[simp] theorem setCore_chans (c : Nat) (x : Core) : (s.setCore c x).chans = s.chans := rfl
@[simp] theorem setCore_cxl (c : Nat) (x : Core) : (s.setCore c x).cxl = s.cxl := rfl
@[simp] theorem setCore_ports (c : Nat) (x : Core) : (s.setCore c x).ports = s.ports := rfl
@[simp] theorem setCore_les (c : Nat) (x : Core) : (s.setCore c x).les = s.les := rfl
@[simp] theorem setCore_pcie (c : Nat) (x : Core) : (s.setCore c x).pcie = s.pcie := rfl
@[simp] theorem setCore_fabric (c : Nat) (x : Core) : (s.setCore c x).fabric = s.fabric := rfl
@[simp] theorem setCore_ledger (c : Nat) (x : Core) : (s.setCore c x).ledger = s.ledger := rfl
@[simp] theorem setCore_sec (c : Nat) (x : Core) : (s.setCore c x).sec = s.sec := rfl
@[simp] theorem setCore_board (c : Nat) (x : Core) : (s.setCore c x).board = s.board := rfl
@[simp] theorem setCore_errs (c : Nat) (x : Core) : (s.setCore c x).errs = s.errs := rfl
@[simp] theorem setCore_kram (c : Nat) (x : Core) : (s.setCore c x).kram = s.kram := rfl
@[simp] theorem setCore_cram (c : Nat) (x : Core) : (s.setCore c x).cram = s.cram := rfl
@[simp] theorem setCore_out (c : Nat) (x : Core) : (s.setCore c x).out = s.out := rfl
@[simp] theorem setCore_free (c : Nat) (x : Core) : (s.setCore c x).free = s.free := rfl
@[simp] theorem setCore_pending (c : Nat) (x : Core) : (s.setCore c x).pending = s.pending := rfl

@[simp] theorem setEngine_regs (e : Nat) (x : Engine) : (s.setEngine e x).regs = s.regs := rfl
@[simp] theorem setEngine_keep (e : Nat) (x : Engine) : (s.setEngine e x).keep = s.keep := rfl
@[simp] theorem setEngine_kwcnt (e : Nat) (x : Engine) : (s.setEngine e x).kwcnt = s.kwcnt := rfl
@[simp] theorem setEngine_keepQ (e : Nat) (x : Engine) : (s.setEngine e x).keepQ = s.keepQ := rfl
@[simp] theorem setEngine_entering (e : Nat) (x : Engine) : (s.setEngine e x).entering = s.entering := rfl
@[simp] theorem setEngine_ring (e : Nat) (x : Engine) : (s.setEngine e x).ring = s.ring := rfl
@[simp] theorem setEngine_aoTime (e : Nat) (x : Engine) : (s.setEngine e x).aoTime = s.aoTime := rfl
@[simp] theorem setEngine_rtcAcc (e : Nat) (x : Engine) : (s.setEngine e x).rtcAcc = s.rtcAcc := rfl
@[simp] theorem setEngine_holdK (e : Nat) (x : Engine) : (s.setEngine e x).holdK = s.holdK := rfl
@[simp] theorem setEngine_holdC (e : Nat) (x : Engine) : (s.setEngine e x).holdC = s.holdC := rfl
@[simp] theorem setEngine_threads (e : Nat) (x : Engine) : (s.setEngine e x).threads = s.threads := rfl
@[simp] theorem setEngine_cores (e : Nat) (x : Engine) : (s.setEngine e x).cores = s.cores := rfl
@[simp] theorem setEngine_llc (e : Nat) (x : Engine) : (s.setEngine e x).llc = s.llc := rfl
@[simp] theorem setEngine_dir (e : Nat) (x : Engine) : (s.setEngine e x).dir = s.dir := rfl
@[simp] theorem setEngine_dirty (e : Nat) (x : Engine) : (s.setEngine e x).dirty = s.dirty := rfl
@[simp] theorem setEngine_cur (e : Nat) (x : Engine) : (s.setEngine e x).cur = s.cur := rfl
@[simp] theorem setEngine_nxt (e : Nat) (x : Engine) : (s.setEngine e x).nxt = s.nxt := rfl
@[simp] theorem setEngine_wflag (e : Nat) (x : Engine) : (s.setEngine e x).wflag = s.wflag := rfl
@[simp] theorem setEngine_curBad (e : Nat) (x : Engine) : (s.setEngine e x).curBad = s.curBad := rfl
@[simp] theorem setEngine_was (e : Nat) (x : Engine) : (s.setEngine e x).was = s.was := rfl
@[simp] theorem setEngine_wasBad (e : Nat) (x : Engine) : (s.setEngine e x).wasBad = s.wasBad := rfl
@[simp] theorem setEngine_scrubbed (e : Nat) (x : Engine) : (s.setEngine e x).scrubbed = s.scrubbed := rfl
@[simp] theorem setEngine_tick (e : Nat) (x : Engine) : (s.setEngine e x).tick = s.tick := rfl
@[simp] theorem setEngine_engines (e : Nat) (x : Engine) : (s.setEngine e x).engines = mput s.engines e x := rfl
@[simp] theorem setEngine_groups (e : Nat) (x : Engine) : (s.setEngine e x).groups = s.groups := rfl
@[simp] theorem setEngine_chans (e : Nat) (x : Engine) : (s.setEngine e x).chans = s.chans := rfl
@[simp] theorem setEngine_cxl (e : Nat) (x : Engine) : (s.setEngine e x).cxl = s.cxl := rfl
@[simp] theorem setEngine_ports (e : Nat) (x : Engine) : (s.setEngine e x).ports = s.ports := rfl
@[simp] theorem setEngine_les (e : Nat) (x : Engine) : (s.setEngine e x).les = s.les := rfl
@[simp] theorem setEngine_pcie (e : Nat) (x : Engine) : (s.setEngine e x).pcie = s.pcie := rfl
@[simp] theorem setEngine_fabric (e : Nat) (x : Engine) : (s.setEngine e x).fabric = s.fabric := rfl
@[simp] theorem setEngine_ledger (e : Nat) (x : Engine) : (s.setEngine e x).ledger = s.ledger := rfl
@[simp] theorem setEngine_sec (e : Nat) (x : Engine) : (s.setEngine e x).sec = s.sec := rfl
@[simp] theorem setEngine_board (e : Nat) (x : Engine) : (s.setEngine e x).board = s.board := rfl
@[simp] theorem setEngine_errs (e : Nat) (x : Engine) : (s.setEngine e x).errs = s.errs := rfl
@[simp] theorem setEngine_kram (e : Nat) (x : Engine) : (s.setEngine e x).kram = s.kram := rfl
@[simp] theorem setEngine_cram (e : Nat) (x : Engine) : (s.setEngine e x).cram = s.cram := rfl
@[simp] theorem setEngine_out (e : Nat) (x : Engine) : (s.setEngine e x).out = s.out := rfl
@[simp] theorem setEngine_free (e : Nat) (x : Engine) : (s.setEngine e x).free = s.free := rfl
@[simp] theorem setEngine_pending (e : Nat) (x : Engine) : (s.setEngine e x).pending = s.pending := rfl

@[simp] theorem setGroup_regs (g : Nat) (x : Group) : (s.setGroup g x).regs = s.regs := rfl
@[simp] theorem setGroup_keep (g : Nat) (x : Group) : (s.setGroup g x).keep = s.keep := rfl
@[simp] theorem setGroup_kwcnt (g : Nat) (x : Group) : (s.setGroup g x).kwcnt = s.kwcnt := rfl
@[simp] theorem setGroup_keepQ (g : Nat) (x : Group) : (s.setGroup g x).keepQ = s.keepQ := rfl
@[simp] theorem setGroup_entering (g : Nat) (x : Group) : (s.setGroup g x).entering = s.entering := rfl
@[simp] theorem setGroup_ring (g : Nat) (x : Group) : (s.setGroup g x).ring = s.ring := rfl
@[simp] theorem setGroup_aoTime (g : Nat) (x : Group) : (s.setGroup g x).aoTime = s.aoTime := rfl
@[simp] theorem setGroup_rtcAcc (g : Nat) (x : Group) : (s.setGroup g x).rtcAcc = s.rtcAcc := rfl
@[simp] theorem setGroup_holdK (g : Nat) (x : Group) : (s.setGroup g x).holdK = s.holdK := rfl
@[simp] theorem setGroup_holdC (g : Nat) (x : Group) : (s.setGroup g x).holdC = s.holdC := rfl
@[simp] theorem setGroup_threads (g : Nat) (x : Group) : (s.setGroup g x).threads = s.threads := rfl
@[simp] theorem setGroup_cores (g : Nat) (x : Group) : (s.setGroup g x).cores = s.cores := rfl
@[simp] theorem setGroup_llc (g : Nat) (x : Group) : (s.setGroup g x).llc = s.llc := rfl
@[simp] theorem setGroup_dir (g : Nat) (x : Group) : (s.setGroup g x).dir = s.dir := rfl
@[simp] theorem setGroup_dirty (g : Nat) (x : Group) : (s.setGroup g x).dirty = s.dirty := rfl
@[simp] theorem setGroup_cur (g : Nat) (x : Group) : (s.setGroup g x).cur = s.cur := rfl
@[simp] theorem setGroup_nxt (g : Nat) (x : Group) : (s.setGroup g x).nxt = s.nxt := rfl
@[simp] theorem setGroup_wflag (g : Nat) (x : Group) : (s.setGroup g x).wflag = s.wflag := rfl
@[simp] theorem setGroup_curBad (g : Nat) (x : Group) : (s.setGroup g x).curBad = s.curBad := rfl
@[simp] theorem setGroup_was (g : Nat) (x : Group) : (s.setGroup g x).was = s.was := rfl
@[simp] theorem setGroup_wasBad (g : Nat) (x : Group) : (s.setGroup g x).wasBad = s.wasBad := rfl
@[simp] theorem setGroup_scrubbed (g : Nat) (x : Group) : (s.setGroup g x).scrubbed = s.scrubbed := rfl
@[simp] theorem setGroup_tick (g : Nat) (x : Group) : (s.setGroup g x).tick = s.tick := rfl
@[simp] theorem setGroup_engines (g : Nat) (x : Group) : (s.setGroup g x).engines = s.engines := rfl
@[simp] theorem setGroup_groups (g : Nat) (x : Group) : (s.setGroup g x).groups = mput s.groups g x := rfl
@[simp] theorem setGroup_chans (g : Nat) (x : Group) : (s.setGroup g x).chans = s.chans := rfl
@[simp] theorem setGroup_cxl (g : Nat) (x : Group) : (s.setGroup g x).cxl = s.cxl := rfl
@[simp] theorem setGroup_ports (g : Nat) (x : Group) : (s.setGroup g x).ports = s.ports := rfl
@[simp] theorem setGroup_les (g : Nat) (x : Group) : (s.setGroup g x).les = s.les := rfl
@[simp] theorem setGroup_pcie (g : Nat) (x : Group) : (s.setGroup g x).pcie = s.pcie := rfl
@[simp] theorem setGroup_fabric (g : Nat) (x : Group) : (s.setGroup g x).fabric = s.fabric := rfl
@[simp] theorem setGroup_ledger (g : Nat) (x : Group) : (s.setGroup g x).ledger = s.ledger := rfl
@[simp] theorem setGroup_sec (g : Nat) (x : Group) : (s.setGroup g x).sec = s.sec := rfl
@[simp] theorem setGroup_board (g : Nat) (x : Group) : (s.setGroup g x).board = s.board := rfl
@[simp] theorem setGroup_errs (g : Nat) (x : Group) : (s.setGroup g x).errs = s.errs := rfl
@[simp] theorem setGroup_kram (g : Nat) (x : Group) : (s.setGroup g x).kram = s.kram := rfl
@[simp] theorem setGroup_cram (g : Nat) (x : Group) : (s.setGroup g x).cram = s.cram := rfl
@[simp] theorem setGroup_out (g : Nat) (x : Group) : (s.setGroup g x).out = s.out := rfl
@[simp] theorem setGroup_free (g : Nat) (x : Group) : (s.setGroup g x).free = s.free := rfl
@[simp] theorem setGroup_pending (g : Nat) (x : Group) : (s.setGroup g x).pending = s.pending := rfl

@[simp] theorem setChan_regs (c : Nat) (x : Chan) : (s.setChan c x).regs = s.regs := rfl
@[simp] theorem setChan_keep (c : Nat) (x : Chan) : (s.setChan c x).keep = s.keep := rfl
@[simp] theorem setChan_kwcnt (c : Nat) (x : Chan) : (s.setChan c x).kwcnt = s.kwcnt := rfl
@[simp] theorem setChan_keepQ (c : Nat) (x : Chan) : (s.setChan c x).keepQ = s.keepQ := rfl
@[simp] theorem setChan_entering (c : Nat) (x : Chan) : (s.setChan c x).entering = s.entering := rfl
@[simp] theorem setChan_ring (c : Nat) (x : Chan) : (s.setChan c x).ring = s.ring := rfl
@[simp] theorem setChan_aoTime (c : Nat) (x : Chan) : (s.setChan c x).aoTime = s.aoTime := rfl
@[simp] theorem setChan_rtcAcc (c : Nat) (x : Chan) : (s.setChan c x).rtcAcc = s.rtcAcc := rfl
@[simp] theorem setChan_holdK (c : Nat) (x : Chan) : (s.setChan c x).holdK = s.holdK := rfl
@[simp] theorem setChan_holdC (c : Nat) (x : Chan) : (s.setChan c x).holdC = s.holdC := rfl
@[simp] theorem setChan_threads (c : Nat) (x : Chan) : (s.setChan c x).threads = s.threads := rfl
@[simp] theorem setChan_cores (c : Nat) (x : Chan) : (s.setChan c x).cores = s.cores := rfl
@[simp] theorem setChan_llc (c : Nat) (x : Chan) : (s.setChan c x).llc = s.llc := rfl
@[simp] theorem setChan_dir (c : Nat) (x : Chan) : (s.setChan c x).dir = s.dir := rfl
@[simp] theorem setChan_dirty (c : Nat) (x : Chan) : (s.setChan c x).dirty = s.dirty := rfl
@[simp] theorem setChan_cur (c : Nat) (x : Chan) : (s.setChan c x).cur = s.cur := rfl
@[simp] theorem setChan_nxt (c : Nat) (x : Chan) : (s.setChan c x).nxt = s.nxt := rfl
@[simp] theorem setChan_wflag (c : Nat) (x : Chan) : (s.setChan c x).wflag = s.wflag := rfl
@[simp] theorem setChan_curBad (c : Nat) (x : Chan) : (s.setChan c x).curBad = s.curBad := rfl
@[simp] theorem setChan_was (c : Nat) (x : Chan) : (s.setChan c x).was = s.was := rfl
@[simp] theorem setChan_wasBad (c : Nat) (x : Chan) : (s.setChan c x).wasBad = s.wasBad := rfl
@[simp] theorem setChan_scrubbed (c : Nat) (x : Chan) : (s.setChan c x).scrubbed = s.scrubbed := rfl
@[simp] theorem setChan_tick (c : Nat) (x : Chan) : (s.setChan c x).tick = s.tick := rfl
@[simp] theorem setChan_engines (c : Nat) (x : Chan) : (s.setChan c x).engines = s.engines := rfl
@[simp] theorem setChan_groups (c : Nat) (x : Chan) : (s.setChan c x).groups = s.groups := rfl
@[simp] theorem setChan_chans (c : Nat) (x : Chan) : (s.setChan c x).chans = mput s.chans c x := rfl
@[simp] theorem setChan_cxl (c : Nat) (x : Chan) : (s.setChan c x).cxl = s.cxl := rfl
@[simp] theorem setChan_ports (c : Nat) (x : Chan) : (s.setChan c x).ports = s.ports := rfl
@[simp] theorem setChan_les (c : Nat) (x : Chan) : (s.setChan c x).les = s.les := rfl
@[simp] theorem setChan_pcie (c : Nat) (x : Chan) : (s.setChan c x).pcie = s.pcie := rfl
@[simp] theorem setChan_fabric (c : Nat) (x : Chan) : (s.setChan c x).fabric = s.fabric := rfl
@[simp] theorem setChan_ledger (c : Nat) (x : Chan) : (s.setChan c x).ledger = s.ledger := rfl
@[simp] theorem setChan_sec (c : Nat) (x : Chan) : (s.setChan c x).sec = s.sec := rfl
@[simp] theorem setChan_board (c : Nat) (x : Chan) : (s.setChan c x).board = s.board := rfl
@[simp] theorem setChan_errs (c : Nat) (x : Chan) : (s.setChan c x).errs = s.errs := rfl
@[simp] theorem setChan_kram (c : Nat) (x : Chan) : (s.setChan c x).kram = s.kram := rfl
@[simp] theorem setChan_cram (c : Nat) (x : Chan) : (s.setChan c x).cram = s.cram := rfl
@[simp] theorem setChan_out (c : Nat) (x : Chan) : (s.setChan c x).out = s.out := rfl
@[simp] theorem setChan_free (c : Nat) (x : Chan) : (s.setChan c x).free = s.free := rfl
@[simp] theorem setChan_pending (c : Nat) (x : Chan) : (s.setChan c x).pending = s.pending := rfl

@[simp] theorem setPort_regs (p : Nat) (x : Port) : (s.setPort p x).regs = s.regs := rfl
@[simp] theorem setPort_keep (p : Nat) (x : Port) : (s.setPort p x).keep = s.keep := rfl
@[simp] theorem setPort_kwcnt (p : Nat) (x : Port) : (s.setPort p x).kwcnt = s.kwcnt := rfl
@[simp] theorem setPort_keepQ (p : Nat) (x : Port) : (s.setPort p x).keepQ = s.keepQ := rfl
@[simp] theorem setPort_entering (p : Nat) (x : Port) : (s.setPort p x).entering = s.entering := rfl
@[simp] theorem setPort_ring (p : Nat) (x : Port) : (s.setPort p x).ring = s.ring := rfl
@[simp] theorem setPort_aoTime (p : Nat) (x : Port) : (s.setPort p x).aoTime = s.aoTime := rfl
@[simp] theorem setPort_rtcAcc (p : Nat) (x : Port) : (s.setPort p x).rtcAcc = s.rtcAcc := rfl
@[simp] theorem setPort_holdK (p : Nat) (x : Port) : (s.setPort p x).holdK = s.holdK := rfl
@[simp] theorem setPort_holdC (p : Nat) (x : Port) : (s.setPort p x).holdC = s.holdC := rfl
@[simp] theorem setPort_threads (p : Nat) (x : Port) : (s.setPort p x).threads = s.threads := rfl
@[simp] theorem setPort_cores (p : Nat) (x : Port) : (s.setPort p x).cores = s.cores := rfl
@[simp] theorem setPort_llc (p : Nat) (x : Port) : (s.setPort p x).llc = s.llc := rfl
@[simp] theorem setPort_dir (p : Nat) (x : Port) : (s.setPort p x).dir = s.dir := rfl
@[simp] theorem setPort_dirty (p : Nat) (x : Port) : (s.setPort p x).dirty = s.dirty := rfl
@[simp] theorem setPort_cur (p : Nat) (x : Port) : (s.setPort p x).cur = s.cur := rfl
@[simp] theorem setPort_nxt (p : Nat) (x : Port) : (s.setPort p x).nxt = s.nxt := rfl
@[simp] theorem setPort_wflag (p : Nat) (x : Port) : (s.setPort p x).wflag = s.wflag := rfl
@[simp] theorem setPort_curBad (p : Nat) (x : Port) : (s.setPort p x).curBad = s.curBad := rfl
@[simp] theorem setPort_was (p : Nat) (x : Port) : (s.setPort p x).was = s.was := rfl
@[simp] theorem setPort_wasBad (p : Nat) (x : Port) : (s.setPort p x).wasBad = s.wasBad := rfl
@[simp] theorem setPort_scrubbed (p : Nat) (x : Port) : (s.setPort p x).scrubbed = s.scrubbed := rfl
@[simp] theorem setPort_tick (p : Nat) (x : Port) : (s.setPort p x).tick = s.tick := rfl
@[simp] theorem setPort_engines (p : Nat) (x : Port) : (s.setPort p x).engines = s.engines := rfl
@[simp] theorem setPort_groups (p : Nat) (x : Port) : (s.setPort p x).groups = s.groups := rfl
@[simp] theorem setPort_chans (p : Nat) (x : Port) : (s.setPort p x).chans = s.chans := rfl
@[simp] theorem setPort_cxl (p : Nat) (x : Port) : (s.setPort p x).cxl = s.cxl := rfl
@[simp] theorem setPort_ports (p : Nat) (x : Port) : (s.setPort p x).ports = mput s.ports p x := rfl
@[simp] theorem setPort_les (p : Nat) (x : Port) : (s.setPort p x).les = s.les := rfl
@[simp] theorem setPort_pcie (p : Nat) (x : Port) : (s.setPort p x).pcie = s.pcie := rfl
@[simp] theorem setPort_fabric (p : Nat) (x : Port) : (s.setPort p x).fabric = s.fabric := rfl
@[simp] theorem setPort_ledger (p : Nat) (x : Port) : (s.setPort p x).ledger = s.ledger := rfl
@[simp] theorem setPort_sec (p : Nat) (x : Port) : (s.setPort p x).sec = s.sec := rfl
@[simp] theorem setPort_board (p : Nat) (x : Port) : (s.setPort p x).board = s.board := rfl
@[simp] theorem setPort_errs (p : Nat) (x : Port) : (s.setPort p x).errs = s.errs := rfl
@[simp] theorem setPort_kram (p : Nat) (x : Port) : (s.setPort p x).kram = s.kram := rfl
@[simp] theorem setPort_cram (p : Nat) (x : Port) : (s.setPort p x).cram = s.cram := rfl
@[simp] theorem setPort_out (p : Nat) (x : Port) : (s.setPort p x).out = s.out := rfl
@[simp] theorem setPort_free (p : Nat) (x : Port) : (s.setPort p x).free = s.free := rfl
@[simp] theorem setPort_pending (p : Nat) (x : Port) : (s.setPort p x).pending = s.pending := rfl

@[simp] theorem setLe_regs (n : Nat) (x : LinkEng) : (s.setLe n x).regs = s.regs := rfl
@[simp] theorem setLe_keep (n : Nat) (x : LinkEng) : (s.setLe n x).keep = s.keep := rfl
@[simp] theorem setLe_kwcnt (n : Nat) (x : LinkEng) : (s.setLe n x).kwcnt = s.kwcnt := rfl
@[simp] theorem setLe_keepQ (n : Nat) (x : LinkEng) : (s.setLe n x).keepQ = s.keepQ := rfl
@[simp] theorem setLe_entering (n : Nat) (x : LinkEng) : (s.setLe n x).entering = s.entering := rfl
@[simp] theorem setLe_ring (n : Nat) (x : LinkEng) : (s.setLe n x).ring = s.ring := rfl
@[simp] theorem setLe_aoTime (n : Nat) (x : LinkEng) : (s.setLe n x).aoTime = s.aoTime := rfl
@[simp] theorem setLe_rtcAcc (n : Nat) (x : LinkEng) : (s.setLe n x).rtcAcc = s.rtcAcc := rfl
@[simp] theorem setLe_holdK (n : Nat) (x : LinkEng) : (s.setLe n x).holdK = s.holdK := rfl
@[simp] theorem setLe_holdC (n : Nat) (x : LinkEng) : (s.setLe n x).holdC = s.holdC := rfl
@[simp] theorem setLe_threads (n : Nat) (x : LinkEng) : (s.setLe n x).threads = s.threads := rfl
@[simp] theorem setLe_cores (n : Nat) (x : LinkEng) : (s.setLe n x).cores = s.cores := rfl
@[simp] theorem setLe_llc (n : Nat) (x : LinkEng) : (s.setLe n x).llc = s.llc := rfl
@[simp] theorem setLe_dir (n : Nat) (x : LinkEng) : (s.setLe n x).dir = s.dir := rfl
@[simp] theorem setLe_dirty (n : Nat) (x : LinkEng) : (s.setLe n x).dirty = s.dirty := rfl
@[simp] theorem setLe_cur (n : Nat) (x : LinkEng) : (s.setLe n x).cur = s.cur := rfl
@[simp] theorem setLe_nxt (n : Nat) (x : LinkEng) : (s.setLe n x).nxt = s.nxt := rfl
@[simp] theorem setLe_wflag (n : Nat) (x : LinkEng) : (s.setLe n x).wflag = s.wflag := rfl
@[simp] theorem setLe_curBad (n : Nat) (x : LinkEng) : (s.setLe n x).curBad = s.curBad := rfl
@[simp] theorem setLe_was (n : Nat) (x : LinkEng) : (s.setLe n x).was = s.was := rfl
@[simp] theorem setLe_wasBad (n : Nat) (x : LinkEng) : (s.setLe n x).wasBad = s.wasBad := rfl
@[simp] theorem setLe_scrubbed (n : Nat) (x : LinkEng) : (s.setLe n x).scrubbed = s.scrubbed := rfl
@[simp] theorem setLe_tick (n : Nat) (x : LinkEng) : (s.setLe n x).tick = s.tick := rfl
@[simp] theorem setLe_engines (n : Nat) (x : LinkEng) : (s.setLe n x).engines = s.engines := rfl
@[simp] theorem setLe_groups (n : Nat) (x : LinkEng) : (s.setLe n x).groups = s.groups := rfl
@[simp] theorem setLe_chans (n : Nat) (x : LinkEng) : (s.setLe n x).chans = s.chans := rfl
@[simp] theorem setLe_cxl (n : Nat) (x : LinkEng) : (s.setLe n x).cxl = s.cxl := rfl
@[simp] theorem setLe_ports (n : Nat) (x : LinkEng) : (s.setLe n x).ports = s.ports := rfl
@[simp] theorem setLe_les (n : Nat) (x : LinkEng) : (s.setLe n x).les = mput s.les n x := rfl
@[simp] theorem setLe_pcie (n : Nat) (x : LinkEng) : (s.setLe n x).pcie = s.pcie := rfl
@[simp] theorem setLe_fabric (n : Nat) (x : LinkEng) : (s.setLe n x).fabric = s.fabric := rfl
@[simp] theorem setLe_ledger (n : Nat) (x : LinkEng) : (s.setLe n x).ledger = s.ledger := rfl
@[simp] theorem setLe_sec (n : Nat) (x : LinkEng) : (s.setLe n x).sec = s.sec := rfl
@[simp] theorem setLe_board (n : Nat) (x : LinkEng) : (s.setLe n x).board = s.board := rfl
@[simp] theorem setLe_errs (n : Nat) (x : LinkEng) : (s.setLe n x).errs = s.errs := rfl
@[simp] theorem setLe_kram (n : Nat) (x : LinkEng) : (s.setLe n x).kram = s.kram := rfl
@[simp] theorem setLe_cram (n : Nat) (x : LinkEng) : (s.setLe n x).cram = s.cram := rfl
@[simp] theorem setLe_out (n : Nat) (x : LinkEng) : (s.setLe n x).out = s.out := rfl
@[simp] theorem setLe_free (n : Nat) (x : LinkEng) : (s.setLe n x).free = s.free := rfl
@[simp] theorem setLe_pending (n : Nat) (x : LinkEng) : (s.setLe n x).pending = s.pending := rfl

@[simp] theorem setLink_regs (k : Nat) (x : PcieLink) : (s.setLink k x).regs = s.regs := rfl
@[simp] theorem setLink_keep (k : Nat) (x : PcieLink) : (s.setLink k x).keep = s.keep := rfl
@[simp] theorem setLink_kwcnt (k : Nat) (x : PcieLink) : (s.setLink k x).kwcnt = s.kwcnt := rfl
@[simp] theorem setLink_keepQ (k : Nat) (x : PcieLink) : (s.setLink k x).keepQ = s.keepQ := rfl
@[simp] theorem setLink_entering (k : Nat) (x : PcieLink) : (s.setLink k x).entering = s.entering := rfl
@[simp] theorem setLink_ring (k : Nat) (x : PcieLink) : (s.setLink k x).ring = s.ring := rfl
@[simp] theorem setLink_aoTime (k : Nat) (x : PcieLink) : (s.setLink k x).aoTime = s.aoTime := rfl
@[simp] theorem setLink_rtcAcc (k : Nat) (x : PcieLink) : (s.setLink k x).rtcAcc = s.rtcAcc := rfl
@[simp] theorem setLink_holdK (k : Nat) (x : PcieLink) : (s.setLink k x).holdK = s.holdK := rfl
@[simp] theorem setLink_holdC (k : Nat) (x : PcieLink) : (s.setLink k x).holdC = s.holdC := rfl
@[simp] theorem setLink_threads (k : Nat) (x : PcieLink) : (s.setLink k x).threads = s.threads := rfl
@[simp] theorem setLink_cores (k : Nat) (x : PcieLink) : (s.setLink k x).cores = s.cores := rfl
@[simp] theorem setLink_llc (k : Nat) (x : PcieLink) : (s.setLink k x).llc = s.llc := rfl
@[simp] theorem setLink_dir (k : Nat) (x : PcieLink) : (s.setLink k x).dir = s.dir := rfl
@[simp] theorem setLink_dirty (k : Nat) (x : PcieLink) : (s.setLink k x).dirty = s.dirty := rfl
@[simp] theorem setLink_cur (k : Nat) (x : PcieLink) : (s.setLink k x).cur = s.cur := rfl
@[simp] theorem setLink_nxt (k : Nat) (x : PcieLink) : (s.setLink k x).nxt = s.nxt := rfl
@[simp] theorem setLink_wflag (k : Nat) (x : PcieLink) : (s.setLink k x).wflag = s.wflag := rfl
@[simp] theorem setLink_curBad (k : Nat) (x : PcieLink) : (s.setLink k x).curBad = s.curBad := rfl
@[simp] theorem setLink_was (k : Nat) (x : PcieLink) : (s.setLink k x).was = s.was := rfl
@[simp] theorem setLink_wasBad (k : Nat) (x : PcieLink) : (s.setLink k x).wasBad = s.wasBad := rfl
@[simp] theorem setLink_scrubbed (k : Nat) (x : PcieLink) : (s.setLink k x).scrubbed = s.scrubbed := rfl
@[simp] theorem setLink_tick (k : Nat) (x : PcieLink) : (s.setLink k x).tick = s.tick := rfl
@[simp] theorem setLink_engines (k : Nat) (x : PcieLink) : (s.setLink k x).engines = s.engines := rfl
@[simp] theorem setLink_groups (k : Nat) (x : PcieLink) : (s.setLink k x).groups = s.groups := rfl
@[simp] theorem setLink_chans (k : Nat) (x : PcieLink) : (s.setLink k x).chans = s.chans := rfl
@[simp] theorem setLink_cxl (k : Nat) (x : PcieLink) : (s.setLink k x).cxl = s.cxl := rfl
@[simp] theorem setLink_ports (k : Nat) (x : PcieLink) : (s.setLink k x).ports = s.ports := rfl
@[simp] theorem setLink_les (k : Nat) (x : PcieLink) : (s.setLink k x).les = s.les := rfl
@[simp] theorem setLink_pcie (k : Nat) (x : PcieLink) : (s.setLink k x).pcie = mput s.pcie k x := rfl
@[simp] theorem setLink_fabric (k : Nat) (x : PcieLink) : (s.setLink k x).fabric = s.fabric := rfl
@[simp] theorem setLink_ledger (k : Nat) (x : PcieLink) : (s.setLink k x).ledger = s.ledger := rfl
@[simp] theorem setLink_sec (k : Nat) (x : PcieLink) : (s.setLink k x).sec = s.sec := rfl
@[simp] theorem setLink_board (k : Nat) (x : PcieLink) : (s.setLink k x).board = s.board := rfl
@[simp] theorem setLink_errs (k : Nat) (x : PcieLink) : (s.setLink k x).errs = s.errs := rfl
@[simp] theorem setLink_kram (k : Nat) (x : PcieLink) : (s.setLink k x).kram = s.kram := rfl
@[simp] theorem setLink_cram (k : Nat) (x : PcieLink) : (s.setLink k x).cram = s.cram := rfl
@[simp] theorem setLink_out (k : Nat) (x : PcieLink) : (s.setLink k x).out = s.out := rfl
@[simp] theorem setLink_free (k : Nat) (x : PcieLink) : (s.setLink k x).free = s.free := rfl
@[simp] theorem setLink_pending (k : Nat) (x : PcieLink) : (s.setLink k x).pending = s.pending := rfl

@[simp] theorem setTick_regs (x : Tick) : (s.setTick x).regs = s.regs := rfl
@[simp] theorem setTick_keep (x : Tick) : (s.setTick x).keep = s.keep := rfl
@[simp] theorem setTick_kwcnt (x : Tick) : (s.setTick x).kwcnt = s.kwcnt := rfl
@[simp] theorem setTick_keepQ (x : Tick) : (s.setTick x).keepQ = s.keepQ := rfl
@[simp] theorem setTick_entering (x : Tick) : (s.setTick x).entering = s.entering := rfl
@[simp] theorem setTick_ring (x : Tick) : (s.setTick x).ring = s.ring := rfl
@[simp] theorem setTick_aoTime (x : Tick) : (s.setTick x).aoTime = s.aoTime := rfl
@[simp] theorem setTick_rtcAcc (x : Tick) : (s.setTick x).rtcAcc = s.rtcAcc := rfl
@[simp] theorem setTick_holdK (x : Tick) : (s.setTick x).holdK = s.holdK := rfl
@[simp] theorem setTick_holdC (x : Tick) : (s.setTick x).holdC = s.holdC := rfl
@[simp] theorem setTick_threads (x : Tick) : (s.setTick x).threads = s.threads := rfl
@[simp] theorem setTick_cores (x : Tick) : (s.setTick x).cores = s.cores := rfl
@[simp] theorem setTick_llc (x : Tick) : (s.setTick x).llc = s.llc := rfl
@[simp] theorem setTick_dir (x : Tick) : (s.setTick x).dir = s.dir := rfl
@[simp] theorem setTick_dirty (x : Tick) : (s.setTick x).dirty = s.dirty := rfl
@[simp] theorem setTick_cur (x : Tick) : (s.setTick x).cur = s.cur := rfl
@[simp] theorem setTick_nxt (x : Tick) : (s.setTick x).nxt = s.nxt := rfl
@[simp] theorem setTick_wflag (x : Tick) : (s.setTick x).wflag = s.wflag := rfl
@[simp] theorem setTick_curBad (x : Tick) : (s.setTick x).curBad = s.curBad := rfl
@[simp] theorem setTick_was (x : Tick) : (s.setTick x).was = s.was := rfl
@[simp] theorem setTick_wasBad (x : Tick) : (s.setTick x).wasBad = s.wasBad := rfl
@[simp] theorem setTick_scrubbed (x : Tick) : (s.setTick x).scrubbed = s.scrubbed := rfl
@[simp] theorem setTick_tick (x : Tick) : (s.setTick x).tick = x := rfl
@[simp] theorem setTick_engines (x : Tick) : (s.setTick x).engines = s.engines := rfl
@[simp] theorem setTick_groups (x : Tick) : (s.setTick x).groups = s.groups := rfl
@[simp] theorem setTick_chans (x : Tick) : (s.setTick x).chans = s.chans := rfl
@[simp] theorem setTick_cxl (x : Tick) : (s.setTick x).cxl = s.cxl := rfl
@[simp] theorem setTick_ports (x : Tick) : (s.setTick x).ports = s.ports := rfl
@[simp] theorem setTick_les (x : Tick) : (s.setTick x).les = s.les := rfl
@[simp] theorem setTick_pcie (x : Tick) : (s.setTick x).pcie = s.pcie := rfl
@[simp] theorem setTick_fabric (x : Tick) : (s.setTick x).fabric = s.fabric := rfl
@[simp] theorem setTick_ledger (x : Tick) : (s.setTick x).ledger = s.ledger := rfl
@[simp] theorem setTick_sec (x : Tick) : (s.setTick x).sec = s.sec := rfl
@[simp] theorem setTick_board (x : Tick) : (s.setTick x).board = s.board := rfl
@[simp] theorem setTick_errs (x : Tick) : (s.setTick x).errs = s.errs := rfl
@[simp] theorem setTick_kram (x : Tick) : (s.setTick x).kram = s.kram := rfl
@[simp] theorem setTick_cram (x : Tick) : (s.setTick x).cram = s.cram := rfl
@[simp] theorem setTick_out (x : Tick) : (s.setTick x).out = s.out := rfl
@[simp] theorem setTick_free (x : Tick) : (s.setTick x).free = s.free := rfl
@[simp] theorem setTick_pending (x : Tick) : (s.setTick x).pending = s.pending := rfl

@[simp] theorem setBoard_regs (x : Board) : (s.setBoard x).regs = s.regs := rfl
@[simp] theorem setBoard_keep (x : Board) : (s.setBoard x).keep = s.keep := rfl
@[simp] theorem setBoard_kwcnt (x : Board) : (s.setBoard x).kwcnt = s.kwcnt := rfl
@[simp] theorem setBoard_keepQ (x : Board) : (s.setBoard x).keepQ = s.keepQ := rfl
@[simp] theorem setBoard_entering (x : Board) : (s.setBoard x).entering = s.entering := rfl
@[simp] theorem setBoard_ring (x : Board) : (s.setBoard x).ring = s.ring := rfl
@[simp] theorem setBoard_aoTime (x : Board) : (s.setBoard x).aoTime = s.aoTime := rfl
@[simp] theorem setBoard_rtcAcc (x : Board) : (s.setBoard x).rtcAcc = s.rtcAcc := rfl
@[simp] theorem setBoard_holdK (x : Board) : (s.setBoard x).holdK = s.holdK := rfl
@[simp] theorem setBoard_holdC (x : Board) : (s.setBoard x).holdC = s.holdC := rfl
@[simp] theorem setBoard_threads (x : Board) : (s.setBoard x).threads = s.threads := rfl
@[simp] theorem setBoard_cores (x : Board) : (s.setBoard x).cores = s.cores := rfl
@[simp] theorem setBoard_llc (x : Board) : (s.setBoard x).llc = s.llc := rfl
@[simp] theorem setBoard_dir (x : Board) : (s.setBoard x).dir = s.dir := rfl
@[simp] theorem setBoard_dirty (x : Board) : (s.setBoard x).dirty = s.dirty := rfl
@[simp] theorem setBoard_cur (x : Board) : (s.setBoard x).cur = s.cur := rfl
@[simp] theorem setBoard_nxt (x : Board) : (s.setBoard x).nxt = s.nxt := rfl
@[simp] theorem setBoard_wflag (x : Board) : (s.setBoard x).wflag = s.wflag := rfl
@[simp] theorem setBoard_curBad (x : Board) : (s.setBoard x).curBad = s.curBad := rfl
@[simp] theorem setBoard_was (x : Board) : (s.setBoard x).was = s.was := rfl
@[simp] theorem setBoard_wasBad (x : Board) : (s.setBoard x).wasBad = s.wasBad := rfl
@[simp] theorem setBoard_scrubbed (x : Board) : (s.setBoard x).scrubbed = s.scrubbed := rfl
@[simp] theorem setBoard_tick (x : Board) : (s.setBoard x).tick = s.tick := rfl
@[simp] theorem setBoard_engines (x : Board) : (s.setBoard x).engines = s.engines := rfl
@[simp] theorem setBoard_groups (x : Board) : (s.setBoard x).groups = s.groups := rfl
@[simp] theorem setBoard_chans (x : Board) : (s.setBoard x).chans = s.chans := rfl
@[simp] theorem setBoard_cxl (x : Board) : (s.setBoard x).cxl = s.cxl := rfl
@[simp] theorem setBoard_ports (x : Board) : (s.setBoard x).ports = s.ports := rfl
@[simp] theorem setBoard_les (x : Board) : (s.setBoard x).les = s.les := rfl
@[simp] theorem setBoard_pcie (x : Board) : (s.setBoard x).pcie = s.pcie := rfl
@[simp] theorem setBoard_fabric (x : Board) : (s.setBoard x).fabric = s.fabric := rfl
@[simp] theorem setBoard_ledger (x : Board) : (s.setBoard x).ledger = s.ledger := rfl
@[simp] theorem setBoard_sec (x : Board) : (s.setBoard x).sec = s.sec := rfl
@[simp] theorem setBoard_board (x : Board) : (s.setBoard x).board = x := rfl
@[simp] theorem setBoard_errs (x : Board) : (s.setBoard x).errs = s.errs := rfl
@[simp] theorem setBoard_kram (x : Board) : (s.setBoard x).kram = s.kram := rfl
@[simp] theorem setBoard_cram (x : Board) : (s.setBoard x).cram = s.cram := rfl
@[simp] theorem setBoard_out (x : Board) : (s.setBoard x).out = s.out := rfl
@[simp] theorem setBoard_free (x : Board) : (s.setBoard x).free = s.free := rfl
@[simp] theorem setBoard_pending (x : Board) : (s.setBoard x).pending = s.pending := rfl

@[simp] theorem setSec_regs (x : Sec) : (s.setSec x).regs = s.regs := rfl
@[simp] theorem setSec_keep (x : Sec) : (s.setSec x).keep = s.keep := rfl
@[simp] theorem setSec_kwcnt (x : Sec) : (s.setSec x).kwcnt = s.kwcnt := rfl
@[simp] theorem setSec_keepQ (x : Sec) : (s.setSec x).keepQ = s.keepQ := rfl
@[simp] theorem setSec_entering (x : Sec) : (s.setSec x).entering = s.entering := rfl
@[simp] theorem setSec_ring (x : Sec) : (s.setSec x).ring = s.ring := rfl
@[simp] theorem setSec_aoTime (x : Sec) : (s.setSec x).aoTime = s.aoTime := rfl
@[simp] theorem setSec_rtcAcc (x : Sec) : (s.setSec x).rtcAcc = s.rtcAcc := rfl
@[simp] theorem setSec_holdK (x : Sec) : (s.setSec x).holdK = s.holdK := rfl
@[simp] theorem setSec_holdC (x : Sec) : (s.setSec x).holdC = s.holdC := rfl
@[simp] theorem setSec_threads (x : Sec) : (s.setSec x).threads = s.threads := rfl
@[simp] theorem setSec_cores (x : Sec) : (s.setSec x).cores = s.cores := rfl
@[simp] theorem setSec_llc (x : Sec) : (s.setSec x).llc = s.llc := rfl
@[simp] theorem setSec_dir (x : Sec) : (s.setSec x).dir = s.dir := rfl
@[simp] theorem setSec_dirty (x : Sec) : (s.setSec x).dirty = s.dirty := rfl
@[simp] theorem setSec_cur (x : Sec) : (s.setSec x).cur = s.cur := rfl
@[simp] theorem setSec_nxt (x : Sec) : (s.setSec x).nxt = s.nxt := rfl
@[simp] theorem setSec_wflag (x : Sec) : (s.setSec x).wflag = s.wflag := rfl
@[simp] theorem setSec_curBad (x : Sec) : (s.setSec x).curBad = s.curBad := rfl
@[simp] theorem setSec_was (x : Sec) : (s.setSec x).was = s.was := rfl
@[simp] theorem setSec_wasBad (x : Sec) : (s.setSec x).wasBad = s.wasBad := rfl
@[simp] theorem setSec_scrubbed (x : Sec) : (s.setSec x).scrubbed = s.scrubbed := rfl
@[simp] theorem setSec_tick (x : Sec) : (s.setSec x).tick = s.tick := rfl
@[simp] theorem setSec_engines (x : Sec) : (s.setSec x).engines = s.engines := rfl
@[simp] theorem setSec_groups (x : Sec) : (s.setSec x).groups = s.groups := rfl
@[simp] theorem setSec_chans (x : Sec) : (s.setSec x).chans = s.chans := rfl
@[simp] theorem setSec_cxl (x : Sec) : (s.setSec x).cxl = s.cxl := rfl
@[simp] theorem setSec_ports (x : Sec) : (s.setSec x).ports = s.ports := rfl
@[simp] theorem setSec_les (x : Sec) : (s.setSec x).les = s.les := rfl
@[simp] theorem setSec_pcie (x : Sec) : (s.setSec x).pcie = s.pcie := rfl
@[simp] theorem setSec_fabric (x : Sec) : (s.setSec x).fabric = s.fabric := rfl
@[simp] theorem setSec_ledger (x : Sec) : (s.setSec x).ledger = s.ledger := rfl
@[simp] theorem setSec_sec (x : Sec) : (s.setSec x).sec = x := rfl
@[simp] theorem setSec_board (x : Sec) : (s.setSec x).board = s.board := rfl
@[simp] theorem setSec_errs (x : Sec) : (s.setSec x).errs = s.errs := rfl
@[simp] theorem setSec_kram (x : Sec) : (s.setSec x).kram = s.kram := rfl
@[simp] theorem setSec_cram (x : Sec) : (s.setSec x).cram = s.cram := rfl
@[simp] theorem setSec_out (x : Sec) : (s.setSec x).out = s.out := rfl
@[simp] theorem setSec_free (x : Sec) : (s.setSec x).free = s.free := rfl
@[simp] theorem setSec_pending (x : Sec) : (s.setSec x).pending = s.pending := rfl

@[simp] theorem setFabric_regs (x : Fabric) : (s.setFabric x).regs = s.regs := rfl
@[simp] theorem setFabric_keep (x : Fabric) : (s.setFabric x).keep = s.keep := rfl
@[simp] theorem setFabric_kwcnt (x : Fabric) : (s.setFabric x).kwcnt = s.kwcnt := rfl
@[simp] theorem setFabric_keepQ (x : Fabric) : (s.setFabric x).keepQ = s.keepQ := rfl
@[simp] theorem setFabric_entering (x : Fabric) : (s.setFabric x).entering = s.entering := rfl
@[simp] theorem setFabric_ring (x : Fabric) : (s.setFabric x).ring = s.ring := rfl
@[simp] theorem setFabric_aoTime (x : Fabric) : (s.setFabric x).aoTime = s.aoTime := rfl
@[simp] theorem setFabric_rtcAcc (x : Fabric) : (s.setFabric x).rtcAcc = s.rtcAcc := rfl
@[simp] theorem setFabric_holdK (x : Fabric) : (s.setFabric x).holdK = s.holdK := rfl
@[simp] theorem setFabric_holdC (x : Fabric) : (s.setFabric x).holdC = s.holdC := rfl
@[simp] theorem setFabric_threads (x : Fabric) : (s.setFabric x).threads = s.threads := rfl
@[simp] theorem setFabric_cores (x : Fabric) : (s.setFabric x).cores = s.cores := rfl
@[simp] theorem setFabric_llc (x : Fabric) : (s.setFabric x).llc = s.llc := rfl
@[simp] theorem setFabric_dir (x : Fabric) : (s.setFabric x).dir = s.dir := rfl
@[simp] theorem setFabric_dirty (x : Fabric) : (s.setFabric x).dirty = s.dirty := rfl
@[simp] theorem setFabric_cur (x : Fabric) : (s.setFabric x).cur = s.cur := rfl
@[simp] theorem setFabric_nxt (x : Fabric) : (s.setFabric x).nxt = s.nxt := rfl
@[simp] theorem setFabric_wflag (x : Fabric) : (s.setFabric x).wflag = s.wflag := rfl
@[simp] theorem setFabric_curBad (x : Fabric) : (s.setFabric x).curBad = s.curBad := rfl
@[simp] theorem setFabric_was (x : Fabric) : (s.setFabric x).was = s.was := rfl
@[simp] theorem setFabric_wasBad (x : Fabric) : (s.setFabric x).wasBad = s.wasBad := rfl
@[simp] theorem setFabric_scrubbed (x : Fabric) : (s.setFabric x).scrubbed = s.scrubbed := rfl
@[simp] theorem setFabric_tick (x : Fabric) : (s.setFabric x).tick = s.tick := rfl
@[simp] theorem setFabric_engines (x : Fabric) : (s.setFabric x).engines = s.engines := rfl
@[simp] theorem setFabric_groups (x : Fabric) : (s.setFabric x).groups = s.groups := rfl
@[simp] theorem setFabric_chans (x : Fabric) : (s.setFabric x).chans = s.chans := rfl
@[simp] theorem setFabric_cxl (x : Fabric) : (s.setFabric x).cxl = s.cxl := rfl
@[simp] theorem setFabric_ports (x : Fabric) : (s.setFabric x).ports = s.ports := rfl
@[simp] theorem setFabric_les (x : Fabric) : (s.setFabric x).les = s.les := rfl
@[simp] theorem setFabric_pcie (x : Fabric) : (s.setFabric x).pcie = s.pcie := rfl
@[simp] theorem setFabric_fabric (x : Fabric) : (s.setFabric x).fabric = x := rfl
@[simp] theorem setFabric_ledger (x : Fabric) : (s.setFabric x).ledger = s.ledger := rfl
@[simp] theorem setFabric_sec (x : Fabric) : (s.setFabric x).sec = s.sec := rfl
@[simp] theorem setFabric_board (x : Fabric) : (s.setFabric x).board = s.board := rfl
@[simp] theorem setFabric_errs (x : Fabric) : (s.setFabric x).errs = s.errs := rfl
@[simp] theorem setFabric_kram (x : Fabric) : (s.setFabric x).kram = s.kram := rfl
@[simp] theorem setFabric_cram (x : Fabric) : (s.setFabric x).cram = s.cram := rfl
@[simp] theorem setFabric_out (x : Fabric) : (s.setFabric x).out = s.out := rfl
@[simp] theorem setFabric_free (x : Fabric) : (s.setFabric x).free = s.free := rfl
@[simp] theorem setFabric_pending (x : Fabric) : (s.setFabric x).pending = s.pending := rfl

@[simp] theorem setLedger_regs (x : Ledger) : (s.setLedger x).regs = s.regs := rfl
@[simp] theorem setLedger_keep (x : Ledger) : (s.setLedger x).keep = s.keep := rfl
@[simp] theorem setLedger_kwcnt (x : Ledger) : (s.setLedger x).kwcnt = s.kwcnt := rfl
@[simp] theorem setLedger_keepQ (x : Ledger) : (s.setLedger x).keepQ = s.keepQ := rfl
@[simp] theorem setLedger_entering (x : Ledger) : (s.setLedger x).entering = s.entering := rfl
@[simp] theorem setLedger_ring (x : Ledger) : (s.setLedger x).ring = s.ring := rfl
@[simp] theorem setLedger_aoTime (x : Ledger) : (s.setLedger x).aoTime = s.aoTime := rfl
@[simp] theorem setLedger_rtcAcc (x : Ledger) : (s.setLedger x).rtcAcc = s.rtcAcc := rfl
@[simp] theorem setLedger_holdK (x : Ledger) : (s.setLedger x).holdK = s.holdK := rfl
@[simp] theorem setLedger_holdC (x : Ledger) : (s.setLedger x).holdC = s.holdC := rfl
@[simp] theorem setLedger_threads (x : Ledger) : (s.setLedger x).threads = s.threads := rfl
@[simp] theorem setLedger_cores (x : Ledger) : (s.setLedger x).cores = s.cores := rfl
@[simp] theorem setLedger_llc (x : Ledger) : (s.setLedger x).llc = s.llc := rfl
@[simp] theorem setLedger_dir (x : Ledger) : (s.setLedger x).dir = s.dir := rfl
@[simp] theorem setLedger_dirty (x : Ledger) : (s.setLedger x).dirty = s.dirty := rfl
@[simp] theorem setLedger_cur (x : Ledger) : (s.setLedger x).cur = s.cur := rfl
@[simp] theorem setLedger_nxt (x : Ledger) : (s.setLedger x).nxt = s.nxt := rfl
@[simp] theorem setLedger_wflag (x : Ledger) : (s.setLedger x).wflag = s.wflag := rfl
@[simp] theorem setLedger_curBad (x : Ledger) : (s.setLedger x).curBad = s.curBad := rfl
@[simp] theorem setLedger_was (x : Ledger) : (s.setLedger x).was = s.was := rfl
@[simp] theorem setLedger_wasBad (x : Ledger) : (s.setLedger x).wasBad = s.wasBad := rfl
@[simp] theorem setLedger_scrubbed (x : Ledger) : (s.setLedger x).scrubbed = s.scrubbed := rfl
@[simp] theorem setLedger_tick (x : Ledger) : (s.setLedger x).tick = s.tick := rfl
@[simp] theorem setLedger_engines (x : Ledger) : (s.setLedger x).engines = s.engines := rfl
@[simp] theorem setLedger_groups (x : Ledger) : (s.setLedger x).groups = s.groups := rfl
@[simp] theorem setLedger_chans (x : Ledger) : (s.setLedger x).chans = s.chans := rfl
@[simp] theorem setLedger_cxl (x : Ledger) : (s.setLedger x).cxl = s.cxl := rfl
@[simp] theorem setLedger_ports (x : Ledger) : (s.setLedger x).ports = s.ports := rfl
@[simp] theorem setLedger_les (x : Ledger) : (s.setLedger x).les = s.les := rfl
@[simp] theorem setLedger_pcie (x : Ledger) : (s.setLedger x).pcie = s.pcie := rfl
@[simp] theorem setLedger_fabric (x : Ledger) : (s.setLedger x).fabric = s.fabric := rfl
@[simp] theorem setLedger_ledger (x : Ledger) : (s.setLedger x).ledger = x := rfl
@[simp] theorem setLedger_sec (x : Ledger) : (s.setLedger x).sec = s.sec := rfl
@[simp] theorem setLedger_board (x : Ledger) : (s.setLedger x).board = s.board := rfl
@[simp] theorem setLedger_errs (x : Ledger) : (s.setLedger x).errs = s.errs := rfl
@[simp] theorem setLedger_kram (x : Ledger) : (s.setLedger x).kram = s.kram := rfl
@[simp] theorem setLedger_cram (x : Ledger) : (s.setLedger x).cram = s.cram := rfl
@[simp] theorem setLedger_out (x : Ledger) : (s.setLedger x).out = s.out := rfl
@[simp] theorem setLedger_free (x : Ledger) : (s.setLedger x).free = s.free := rfl
@[simp] theorem setLedger_pending (x : Ledger) : (s.setLedger x).pending = s.pending := rfl

@[simp] theorem emit_regs (o : Out) : (s.emit o).regs = s.regs := rfl
@[simp] theorem emit_keep (o : Out) : (s.emit o).keep = s.keep := rfl
@[simp] theorem emit_kwcnt (o : Out) : (s.emit o).kwcnt = s.kwcnt := rfl
@[simp] theorem emit_keepQ (o : Out) : (s.emit o).keepQ = s.keepQ := rfl
@[simp] theorem emit_entering (o : Out) : (s.emit o).entering = s.entering := rfl
@[simp] theorem emit_ring (o : Out) : (s.emit o).ring = s.ring := rfl
@[simp] theorem emit_aoTime (o : Out) : (s.emit o).aoTime = s.aoTime := rfl
@[simp] theorem emit_rtcAcc (o : Out) : (s.emit o).rtcAcc = s.rtcAcc := rfl
@[simp] theorem emit_holdK (o : Out) : (s.emit o).holdK = s.holdK := rfl
@[simp] theorem emit_holdC (o : Out) : (s.emit o).holdC = s.holdC := rfl
@[simp] theorem emit_threads (o : Out) : (s.emit o).threads = s.threads := rfl
@[simp] theorem emit_cores (o : Out) : (s.emit o).cores = s.cores := rfl
@[simp] theorem emit_llc (o : Out) : (s.emit o).llc = s.llc := rfl
@[simp] theorem emit_dir (o : Out) : (s.emit o).dir = s.dir := rfl
@[simp] theorem emit_dirty (o : Out) : (s.emit o).dirty = s.dirty := rfl
@[simp] theorem emit_cur (o : Out) : (s.emit o).cur = s.cur := rfl
@[simp] theorem emit_nxt (o : Out) : (s.emit o).nxt = s.nxt := rfl
@[simp] theorem emit_wflag (o : Out) : (s.emit o).wflag = s.wflag := rfl
@[simp] theorem emit_curBad (o : Out) : (s.emit o).curBad = s.curBad := rfl
@[simp] theorem emit_was (o : Out) : (s.emit o).was = s.was := rfl
@[simp] theorem emit_wasBad (o : Out) : (s.emit o).wasBad = s.wasBad := rfl
@[simp] theorem emit_scrubbed (o : Out) : (s.emit o).scrubbed = s.scrubbed := rfl
@[simp] theorem emit_tick (o : Out) : (s.emit o).tick = s.tick := rfl
@[simp] theorem emit_engines (o : Out) : (s.emit o).engines = s.engines := rfl
@[simp] theorem emit_groups (o : Out) : (s.emit o).groups = s.groups := rfl
@[simp] theorem emit_chans (o : Out) : (s.emit o).chans = s.chans := rfl
@[simp] theorem emit_cxl (o : Out) : (s.emit o).cxl = s.cxl := rfl
@[simp] theorem emit_ports (o : Out) : (s.emit o).ports = s.ports := rfl
@[simp] theorem emit_les (o : Out) : (s.emit o).les = s.les := rfl
@[simp] theorem emit_pcie (o : Out) : (s.emit o).pcie = s.pcie := rfl
@[simp] theorem emit_fabric (o : Out) : (s.emit o).fabric = s.fabric := rfl
@[simp] theorem emit_ledger (o : Out) : (s.emit o).ledger = s.ledger := rfl
@[simp] theorem emit_sec (o : Out) : (s.emit o).sec = s.sec := rfl
@[simp] theorem emit_board (o : Out) : (s.emit o).board = s.board := rfl
@[simp] theorem emit_errs (o : Out) : (s.emit o).errs = s.errs := rfl
@[simp] theorem emit_kram (o : Out) : (s.emit o).kram = s.kram := rfl
@[simp] theorem emit_cram (o : Out) : (s.emit o).cram = s.cram := rfl
@[simp] theorem emit_out (o : Out) : (s.emit o).out = s.out ++ [o] := rfl
@[simp] theorem emit_free (o : Out) : (s.emit o).free = s.free := rfl
@[simp] theorem emit_pending (o : Out) : (s.emit o).pending = s.pending := rfl

@[simp] theorem wr_regs (r : Reg) (v : Word) (b i : Nat) : (s.wr r v b i).regs = mset s.regs (r.off b i) v (r.reset i) := rfl
@[simp] theorem wr_keep (r : Reg) (v : Word) (b i : Nat) : (s.wr r v b i).keep = s.keep := rfl
@[simp] theorem wr_kwcnt (r : Reg) (v : Word) (b i : Nat) : (s.wr r v b i).kwcnt = s.kwcnt := rfl
@[simp] theorem wr_keepQ (r : Reg) (v : Word) (b i : Nat) : (s.wr r v b i).keepQ = s.keepQ := rfl
@[simp] theorem wr_entering (r : Reg) (v : Word) (b i : Nat) : (s.wr r v b i).entering = s.entering := rfl
@[simp] theorem wr_ring (r : Reg) (v : Word) (b i : Nat) : (s.wr r v b i).ring = s.ring := rfl
@[simp] theorem wr_aoTime (r : Reg) (v : Word) (b i : Nat) : (s.wr r v b i).aoTime = s.aoTime := rfl
@[simp] theorem wr_rtcAcc (r : Reg) (v : Word) (b i : Nat) : (s.wr r v b i).rtcAcc = s.rtcAcc := rfl
@[simp] theorem wr_holdK (r : Reg) (v : Word) (b i : Nat) : (s.wr r v b i).holdK = s.holdK := rfl
@[simp] theorem wr_holdC (r : Reg) (v : Word) (b i : Nat) : (s.wr r v b i).holdC = s.holdC := rfl
@[simp] theorem wr_threads (r : Reg) (v : Word) (b i : Nat) : (s.wr r v b i).threads = s.threads := rfl
@[simp] theorem wr_cores (r : Reg) (v : Word) (b i : Nat) : (s.wr r v b i).cores = s.cores := rfl
@[simp] theorem wr_llc (r : Reg) (v : Word) (b i : Nat) : (s.wr r v b i).llc = s.llc := rfl
@[simp] theorem wr_dir (r : Reg) (v : Word) (b i : Nat) : (s.wr r v b i).dir = s.dir := rfl
@[simp] theorem wr_dirty (r : Reg) (v : Word) (b i : Nat) : (s.wr r v b i).dirty = s.dirty := rfl
@[simp] theorem wr_cur (r : Reg) (v : Word) (b i : Nat) : (s.wr r v b i).cur = s.cur := rfl
@[simp] theorem wr_nxt (r : Reg) (v : Word) (b i : Nat) : (s.wr r v b i).nxt = s.nxt := rfl
@[simp] theorem wr_wflag (r : Reg) (v : Word) (b i : Nat) : (s.wr r v b i).wflag = s.wflag := rfl
@[simp] theorem wr_curBad (r : Reg) (v : Word) (b i : Nat) : (s.wr r v b i).curBad = s.curBad := rfl
@[simp] theorem wr_was (r : Reg) (v : Word) (b i : Nat) : (s.wr r v b i).was = s.was := rfl
@[simp] theorem wr_wasBad (r : Reg) (v : Word) (b i : Nat) : (s.wr r v b i).wasBad = s.wasBad := rfl
@[simp] theorem wr_scrubbed (r : Reg) (v : Word) (b i : Nat) : (s.wr r v b i).scrubbed = s.scrubbed := rfl
@[simp] theorem wr_tick (r : Reg) (v : Word) (b i : Nat) : (s.wr r v b i).tick = s.tick := rfl
@[simp] theorem wr_engines (r : Reg) (v : Word) (b i : Nat) : (s.wr r v b i).engines = s.engines := rfl
@[simp] theorem wr_groups (r : Reg) (v : Word) (b i : Nat) : (s.wr r v b i).groups = s.groups := rfl
@[simp] theorem wr_chans (r : Reg) (v : Word) (b i : Nat) : (s.wr r v b i).chans = s.chans := rfl
@[simp] theorem wr_cxl (r : Reg) (v : Word) (b i : Nat) : (s.wr r v b i).cxl = s.cxl := rfl
@[simp] theorem wr_ports (r : Reg) (v : Word) (b i : Nat) : (s.wr r v b i).ports = s.ports := rfl
@[simp] theorem wr_les (r : Reg) (v : Word) (b i : Nat) : (s.wr r v b i).les = s.les := rfl
@[simp] theorem wr_pcie (r : Reg) (v : Word) (b i : Nat) : (s.wr r v b i).pcie = s.pcie := rfl
@[simp] theorem wr_fabric (r : Reg) (v : Word) (b i : Nat) : (s.wr r v b i).fabric = s.fabric := rfl
@[simp] theorem wr_ledger (r : Reg) (v : Word) (b i : Nat) : (s.wr r v b i).ledger = s.ledger := rfl
@[simp] theorem wr_sec (r : Reg) (v : Word) (b i : Nat) : (s.wr r v b i).sec = s.sec := rfl
@[simp] theorem wr_board (r : Reg) (v : Word) (b i : Nat) : (s.wr r v b i).board = s.board := rfl
@[simp] theorem wr_errs (r : Reg) (v : Word) (b i : Nat) : (s.wr r v b i).errs = s.errs := rfl
@[simp] theorem wr_kram (r : Reg) (v : Word) (b i : Nat) : (s.wr r v b i).kram = s.kram := rfl
@[simp] theorem wr_cram (r : Reg) (v : Word) (b i : Nat) : (s.wr r v b i).cram = s.cram := rfl
@[simp] theorem wr_out (r : Reg) (v : Word) (b i : Nat) : (s.wr r v b i).out = s.out := rfl
@[simp] theorem wr_free (r : Reg) (v : Word) (b i : Nat) : (s.wr r v b i).free = s.free := rfl
@[simp] theorem wr_pending (r : Reg) (v : Word) (b i : Nat) : (s.wr r v b i).pending = s.pending := rfl

@[simp] theorem setFld_keep (f : Fld) (v b i : Nat) : (s.setFld f v b i).keep = s.keep := rfl
@[simp] theorem setFld_kwcnt (f : Fld) (v b i : Nat) : (s.setFld f v b i).kwcnt = s.kwcnt := rfl
@[simp] theorem setFld_keepQ (f : Fld) (v b i : Nat) : (s.setFld f v b i).keepQ = s.keepQ := rfl
@[simp] theorem setFld_entering (f : Fld) (v b i : Nat) : (s.setFld f v b i).entering = s.entering := rfl
@[simp] theorem setFld_ring (f : Fld) (v b i : Nat) : (s.setFld f v b i).ring = s.ring := rfl
@[simp] theorem setFld_aoTime (f : Fld) (v b i : Nat) : (s.setFld f v b i).aoTime = s.aoTime := rfl
@[simp] theorem setFld_rtcAcc (f : Fld) (v b i : Nat) : (s.setFld f v b i).rtcAcc = s.rtcAcc := rfl
@[simp] theorem setFld_holdK (f : Fld) (v b i : Nat) : (s.setFld f v b i).holdK = s.holdK := rfl
@[simp] theorem setFld_holdC (f : Fld) (v b i : Nat) : (s.setFld f v b i).holdC = s.holdC := rfl
@[simp] theorem setFld_threads (f : Fld) (v b i : Nat) : (s.setFld f v b i).threads = s.threads := rfl
@[simp] theorem setFld_cores (f : Fld) (v b i : Nat) : (s.setFld f v b i).cores = s.cores := rfl
@[simp] theorem setFld_llc (f : Fld) (v b i : Nat) : (s.setFld f v b i).llc = s.llc := rfl
@[simp] theorem setFld_dir (f : Fld) (v b i : Nat) : (s.setFld f v b i).dir = s.dir := rfl
@[simp] theorem setFld_dirty (f : Fld) (v b i : Nat) : (s.setFld f v b i).dirty = s.dirty := rfl
@[simp] theorem setFld_cur (f : Fld) (v b i : Nat) : (s.setFld f v b i).cur = s.cur := rfl
@[simp] theorem setFld_nxt (f : Fld) (v b i : Nat) : (s.setFld f v b i).nxt = s.nxt := rfl
@[simp] theorem setFld_wflag (f : Fld) (v b i : Nat) : (s.setFld f v b i).wflag = s.wflag := rfl
@[simp] theorem setFld_curBad (f : Fld) (v b i : Nat) : (s.setFld f v b i).curBad = s.curBad := rfl
@[simp] theorem setFld_was (f : Fld) (v b i : Nat) : (s.setFld f v b i).was = s.was := rfl
@[simp] theorem setFld_wasBad (f : Fld) (v b i : Nat) : (s.setFld f v b i).wasBad = s.wasBad := rfl
@[simp] theorem setFld_scrubbed (f : Fld) (v b i : Nat) : (s.setFld f v b i).scrubbed = s.scrubbed := rfl
@[simp] theorem setFld_tick (f : Fld) (v b i : Nat) : (s.setFld f v b i).tick = s.tick := rfl
@[simp] theorem setFld_engines (f : Fld) (v b i : Nat) : (s.setFld f v b i).engines = s.engines := rfl
@[simp] theorem setFld_groups (f : Fld) (v b i : Nat) : (s.setFld f v b i).groups = s.groups := rfl
@[simp] theorem setFld_chans (f : Fld) (v b i : Nat) : (s.setFld f v b i).chans = s.chans := rfl
@[simp] theorem setFld_cxl (f : Fld) (v b i : Nat) : (s.setFld f v b i).cxl = s.cxl := rfl
@[simp] theorem setFld_ports (f : Fld) (v b i : Nat) : (s.setFld f v b i).ports = s.ports := rfl
@[simp] theorem setFld_les (f : Fld) (v b i : Nat) : (s.setFld f v b i).les = s.les := rfl
@[simp] theorem setFld_pcie (f : Fld) (v b i : Nat) : (s.setFld f v b i).pcie = s.pcie := rfl
@[simp] theorem setFld_fabric (f : Fld) (v b i : Nat) : (s.setFld f v b i).fabric = s.fabric := rfl
@[simp] theorem setFld_ledger (f : Fld) (v b i : Nat) : (s.setFld f v b i).ledger = s.ledger := rfl
@[simp] theorem setFld_sec (f : Fld) (v b i : Nat) : (s.setFld f v b i).sec = s.sec := rfl
@[simp] theorem setFld_board (f : Fld) (v b i : Nat) : (s.setFld f v b i).board = s.board := rfl
@[simp] theorem setFld_errs (f : Fld) (v b i : Nat) : (s.setFld f v b i).errs = s.errs := rfl
@[simp] theorem setFld_kram (f : Fld) (v b i : Nat) : (s.setFld f v b i).kram = s.kram := rfl
@[simp] theorem setFld_cram (f : Fld) (v b i : Nat) : (s.setFld f v b i).cram = s.cram := rfl
@[simp] theorem setFld_out (f : Fld) (v b i : Nat) : (s.setFld f v b i).out = s.out := rfl
@[simp] theorem setFld_free (f : Fld) (v b i : Nat) : (s.setFld f v b i).free = s.free := rfl
@[simp] theorem setFld_pending (f : Fld) (v b i : Nat) : (s.setFld f v b i).pending = s.pending := rfl

@[simp] theorem bump_keep (r : Reg) (b i : Nat) : (s.bump r b i).keep = s.keep := rfl
@[simp] theorem bump_kwcnt (r : Reg) (b i : Nat) : (s.bump r b i).kwcnt = s.kwcnt := rfl
@[simp] theorem bump_keepQ (r : Reg) (b i : Nat) : (s.bump r b i).keepQ = s.keepQ := rfl
@[simp] theorem bump_entering (r : Reg) (b i : Nat) : (s.bump r b i).entering = s.entering := rfl
@[simp] theorem bump_ring (r : Reg) (b i : Nat) : (s.bump r b i).ring = s.ring := rfl
@[simp] theorem bump_aoTime (r : Reg) (b i : Nat) : (s.bump r b i).aoTime = s.aoTime := rfl
@[simp] theorem bump_rtcAcc (r : Reg) (b i : Nat) : (s.bump r b i).rtcAcc = s.rtcAcc := rfl
@[simp] theorem bump_holdK (r : Reg) (b i : Nat) : (s.bump r b i).holdK = s.holdK := rfl
@[simp] theorem bump_holdC (r : Reg) (b i : Nat) : (s.bump r b i).holdC = s.holdC := rfl
@[simp] theorem bump_threads (r : Reg) (b i : Nat) : (s.bump r b i).threads = s.threads := rfl
@[simp] theorem bump_cores (r : Reg) (b i : Nat) : (s.bump r b i).cores = s.cores := rfl
@[simp] theorem bump_llc (r : Reg) (b i : Nat) : (s.bump r b i).llc = s.llc := rfl
@[simp] theorem bump_dir (r : Reg) (b i : Nat) : (s.bump r b i).dir = s.dir := rfl
@[simp] theorem bump_dirty (r : Reg) (b i : Nat) : (s.bump r b i).dirty = s.dirty := rfl
@[simp] theorem bump_cur (r : Reg) (b i : Nat) : (s.bump r b i).cur = s.cur := rfl
@[simp] theorem bump_nxt (r : Reg) (b i : Nat) : (s.bump r b i).nxt = s.nxt := rfl
@[simp] theorem bump_wflag (r : Reg) (b i : Nat) : (s.bump r b i).wflag = s.wflag := rfl
@[simp] theorem bump_curBad (r : Reg) (b i : Nat) : (s.bump r b i).curBad = s.curBad := rfl
@[simp] theorem bump_was (r : Reg) (b i : Nat) : (s.bump r b i).was = s.was := rfl
@[simp] theorem bump_wasBad (r : Reg) (b i : Nat) : (s.bump r b i).wasBad = s.wasBad := rfl
@[simp] theorem bump_scrubbed (r : Reg) (b i : Nat) : (s.bump r b i).scrubbed = s.scrubbed := rfl
@[simp] theorem bump_tick (r : Reg) (b i : Nat) : (s.bump r b i).tick = s.tick := rfl
@[simp] theorem bump_engines (r : Reg) (b i : Nat) : (s.bump r b i).engines = s.engines := rfl
@[simp] theorem bump_groups (r : Reg) (b i : Nat) : (s.bump r b i).groups = s.groups := rfl
@[simp] theorem bump_chans (r : Reg) (b i : Nat) : (s.bump r b i).chans = s.chans := rfl
@[simp] theorem bump_cxl (r : Reg) (b i : Nat) : (s.bump r b i).cxl = s.cxl := rfl
@[simp] theorem bump_ports (r : Reg) (b i : Nat) : (s.bump r b i).ports = s.ports := rfl
@[simp] theorem bump_les (r : Reg) (b i : Nat) : (s.bump r b i).les = s.les := rfl
@[simp] theorem bump_pcie (r : Reg) (b i : Nat) : (s.bump r b i).pcie = s.pcie := rfl
@[simp] theorem bump_fabric (r : Reg) (b i : Nat) : (s.bump r b i).fabric = s.fabric := rfl
@[simp] theorem bump_ledger (r : Reg) (b i : Nat) : (s.bump r b i).ledger = s.ledger := rfl
@[simp] theorem bump_sec (r : Reg) (b i : Nat) : (s.bump r b i).sec = s.sec := rfl
@[simp] theorem bump_board (r : Reg) (b i : Nat) : (s.bump r b i).board = s.board := rfl
@[simp] theorem bump_errs (r : Reg) (b i : Nat) : (s.bump r b i).errs = s.errs := rfl
@[simp] theorem bump_kram (r : Reg) (b i : Nat) : (s.bump r b i).kram = s.kram := rfl
@[simp] theorem bump_cram (r : Reg) (b i : Nat) : (s.bump r b i).cram = s.cram := rfl
@[simp] theorem bump_out (r : Reg) (b i : Nat) : (s.bump r b i).out = s.out := rfl
@[simp] theorem bump_free (r : Reg) (b i : Nat) : (s.bump r b i).free = s.free := rfl
@[simp] theorem bump_pending (r : Reg) (b i : Nat) : (s.bump r b i).pending = s.pending := rfl

@[simp] theorem bumpBy_keep (r : Reg) (n b i : Nat) : (s.bumpBy r n b i).keep = s.keep := rfl
@[simp] theorem bumpBy_kwcnt (r : Reg) (n b i : Nat) : (s.bumpBy r n b i).kwcnt = s.kwcnt := rfl
@[simp] theorem bumpBy_keepQ (r : Reg) (n b i : Nat) : (s.bumpBy r n b i).keepQ = s.keepQ := rfl
@[simp] theorem bumpBy_entering (r : Reg) (n b i : Nat) : (s.bumpBy r n b i).entering = s.entering := rfl
@[simp] theorem bumpBy_ring (r : Reg) (n b i : Nat) : (s.bumpBy r n b i).ring = s.ring := rfl
@[simp] theorem bumpBy_aoTime (r : Reg) (n b i : Nat) : (s.bumpBy r n b i).aoTime = s.aoTime := rfl
@[simp] theorem bumpBy_rtcAcc (r : Reg) (n b i : Nat) : (s.bumpBy r n b i).rtcAcc = s.rtcAcc := rfl
@[simp] theorem bumpBy_holdK (r : Reg) (n b i : Nat) : (s.bumpBy r n b i).holdK = s.holdK := rfl
@[simp] theorem bumpBy_holdC (r : Reg) (n b i : Nat) : (s.bumpBy r n b i).holdC = s.holdC := rfl
@[simp] theorem bumpBy_threads (r : Reg) (n b i : Nat) : (s.bumpBy r n b i).threads = s.threads := rfl
@[simp] theorem bumpBy_cores (r : Reg) (n b i : Nat) : (s.bumpBy r n b i).cores = s.cores := rfl
@[simp] theorem bumpBy_llc (r : Reg) (n b i : Nat) : (s.bumpBy r n b i).llc = s.llc := rfl
@[simp] theorem bumpBy_dir (r : Reg) (n b i : Nat) : (s.bumpBy r n b i).dir = s.dir := rfl
@[simp] theorem bumpBy_dirty (r : Reg) (n b i : Nat) : (s.bumpBy r n b i).dirty = s.dirty := rfl
@[simp] theorem bumpBy_cur (r : Reg) (n b i : Nat) : (s.bumpBy r n b i).cur = s.cur := rfl
@[simp] theorem bumpBy_nxt (r : Reg) (n b i : Nat) : (s.bumpBy r n b i).nxt = s.nxt := rfl
@[simp] theorem bumpBy_wflag (r : Reg) (n b i : Nat) : (s.bumpBy r n b i).wflag = s.wflag := rfl
@[simp] theorem bumpBy_curBad (r : Reg) (n b i : Nat) : (s.bumpBy r n b i).curBad = s.curBad := rfl
@[simp] theorem bumpBy_was (r : Reg) (n b i : Nat) : (s.bumpBy r n b i).was = s.was := rfl
@[simp] theorem bumpBy_wasBad (r : Reg) (n b i : Nat) : (s.bumpBy r n b i).wasBad = s.wasBad := rfl
@[simp] theorem bumpBy_scrubbed (r : Reg) (n b i : Nat) : (s.bumpBy r n b i).scrubbed = s.scrubbed := rfl
@[simp] theorem bumpBy_tick (r : Reg) (n b i : Nat) : (s.bumpBy r n b i).tick = s.tick := rfl
@[simp] theorem bumpBy_engines (r : Reg) (n b i : Nat) : (s.bumpBy r n b i).engines = s.engines := rfl
@[simp] theorem bumpBy_groups (r : Reg) (n b i : Nat) : (s.bumpBy r n b i).groups = s.groups := rfl
@[simp] theorem bumpBy_chans (r : Reg) (n b i : Nat) : (s.bumpBy r n b i).chans = s.chans := rfl
@[simp] theorem bumpBy_cxl (r : Reg) (n b i : Nat) : (s.bumpBy r n b i).cxl = s.cxl := rfl
@[simp] theorem bumpBy_ports (r : Reg) (n b i : Nat) : (s.bumpBy r n b i).ports = s.ports := rfl
@[simp] theorem bumpBy_les (r : Reg) (n b i : Nat) : (s.bumpBy r n b i).les = s.les := rfl
@[simp] theorem bumpBy_pcie (r : Reg) (n b i : Nat) : (s.bumpBy r n b i).pcie = s.pcie := rfl
@[simp] theorem bumpBy_fabric (r : Reg) (n b i : Nat) : (s.bumpBy r n b i).fabric = s.fabric := rfl
@[simp] theorem bumpBy_ledger (r : Reg) (n b i : Nat) : (s.bumpBy r n b i).ledger = s.ledger := rfl
@[simp] theorem bumpBy_sec (r : Reg) (n b i : Nat) : (s.bumpBy r n b i).sec = s.sec := rfl
@[simp] theorem bumpBy_board (r : Reg) (n b i : Nat) : (s.bumpBy r n b i).board = s.board := rfl
@[simp] theorem bumpBy_errs (r : Reg) (n b i : Nat) : (s.bumpBy r n b i).errs = s.errs := rfl
@[simp] theorem bumpBy_kram (r : Reg) (n b i : Nat) : (s.bumpBy r n b i).kram = s.kram := rfl
@[simp] theorem bumpBy_cram (r : Reg) (n b i : Nat) : (s.bumpBy r n b i).cram = s.cram := rfl
@[simp] theorem bumpBy_out (r : Reg) (n b i : Nat) : (s.bumpBy r n b i).out = s.out := rfl
@[simp] theorem bumpBy_free (r : Reg) (n b i : Nat) : (s.bumpBy r n b i).free = s.free := rfl
@[simp] theorem bumpBy_pending (r : Reg) (n b i : Nat) : (s.bumpBy r n b i).pending = s.pending := rfl

@[simp] theorem resetRegs_regs (p : Nat → Bool) : (s.resetRegs p).regs = mkeep s.regs (fun o => !p o) := rfl
@[simp] theorem resetRegs_keep (p : Nat → Bool) : (s.resetRegs p).keep = s.keep := rfl
@[simp] theorem resetRegs_kwcnt (p : Nat → Bool) : (s.resetRegs p).kwcnt = s.kwcnt := rfl
@[simp] theorem resetRegs_keepQ (p : Nat → Bool) : (s.resetRegs p).keepQ = s.keepQ := rfl
@[simp] theorem resetRegs_entering (p : Nat → Bool) : (s.resetRegs p).entering = s.entering := rfl
@[simp] theorem resetRegs_ring (p : Nat → Bool) : (s.resetRegs p).ring = s.ring := rfl
@[simp] theorem resetRegs_aoTime (p : Nat → Bool) : (s.resetRegs p).aoTime = s.aoTime := rfl
@[simp] theorem resetRegs_rtcAcc (p : Nat → Bool) : (s.resetRegs p).rtcAcc = s.rtcAcc := rfl
@[simp] theorem resetRegs_holdK (p : Nat → Bool) : (s.resetRegs p).holdK = s.holdK := rfl
@[simp] theorem resetRegs_holdC (p : Nat → Bool) : (s.resetRegs p).holdC = s.holdC := rfl
@[simp] theorem resetRegs_threads (p : Nat → Bool) : (s.resetRegs p).threads = s.threads := rfl
@[simp] theorem resetRegs_cores (p : Nat → Bool) : (s.resetRegs p).cores = s.cores := rfl
@[simp] theorem resetRegs_llc (p : Nat → Bool) : (s.resetRegs p).llc = s.llc := rfl
@[simp] theorem resetRegs_dir (p : Nat → Bool) : (s.resetRegs p).dir = s.dir := rfl
@[simp] theorem resetRegs_dirty (p : Nat → Bool) : (s.resetRegs p).dirty = s.dirty := rfl
@[simp] theorem resetRegs_cur (p : Nat → Bool) : (s.resetRegs p).cur = s.cur := rfl
@[simp] theorem resetRegs_nxt (p : Nat → Bool) : (s.resetRegs p).nxt = s.nxt := rfl
@[simp] theorem resetRegs_wflag (p : Nat → Bool) : (s.resetRegs p).wflag = s.wflag := rfl
@[simp] theorem resetRegs_curBad (p : Nat → Bool) : (s.resetRegs p).curBad = s.curBad := rfl
@[simp] theorem resetRegs_was (p : Nat → Bool) : (s.resetRegs p).was = s.was := rfl
@[simp] theorem resetRegs_wasBad (p : Nat → Bool) : (s.resetRegs p).wasBad = s.wasBad := rfl
@[simp] theorem resetRegs_scrubbed (p : Nat → Bool) : (s.resetRegs p).scrubbed = s.scrubbed := rfl
@[simp] theorem resetRegs_tick (p : Nat → Bool) : (s.resetRegs p).tick = s.tick := rfl
@[simp] theorem resetRegs_engines (p : Nat → Bool) : (s.resetRegs p).engines = s.engines := rfl
@[simp] theorem resetRegs_groups (p : Nat → Bool) : (s.resetRegs p).groups = s.groups := rfl
@[simp] theorem resetRegs_chans (p : Nat → Bool) : (s.resetRegs p).chans = s.chans := rfl
@[simp] theorem resetRegs_cxl (p : Nat → Bool) : (s.resetRegs p).cxl = s.cxl := rfl
@[simp] theorem resetRegs_ports (p : Nat → Bool) : (s.resetRegs p).ports = s.ports := rfl
@[simp] theorem resetRegs_les (p : Nat → Bool) : (s.resetRegs p).les = s.les := rfl
@[simp] theorem resetRegs_pcie (p : Nat → Bool) : (s.resetRegs p).pcie = s.pcie := rfl
@[simp] theorem resetRegs_fabric (p : Nat → Bool) : (s.resetRegs p).fabric = s.fabric := rfl
@[simp] theorem resetRegs_ledger (p : Nat → Bool) : (s.resetRegs p).ledger = s.ledger := rfl
@[simp] theorem resetRegs_sec (p : Nat → Bool) : (s.resetRegs p).sec = s.sec := rfl
@[simp] theorem resetRegs_board (p : Nat → Bool) : (s.resetRegs p).board = s.board := rfl
@[simp] theorem resetRegs_errs (p : Nat → Bool) : (s.resetRegs p).errs = s.errs := rfl
@[simp] theorem resetRegs_kram (p : Nat → Bool) : (s.resetRegs p).kram = s.kram := rfl
@[simp] theorem resetRegs_cram (p : Nat → Bool) : (s.resetRegs p).cram = s.cram := rfl
@[simp] theorem resetRegs_out (p : Nat → Bool) : (s.resetRegs p).out = s.out := rfl
@[simp] theorem resetRegs_free (p : Nat → Bool) : (s.resetRegs p).free = s.free := rfl
@[simp] theorem resetRegs_pending (p : Nat → Bool) : (s.resetRegs p).pending = s.pending := rfl

@[simp] theorem draw_regs : s.draw.2.regs = s.regs := rfl
@[simp] theorem draw_keep : s.draw.2.keep = s.keep := rfl
@[simp] theorem draw_kwcnt : s.draw.2.kwcnt = s.kwcnt := rfl
@[simp] theorem draw_keepQ : s.draw.2.keepQ = s.keepQ := rfl
@[simp] theorem draw_entering : s.draw.2.entering = s.entering := rfl
@[simp] theorem draw_ring : s.draw.2.ring = s.ring := rfl
@[simp] theorem draw_aoTime : s.draw.2.aoTime = s.aoTime := rfl
@[simp] theorem draw_rtcAcc : s.draw.2.rtcAcc = s.rtcAcc := rfl
@[simp] theorem draw_holdK : s.draw.2.holdK = s.holdK := rfl
@[simp] theorem draw_holdC : s.draw.2.holdC = s.holdC := rfl
@[simp] theorem draw_threads : s.draw.2.threads = s.threads := rfl
@[simp] theorem draw_cores : s.draw.2.cores = s.cores := rfl
@[simp] theorem draw_llc : s.draw.2.llc = s.llc := rfl
@[simp] theorem draw_dir : s.draw.2.dir = s.dir := rfl
@[simp] theorem draw_dirty : s.draw.2.dirty = s.dirty := rfl
@[simp] theorem draw_cur : s.draw.2.cur = s.cur := rfl
@[simp] theorem draw_nxt : s.draw.2.nxt = s.nxt := rfl
@[simp] theorem draw_wflag : s.draw.2.wflag = s.wflag := rfl
@[simp] theorem draw_curBad : s.draw.2.curBad = s.curBad := rfl
@[simp] theorem draw_was : s.draw.2.was = s.was := rfl
@[simp] theorem draw_wasBad : s.draw.2.wasBad = s.wasBad := rfl
@[simp] theorem draw_scrubbed : s.draw.2.scrubbed = s.scrubbed := rfl
@[simp] theorem draw_tick : s.draw.2.tick = s.tick := rfl
@[simp] theorem draw_engines : s.draw.2.engines = s.engines := rfl
@[simp] theorem draw_groups : s.draw.2.groups = s.groups := rfl
@[simp] theorem draw_chans : s.draw.2.chans = s.chans := rfl
@[simp] theorem draw_cxl : s.draw.2.cxl = s.cxl := rfl
@[simp] theorem draw_ports : s.draw.2.ports = s.ports := rfl
@[simp] theorem draw_les : s.draw.2.les = s.les := rfl
@[simp] theorem draw_pcie : s.draw.2.pcie = s.pcie := rfl
@[simp] theorem draw_fabric : s.draw.2.fabric = s.fabric := rfl
@[simp] theorem draw_ledger : s.draw.2.ledger = s.ledger := rfl
@[simp] theorem draw_sec : s.draw.2.sec = s.sec := rfl
@[simp] theorem draw_board : s.draw.2.board = s.board := rfl
@[simp] theorem draw_errs : s.draw.2.errs = s.errs := rfl
@[simp] theorem draw_kram : s.draw.2.kram = s.kram := rfl
@[simp] theorem draw_cram : s.draw.2.cram = s.cram := rfl
@[simp] theorem draw_out : s.draw.2.out = s.out := rfl
@[simp] theorem draw_pending : s.draw.2.pending = s.pending := rfl
@[simp] theorem draw_free : s.draw.2.free = s.free + 1 := rfl

end Sys2Proof.Laws
end

