-- ==== Sys2Proof/Laws/Blocks.lean ====
section
/-! SUPPORT. Blocks and threads that are read after one of them was set. -/
set_option Elab.async false

namespace Sys2Proof.Laws

open Sys2Proof.Machine

variable (s : State)

@[simp] theorem thread_setThread_self (i : Nat) (x : Thread) : (s.setThread i x).thread i = x := by
  simp [State.thread, State.setThread]

theorem thread_setThread_ne (i j : Nat) (x : Thread) (h : j ≠ i) : (s.setThread i x).thread j = s.thread j := by
  simp [State.thread, State.setThread, mgetD_mput_ne _ _ _ h]

@[simp] theorem core_setCore_self (i : Nat) (x : Core) : (s.setCore i x).core i = x := by
  simp [State.core, State.setCore]

theorem core_setCore_ne (i j : Nat) (x : Core) (h : j ≠ i) : (s.setCore i x).core j = s.core j := by
  simp [State.core, State.setCore, mgetD_mput_ne _ _ _ h]

@[simp] theorem engine_setEngine_self (i : Nat) (x : Engine) : (s.setEngine i x).engine i = x := by
  simp [State.engine, State.setEngine]

theorem engine_setEngine_ne (i j : Nat) (x : Engine) (h : j ≠ i) : (s.setEngine i x).engine j = s.engine j := by
  simp [State.engine, State.setEngine, mgetD_mput_ne _ _ _ h]

@[simp] theorem group_setGroup_self (i : Nat) (x : Group) : (s.setGroup i x).group i = x := by
  simp [State.group, State.setGroup]

theorem group_setGroup_ne (i j : Nat) (x : Group) (h : j ≠ i) : (s.setGroup i x).group j = s.group j := by
  simp [State.group, State.setGroup, mgetD_mput_ne _ _ _ h]

@[simp] theorem chan_setChan_self (i : Nat) (x : Chan) : (s.setChan i x).chan i = x := by
  simp [State.chan, State.setChan]

theorem chan_setChan_ne (i j : Nat) (x : Chan) (h : j ≠ i) : (s.setChan i x).chan j = s.chan j := by
  simp [State.chan, State.setChan, mgetD_mput_ne _ _ _ h]

@[simp] theorem port_setPort_self (i : Nat) (x : Port) : (s.setPort i x).port i = x := by
  simp [State.port, State.setPort]

theorem port_setPort_ne (i j : Nat) (x : Port) (h : j ≠ i) : (s.setPort i x).port j = s.port j := by
  simp [State.port, State.setPort, mgetD_mput_ne _ _ _ h]

@[simp] theorem le_setLe_self (i : Nat) (x : LinkEng) : (s.setLe i x).le i = x := by
  simp [State.le, State.setLe]

theorem le_setLe_ne (i j : Nat) (x : LinkEng) (h : j ≠ i) : (s.setLe i x).le j = s.le j := by
  simp [State.le, State.setLe, mgetD_mput_ne _ _ _ h]

@[simp] theorem link_setLink_self (i : Nat) (x : PcieLink) : (s.setLink i x).link i = x := by
  simp [State.link, State.setLink]

theorem link_setLink_ne (i j : Nat) (x : PcieLink) (h : j ≠ i) : (s.setLink i x).link j = s.link j := by
  simp [State.link, State.setLink, mgetD_mput_ne _ _ _ h]

theorem thread_of {s s' : State} (h : s.threads = s'.threads) (i : Nat) : s.thread i = s'.thread i := by
  simp [State.thread, h]

theorem core_of {s s' : State} (h : s.cores = s'.cores) (i : Nat) : s.core i = s'.core i := by
  simp [State.core, h]

theorem engine_of {s s' : State} (h : s.engines = s'.engines) (i : Nat) : s.engine i = s'.engine i := by
  simp [State.engine, h]

theorem group_of {s s' : State} (h : s.groups = s'.groups) (i : Nat) : s.group i = s'.group i := by
  simp [State.group, h]

theorem chan_of {s s' : State} (h : s.chans = s'.chans) (i : Nat) : s.chan i = s'.chan i := by
  simp [State.chan, h]

theorem port_of {s s' : State} (h : s.ports = s'.ports) (i : Nat) : s.port i = s'.port i := by
  simp [State.port, h]

theorem le_of {s s' : State} (h : s.les = s'.les) (i : Nat) : s.le i = s'.le i := by
  simp [State.le, h]

theorem link_of {s s' : State} (h : s.pcie = s'.pcie) (i : Nat) : s.link i = s'.link i := by
  simp [State.link, h]

end Sys2Proof.Laws
end

