-- ==== Sys2Proof/Laws/Thread.lean ====
section
/-! SUPPORT. What the shared operations on a thread do: its registers and CSRs, the commit of an instruction, and a trap. -/
set_option Elab.async false

namespace Sys2Proof.Laws

open Sys2Proof.Machine Sys2Proof.Safety

/-! ### Registers -/

theorem csrv_setCsr (x : Thread) (n m : Nat) (v : Word) : (x.setCsr n v).csrv m = if m = n then v else x.csrv m := by
  unfold Thread.setCsr Thread.csrv
  by_cases h : m = n
  · subst h; simp
  · simp [h, mgetD_mset_ne _ _ _ _ h]

@[simp] theorem csrv_setCsr_self (x : Thread) (n : Nat) (v : Word) : (x.setCsr n v).csrv n = v := by simp [csrv_setCsr]

theorem csrv_setCsr_ne (x : Thread) (n m : Nat) (v : Word) (h : m ≠ n) : (x.setCsr n v).csrv m = x.csrv m := by
  simp [csrv_setCsr, h]

theorem reg_setReg (x : Thread) (r m : Nat) (v : Word) (y : Bool) :
    (x.setReg r v y).reg m = if m = r ∧ m ≠ 0 then v else x.reg m := by
  unfold Thread.setReg Thread.reg
  by_cases h0 : r = 0
  · subst h0
    by_cases h1 : m = 0 <;> simp [h1]
  · by_cases h1 : m = r
    · subst h1; simp [h0]
    · simp [h0, h1, mgetD_mset_ne _ _ _ _ h1]

theorem bit_set {r m : Nat} (hr : r < 32) (v : BitVec 32) (y : Bool) :
    ((if y then v ||| (1#32 <<< r) else v &&& ~~~(1#32 <<< r)) : BitVec 32).getLsbD m = if m = r then y else v.getLsbD m := by
  have one : (1#32 <<< r : BitVec 32).getLsbD m = decide (m = r) := by
    rw [BitVec.getLsbD_shiftLeft, BitVec.getLsbD_one]
    by_cases h : m = r
    · subst h; simp [hr]
    · by_cases hm : m < r
      · simp [h, hm]
      · have : m - r ≠ 0 := by omega
        simp [h, this]
  by_cases h : m = r
  · subst h; cases y <;> simp [hr]
  · cases y <;> simp [one, h]
    exact BitVec.lt_of_getLsbD

theorem regY_setReg (x : Thread) (r : Fin 32) (m : Nat) (v : Word) (y : Bool) :
    (x.setReg r.val v y).regY m = if m = r.val ∧ m ≠ 0 then y else x.regY m := by
  unfold Thread.setReg Thread.regY
  by_cases h0 : r.val = 0
  · simp only [h0, if_true]
    by_cases hm : m = 0 <;> simp [hm]
  · simp only [h0, if_false]
    rw [bit_set r.isLt]
    by_cases hm : m = r.val
    · simp [hm, h0]
    · simp [hm]

/-! ### Activity -/

theorem charge_rest (s : State) (a k n : Nat) (c : Bool) (l : Nat) : { s.charge a k n c l with ledger := s.ledger } = s := by
  unfold State.charge
  simp only []
  split
  · rfl
  · split <;> rfl

/-- Charging a core's activity changes the ledger alone. -/
theorem chargeCore_rest (s : State) (t k n : Nat) : { s.chargeCore t k n with ledger := s.ledger } = s := by
  unfold State.chargeCore
  split <;> exact charge_rest ..

@[simp] theorem chargeCore_thread (s : State) (t k n u : Nat) : (s.chargeCore t k n).thread u = s.thread u :=
  thread_of (congrArg State.threads (chargeCore_rest s t k n)) u

theorem chargeCore_only (s : State) (t k n : Nat) : OnlyThread s (s.chargeCore t k n) t :=
  ⟨fun _ _ => chargeCore_thread .., congrArg (fun z : State => { z with threads := s.threads }) (chargeCore_rest s t k n)⟩

theorem OnlyThread_refl (s : State) (t : Nat) : OnlyThread s s t := ⟨fun _ _ => rfl, rfl⟩

theorem OnlyThread_trans {s s0 s1 : State} {t : Nat} (h : OnlyThread s s0 t) (h' : OnlyThread s0 s1 t) : OnlyThread s s1 t :=
  ⟨fun u hu => (h'.1 u hu).trans (h.1 u hu),
    (congrArg (fun z : State => { z with threads := s.threads, ledger := s.ledger }) h'.2).trans h.2⟩

theorem setThread_only (s : State) (t : Nat) (x : Thread) : OnlyThread s (s.setThread t x) t :=
  ⟨fun u hu => thread_setThread_ne s t u x hu, rfl⟩

/-! ### Uses of the TLB -/

/-- A use of the TLB touches its core alone (R137). -/
theorem tlbUse_eq (s : State) (c : Nat) (u : TlbUse) : s.tlbUse c u = s ∨ ∃ x, s.tlbUse c u = s.setCore c x := by
  unfold State.tlbUse
  dsimp only
  split
  · exact .inl rfl
  · exact .inr ⟨_, rfl⟩

@[simp] theorem tlbUse_ledger (s : State) (l : Ledger) (c : Nat) (u : TlbUse) :
    ({ s with ledger := l } : State).tlbUse c u = { s.tlbUse c u with ledger := l } := by
  unfold State.tlbUse
  have h : ({ s with ledger := l } : State).core c = s.core c := rfl
  rw [h]
  dsimp only
  split <;> rfl

/-- The uses of an instruction, one after the other, change nothing but the cores. -/
theorem uses_rest (c : Nat) (us : List TlbUse) (s : State) :
    { us.foldl (fun s u => s.tlbUse c u) s with cores := s.cores } = s := by
  induction us generalizing s with
  | nil => rfl
  | cons u us ih =>
    have h := ih (s.tlbUse c u)
    have e : { s.tlbUse c u with cores := s.cores } = s := by
      rcases tlbUse_eq s c u with h | ⟨x, h⟩ <;> rw [h]
      rfl
    calc { (u :: us).foldl (fun s u => s.tlbUse c u) s with cores := s.cores }
        = { ({ us.foldl (fun s u => s.tlbUse c u) (s.tlbUse c u) with cores := (s.tlbUse c u).cores } : State) with cores := s.cores } := rfl
      _ = s := by rw [h]; exact e

theorem uses_core (c : Nat) (us : List TlbUse) (s : State) (d : Nat) (h : d ≠ c) :
    (us.foldl (fun s u => s.tlbUse c u) s).core d = s.core d := by
  induction us generalizing s with
  | nil => rfl
  | cons u us ih =>
    rw [List.foldl_cons, ih]
    rcases tlbUse_eq s c u with e | ⟨x, e⟩ <;> rw [e]
    exact core_setCore_ne s c d x h

theorem uses_ledger (c : Nat) (us : List TlbUse) (s : State) (l : Ledger) :
    us.foldl (fun s u => s.tlbUse c u) ({ s with ledger := l } : State) =
      { us.foldl (fun s u => s.tlbUse c u) s with ledger := l } := by
  induction us generalizing s with
  | nil => rfl
  | cons u us ih => rw [List.foldl_cons, tlbUse_ledger, ih]; rfl

/-- The uses of a state that differs in the ledger alone. -/
theorem commitUses_ledger (s : State) (l : Ledger) (t : Nat) :
    ({ s with ledger := l } : State).commitUses t = { s.commitUses t with ledger := l } := by
  unfold State.commitUses
  have h : ({ s with ledger := l } : State).thread t = s.thread t := rfl
  rw [h]
  dsimp only
  rw [uses_ledger]
  rfl

/-- What the commit of its uses makes of a thread. -/
@[simp] theorem commitUses_thread (s : State) (t : Nat) :
    (s.commitUses t).thread t =
      { (if (s.thread t).gone then (s.thread t).setCsr 0x204 ((s.thread t).csrv 0x204 + 1) else s.thread t) with touch := [], gone := false } := by
  simp [State.commitUses]

theorem commitUses_other (s : State) (t u : Nat) (h : u ≠ t) : (s.commitUses t).thread u = s.thread u := by
  unfold State.commitUses
  dsimp only
  rw [thread_setThread_ne _ _ _ _ h]
  exact thread_of (congrArg State.threads (uses_rest ..)) u

/-- They change nothing but the thread and its core. -/
theorem commitUses_rest (s : State) (t : Nat) : { s.commitUses t with threads := s.threads, cores := s.cores } = s := by
  exact congrArg (fun z : State => { z with threads := s.threads }) (uses_rest (coreOf t) (s.thread t).touch s)

/-- The pc, the registers and every CSR but SRLOUT are as the fetch left them. -/
theorem commitUses_pc (s : State) (t : Nat) : ((s.commitUses t).thread t).pc = (s.thread t).pc := by
  rw [commitUses_thread]; dsimp only; split <;> rfl

/-! ### Commit -/

/-- An instruction whose fetch succeeds takes its effect on what the fetch left. -/
theorem insn_commit {s s1 : State} {t : Th} (h : AtCommit s t s1) (f : State → State) : s.insn t.val f = f s1 := by
  obtain ⟨h1, h2, h3⟩ := h
  unfold State.canIssue at h1
  simp only [Bool.and_eq_true, Bool.not_eq_true'] at h1
  simp [State.insn, h1.1, h1.2, h2, h3]

/-- An instruction of a thread that cannot issue and takes no interrupt changes nothing. -/
theorem insn_blocked {s : State} {t : Nat} (h : s.canIssue t = false) (hv : s.nextVec t false = none) (f : State → State) :
    s.insn t f = s := by
  unfold State.canIssue at h
  unfold State.insn
  rw [hv]
  by_cases ha : s.atCommit t = true
  · simp [ha] at h ⊢
    simp [h]
  · simp [ha]

@[simp] theorem retireTo_thread (s : State) (t : Nat) (pc : Word) (f : Thread → Thread) :
    (s.retireTo t pc f).thread t =
      { (f ((fetchedBy s t).thread t)).setCsr 0x201 ((f ((fetchedBy s t).thread t)).csrv 0x201 + 1) with pc := cutTo t pc } := by
  unfold State.retireTo
  dsimp only
  rw [chargeCore_thread, thread_setThread_self]

/-- A commit changes, of what the fetch and its use of the TLB left, its thread and the ledger's count of activity alone. -/
theorem retireTo_only (s : State) (t : Nat) (pc : Word) (f : Thread → Thread) : OnlyThread (fetchedBy s t) (s.retireTo t pc f) t :=
  OnlyThread_trans (setThread_only (fetchedBy s t) t _) (chargeCore_only _ t 0 1)

/-- What a commit leaves, for an effect on the registers alone. -/
theorem retireTo_committed (s : State) (t : Nat) (pc : Word) (f : Thread → Thread) (l : List Nat)
    (h201 : ∀ x, (f x).csrv 0x201 = x.csrv 0x201) (hl : ∀ x n, n ≠ 0x201 → n ∉ l → (f x).csrv n = x.csrv n)
    (h : ∀ x : Thread, { f x with g := x.g, gy := x.gy, f := x.f, fy := x.fy, csr := x.csr, pc := x.pc, hist := x.hist, ras := x.ras } = x) :
    CommittedAt (fetchedBy s t) (s.retireTo t pc f) t pc l := by
  unfold CommittedAt
  rw [retireTo_thread]
  refine ⟨rfl, ?_, ?_, h _⟩
  · have : ∀ y : Thread, ({ y.setCsr 0x201 (y.csrv 0x201 + 1) with pc := cutTo t pc } : Thread).csrv 0x201 = y.csrv 0x201 + 1 := fun y => csrv_setCsr_self ..
    rw [this, h201]
  · intro n hn hm
    have : ∀ y : Thread, ({ y.setCsr 0x201 (y.csrv 0x201 + 1) with pc := cutTo t pc } : Thread).csrv n = y.csrv n := fun y => csrv_setCsr_ne _ _ _ _ hn
    rw [this, hl _ n hn hm]

theorem setReg_csrv (x : Thread) (r n : Nat) (v : Word) (y : Bool) : (x.setReg r v y).csrv n = x.csrv n := by
  unfold Thread.setReg Thread.csrv
  split <;> rfl

/-- An instruction that commits with a value in a register, having charged activity to the ledger. -/
theorem writesReg_of {i : Instr} {s s1 : State} (t : Th) (rd : R5) (v : Word) (y : Bool) (l : Ledger)
    (h : exec i s = .next (({ s1 with ledger := l } : State).retire t.val (fun x => x.setReg rd.val v y))) :
    WritesReg i s s1 t.val rd.val v y := by
  have hb : ∀ z : State, z.commitUses t.val = fetchedBy z t.val := fun _ => rfl
  have e := commitUses_ledger s1 l t.val
  have hpc : (({ s1 with ledger := l } : State).thread t.val).pc = ((fetchedBy s1 t.val).thread t.val).pc := (commitUses_pc s1 t.val).symm
  have ht : (fetchedBy ({ s1 with ledger := l } : State) t.val).thread t.val = (fetchedBy s1 t.val).thread t.val := by
    show (State.commitUses _ _).thread _ = _
    rw [e]
    rfl
  have c := retireTo_committed ({ s1 with ledger := l } : State) t.val (((fetchedBy s1 t.val).thread t.val).pc + 4)
    (fun x => x.setReg rd.val v y) [] (fun _ => setReg_csrv ..) (fun _ _ _ _ => setReg_csrv ..)
    (fun x => by unfold Thread.setReg; split <;> rfl)
  have o := retireTo_only ({ s1 with ledger := l } : State) t.val (((fetchedBy s1 t.val).thread t.val).pc + 4) (fun x => x.setReg rd.val v y)
  unfold State.retire at h
  rw [hpc] at h
  refine ⟨_, h, ?_, ?_, ?_, ?_⟩
  · intro r
    rw [retireTo_thread, ht]
    exact ⟨reg_setReg .., regY_setReg ..⟩
  · unfold CommittedAt at c ⊢
    rw [ht] at c
    exact c
  · unfold SameFp
    rw [retireTo_thread, ht]
    unfold Thread.setReg Thread.setCsr
    split <;> exact ⟨rfl, rfl, rfl, rfl⟩
  · refine OnlyThread_trans (s0 := fetchedBy ({ s1 with ledger := l } : State) t.val) ?_ o
    show OnlyThread _ (State.commitUses _ _) _
    rw [e]
    exact ⟨fun _ _ => rfl, rfl⟩

end Sys2Proof.Laws
end

