-- ==== Sys2Proof/Laws/Trap.lean ====
section
/-! SUPPORT. What taking a synchronous trap does, said once for every instruction that traps. -/
set_option Elab.async false

namespace Sys2Proof.Laws

open Sys2Proof.Machine Sys2Proof.Safety

/-- The status word of a frame holds privilege, IE and IPRIO (R96). -/
theorem frameStatus (p ie pr : Nat) (hp : p < 4) (hi : ie < 2) (hr : pr < 16) :
    getBits (BitVec.ofNat 64 (p + ie * 4 + pr * 256)) 1 0 = p ∧ getBits (BitVec.ofNat 64 (p + ie * 4 + pr * 256)) 2 2 = ie ∧
      getBits (BitVec.ofNat 64 (p + ie * 4 + pr * 256)) 11 8 = pr := by
  have h : (BitVec.ofNat 64 (p + ie * 4 + pr * 256)).toNat = p + ie * 4 + pr * 256 := by
    rw [BitVec.toNat_ofNat]; apply Nat.mod_eq_of_lt; omega
  unfold getBits
  rw [h]
  refine ⟨?_, ?_, ?_⟩ <;> simp <;> omega

theorem bitOf_getBits (w : Word) (i : Nat) : bitOf w i = decide (getBits w i i = 1) := by
  unfold bitOf getBits
  rw [← BitVec.testBit_toNat, Nat.testBit_eq_decide_div_mod_eq]
  simp

theorem code_lt (p : Priv) : p.code < 4 := by cases p <;> decide

theorem b2n_lt (b : Bool) : b2n b < 2 := by cases b <;> decide

theorem setBits_ie (w : Word) : bitOf (setBits w 1 0 2) 0 = false ∧ bitOf (setBits w 1 0 2) 1 = true := by
  constructor <;> rw [bitOf_setBits _ _ _ _ _ (by decide)] <;> simp <;> decide

/-- The status word that a frame saves. -/
def savedStatus (x : Thread) (b : Nat) : Word :=
  BitVec.ofNat 64 (x.priv.code + b2n (bitOf (x.csrv b) 0) * 4 + getBits (x.csrv 0x420) 3 0 * 256)

/-- Every CSR after a level is entered (R96, R147). -/
theorem enterLevel_csrv (x : Thread) (h : Bool) (cause inst addr info : Word) (n : Nat) :
    (x.enterLevel h cause inst addr info).csrv n =
      if h = false ∧ n = 0x434 then (if bitOf (x.csrv 0x434) 0 then 2 else 0)
      else if n = lvlBase h then setBits (x.csrv (lvlBase h)) 1 0 2
      else if n = lvlBase h + 0x15 then info
      else if n = lvlBase h + 0x14 then savedStatus x (lvlBase h)
      else if n = lvlBase h + 0x13 then addr
      else if n = lvlBase h + 0x12 then inst
      else if n = lvlBase h + 0x11 then cause
      else if n = lvlBase h + 0x10 then x.pc
      else x.csrv n := by
  have strip : ∀ (y : Thread) (p : Priv), ({ y with priv := p, resv := none, hold := false } : Thread).csrv n = y.csrv n := fun _ _ => rfl
  unfold Thread.enterLevel savedStatus
  rw [strip]
  cases h
  · simp only [Bool.false_eq_true, if_false, csrv_setCsr, true_and]
    have : ∀ k, k < 0x20 → (0x434 : Nat) ≠ lvlBase false + k := by intro k hk; simp [lvlBase]; omega
    simp [lvlBase]
  · simp only [if_true, csrv_setCsr, Bool.true_eq_false, false_and, if_false]

@[simp] theorem setCsr_g (x : Thread) (n : Nat) (v : Word) : (x.setCsr n v).g = x.g := rfl
@[simp] theorem setCsr_gy (x : Thread) (n : Nat) (v : Word) : (x.setCsr n v).gy = x.gy := rfl
@[simp] theorem setCsr_f (x : Thread) (n : Nat) (v : Word) : (x.setCsr n v).f = x.f := rfl
@[simp] theorem setCsr_fy (x : Thread) (n : Nat) (v : Word) : (x.setCsr n v).fy = x.fy := rfl
@[simp] theorem setCsr_run (x : Thread) (n : Nat) (v : Word) : (x.setCsr n v).run = x.run := rfl
@[simp] theorem setCsr_hist (x : Thread) (n : Nat) (v : Word) : (x.setCsr n v).hist = x.hist := rfl
@[simp] theorem setCsr_ras (x : Thread) (n : Nat) (v : Word) : (x.setCsr n v).ras = x.ras := rfl

/-- Entering a level leaves every register of the thread but its CSRs, privilege, reservation and hold. -/
theorem enterLevel_rest (x : Thread) (h : Bool) (cause inst addr info : Word) :
    (x.enterLevel h cause inst addr info).g = x.g ∧ (x.enterLevel h cause inst addr info).gy = x.gy ∧
      (x.enterLevel h cause inst addr info).f = x.f ∧ (x.enterLevel h cause inst addr info).fy = x.fy ∧
      (x.enterLevel h cause inst addr info).run = x.run ∧ (x.enterLevel h cause inst addr info).hist = x.hist ∧
      (x.enterLevel h cause inst addr info).ras = x.ras ∧ (x.enterLevel h cause inst addr info).resv = none ∧
      (x.enterLevel h cause inst addr info).priv = (if h then Priv.h else Priv.s) := by
  unfold Thread.enterLevel
  cases h <;> simp

/-- A thread that has entered a level and goes on at pc is as EntersLevel says. -/
theorem entersLevel_of (s : State) (t : Nat) (h : Bool) (cause inst addr info pc : Word) :
    EntersLevel s (s.setThread t { (s.thread t).enterLevel h cause inst addr info with pc := cutTo t pc }) t h cause inst addr info
      pc [] := by
  obtain ⟨r1, r2, r3, r4, r5, r6, r7, r8, r9⟩ := enterLevel_rest (s.thread t) h cause inst addr info
  have hs := frameStatus (s.thread t).priv.code (b2n (bitOf ((s.thread t).csrv (lvlBase h)) 0)) (getBits ((s.thread t).csrv 0x420) 3 0)
    (code_lt _) (b2n_lt _) (getBits_lt _ 3 0)
  have hb := setBits_ie ((s.thread t).csrv (lvlBase h))
  have c := enterLevel_csrv (s.thread t) h cause inst addr info
  have hie : bitOf (savedStatus (s.thread t) (lvlBase h)) 2 = bitOf ((s.thread t).csrv (lvlBase h)) 0 := by
    rw [bitOf_getBits, savedStatus, hs.2.1]
    cases bitOf ((s.thread t).csrv (lvlBase h)) 0 <;> rfl
  have base : (if h = true then 0x800 else 0x400) = lvlBase h := rfl
  unfold EntersLevel
  rw [thread_setThread_self]
  dsimp only
  rw [base]
  have e : ∀ n, ({ (s.thread t).enterLevel h cause inst addr info with pc := cutTo t pc } : Thread).csrv n =
      ((s.thread t).enterLevel h cause inst addr info).csrv n := fun _ => rfl
  simp only [e]
  refine ⟨?_, ?_, ?_, ?_, ?_, ?_, ?_, ?_, ?_, ?_, trivial, r9, r8, ?_, r1, r2, r3, r4, r5, r6, r7⟩
  · rw [c]; cases h <;> rfl
  · rw [c]; cases h <;> rfl
  · rw [c]; cases h <;> rfl
  · rw [c]; cases h <;> rfl
  · rw [c]; cases h <;> rfl
  · have : ((s.thread t).enterLevel h cause inst addr info).csrv (lvlBase h + 0x14) = savedStatus (s.thread t) (lvlBase h) := by
      rw [c]; cases h <;> rfl
    rw [this]; exact hs.1
  · have : ((s.thread t).enterLevel h cause inst addr info).csrv (lvlBase h + 0x14) = savedStatus (s.thread t) (lvlBase h) := by
      rw [c]; cases h <;> rfl
    rw [this]; exact hie
  · have : ((s.thread t).enterLevel h cause inst addr info).csrv (lvlBase h + 0x14) = savedStatus (s.thread t) (lvlBase h) := by
      rw [c]; cases h <;> rfl
    rw [this]; exact hs.2.2
  · have : ((s.thread t).enterLevel h cause inst addr info).csrv (lvlBase h) = setBits ((s.thread t).csrv (lvlBase h)) 1 0 2 := by
      rw [c]; cases h <;> rfl
    rw [this]; exact hb.1
  · have : ((s.thread t).enterLevel h cause inst addr info).csrv (lvlBase h) = setBits ((s.thread t).csrv (lvlBase h)) 1 0 2 := by
      rw [c]; cases h <;> rfl
    rw [this]; exact hb.2
  · intro n hn _
    simp only [List.mem_cons, List.not_mem_nil, or_false, not_or] at hn
    obtain ⟨h1, h2, h3, h4, h5, h6, h7, h8⟩ := hn
    rw [c]
    simp only [h1, h2, h3, h4, h5, h6, h7, h8, and_false, if_false]

/-! ### Squashed wrong paths (R108, R111) -/

/-- What the entries of the fill buffer that go leave of a core, and of the thread whose they were. -/
theorem dropAhead_only (s : State) (t : Nat) :
    (∀ u, u ≠ t → (s.dropAhead t).thread u = s.thread u) ∧ (s.dropAhead t).thread t = { s.thread t with ahead := [] } ∧
    { s.dropAhead t with threads := s.threads, cores := s.cores } = s ∧
    (∀ c, { (s.dropAhead t).core c with fillBuf := (s.core c).fillBuf } = s.core c) ∧
    (∀ c, c ≠ coreOf t → (s.dropAhead t).core c = s.core c) := by
  unfold State.dropAhead
  refine ⟨fun u hu => thread_setThread_ne _ _ _ _ hu, by simp, rfl, fun c => ?_, fun c hc => ?_⟩
  · have e : ∀ (z : State) (y : Thread), (z.setThread t y).core c = z.core c := fun _ _ => rfl
    dsimp only
    rw [e]
    by_cases h : c = coreOf t
    · subst h; rw [core_setCore_self]
    · rw [core_setCore_ne _ _ _ _ h]
  · exact core_setCore_ne _ _ _ _ hc

theorem chargeCore_cores (s : State) (t k n : Nat) : (s.chargeCore t k n).cores = s.cores := by
  unfold State.chargeCore State.charge
  dsimp only
  repeat' split
  all_goals rfl

/-- What a squash does: WPATH and the loads that ran ahead are all that changes of the thread, and of the rest the thread's entries of the
fill buffer and the free values. -/
theorem squash_does (s : State) (t : Nat) :
    (∀ n, n ≠ 0x203 → ((s.squash t).thread t).csrv n = (s.thread t).csrv n) ∧
    (∃ m a, (s.squash t).thread t = { s.thread t with csr := m, ahead := a }) ∧
    OnlySquashed s (s.squash t) t := by
  by_cases h : (akz32 t || s.sorrel t) = true
  · have e : s.squash t = s := by unfold State.squash; rw [if_pos h]
    rw [e]
    exact ⟨fun _ _ => rfl, ⟨_, _, rfl⟩, fun _ _ => rfl, rfl, fun _ => rfl, fun _ _ => rfl, fun _ => ⟨rfl, rfl, rfl⟩⟩
  · unfold OnlySquashed
    unfold State.squash
    rw [if_neg h]
    simp only [State.draw]
    generalize hz : (({ s with free := s.free + 1 } : State).setThread t _) = z
    have hz' : ∃ v, z = ({ s with free := s.free + 1 } : State).setThread t ((s.thread t).setCsr 0x203 v) := ⟨_, hz.symm⟩
    clear hz
    obtain ⟨v, rfl⟩ := hz'
    obtain ⟨d1, d2, d3, d4, d5⟩ := dropAhead_only (({ s with free := s.free + 1 } : State).setThread t ((s.thread t).setCsr 0x203 v)) t
    have hth : ∀ (y : State) (k n : Nat) (u : Nat), (y.chargeCore t k n).thread u = y.thread u := fun y k n u => chargeCore_thread y t k n u
    have hcore : ∀ (y : State) (k n : Nat) (c : Nat), (y.chargeCore t k n).core c = y.core c := fun y k n c => core_of (chargeCore_cores ..) c
    rw [hth, hth, d2, thread_setThread_self]
    refine ⟨?_, ⟨_, _, rfl⟩, ?_, ?_, ?_, ?_, ?_⟩
    · intro n hn
      exact csrv_setCsr_ne _ _ _ _ hn
    · intro u hu
      rw [hth, hth, d1 u hu, thread_setThread_ne _ _ _ _ hu]
      rfl
    · have r1 := chargeCore_rest ((({ s with free := s.free + 1 } : State).setThread t ((s.thread t).setCsr 0x203 v)).dropAhead t) t
      have r2 : ∀ (y : State) (k n k' n' : Nat), { (y.chargeCore t k n).chargeCore t k' n' with ledger := y.ledger } = y := by
        intro y k n k' n'
        have e := chargeCore_rest (y.chargeCore t k n) t k' n'
        exact (congrArg (fun w : State => { w with ledger := y.ledger }) e).trans (chargeCore_rest y t k n)
      have r := r2 ((({ s with free := s.free + 1 } : State).setThread t ((s.thread t).setCsr 0x203 v)).dropAhead t)
      have r3 := congrArg (fun w : State => { w with threads := s.threads, cores := s.cores, ledger := s.ledger, free := s.free }) (r 2 ((s.thread t).ahead.length + (s.draw).1.toNat % 512) 3
        ((s.core (coreOf t)).fillBuf.countP (fun e => e.slot == t % 2)))
      have r4 := congrArg (fun w : State => { w with threads := s.threads, cores := s.cores, ledger := s.ledger, free := s.free }) d3
      exact r3.trans r4
    · intro c
      rw [hcore, hcore]
      exact d4 c
    · intro c hc
      rw [hcore, hcore]
      exact d5 c hc
    · intro hs
      exact absurd (by simpa using hs) h

/-- A trap is entered at a level (R94, R96), after the squash of its wrong path. -/
theorem trapAt_traps (s : State) (t : Nat) (h : Bool) (k : Trap) :
    TrapsAt s ((s.squash t).trapAt t h k) t h k.cause k.inst k.addr (BitVec.ofNat 64 k.info) := by
  obtain ⟨q1, q2, q3, q4, q5, q6, q7⟩ := squash_does s t
  have hc : ∀ n, n ≠ 0x203 → ((s.squash t).thread t).csrv n = (s.thread t).csrv n := q1
  obtain ⟨m, a, f⟩ := q2
  have fpc : ((s.squash t).thread t).pc = (s.thread t).pc := by rw [f]
  have fpriv : ((s.squash t).thread t).priv = (s.thread t).priv := by rw [f]
  have fg : ((s.squash t).thread t).g = (s.thread t).g := by rw [f]
  have fgy : ((s.squash t).thread t).gy = (s.thread t).gy := by rw [f]
  have ff : ((s.squash t).thread t).f = (s.thread t).f := by rw [f]
  have ffy : ((s.squash t).thread t).fy = (s.thread t).fy := by rw [f]
  have frun : ((s.squash t).thread t).run = (s.thread t).run := by rw [f]
  have fhist : ((s.squash t).thread t).hist = (s.thread t).hist := by rw [f]
  have fras : ((s.squash t).thread t).ras = (s.thread t).ras := by rw [f]
  have hv : ((s.squash t).thread t).vec h = (s.thread t).csrv (if h then 0x808 else 0x408) := by
    cases h <;> exact hc _ (by decide)
  have e := entersLevel_of (s.squash t) t h (BitVec.ofNat 64 k.cause) (BitVec.ofNat 64 k.inst) k.addr (BitVec.ofNat 64 k.info)
    (((s.squash t).thread t).vec h + BitVec.ofNat 64 (64 * k.cause))
  refine ⟨?_, ?_, ?_, ?_, ?_, ?_⟩
  · rw [← hv]
    have hb : ∀ b, (if h = true then 0x800 else 0x400) = b → b = 0x800 ∨ b = 0x400 := by
      intro b hb; cases h <;> simp at hb <;> omega
    unfold EntersLevel at e ⊢
    dsimp only at e ⊢
    rw [fpc, fpriv, fg, fgy, ff, ffy, frun, fhist, fras] at e
    generalize hB : (if h = true then 0x800 else 0x400) = b at e ⊢
    have := hb b hB
    have hbn : b ≠ 0x203 := by omega
    rw [hc b hbn, hc 0x420 (by decide)] at e
    obtain ⟨e1, e2, e3, e4, e5, e6, e7, e8, e9, e10, e11, e12, e13, e14, e15⟩ := e
    refine ⟨e1, e2, e3, e4, e5, e6, e7, e8, e9, e10, e11, e12, e13, ?_, e15⟩
    intro n hn hm
    have hn3 : n ≠ 0x203 := by simpa using hm
    exact (e14 n hn (by simp)).trans (hc n hn3)
  · intro u hu
    exact (thread_setThread_ne _ _ _ _ hu).trans (q3 u hu)
  · exact q4
  · exact q5
  · exact q6
  · intro hs
    obtain ⟨a, b, c⟩ := q7 hs
    refine ⟨a, b, ?_⟩
    unfold State.trapAt
    rw [thread_setThread_self]
    have := enterLevel_csrv ((s.squash t).thread t) h (BitVec.ofNat 64 k.cause) (BitVec.ofNat 64 k.inst) k.addr (BitVec.ofNat 64 k.info) 0x203
    show ((s.squash t).thread t |>.enterLevel h _ _ _ _).csrv 0x203 = _
    rw [this, ← c]
    cases h <;> simp [lvlBase]

/-- The target level, as a condition and as the model computes it. -/
theorem targetsH_iff (x : Thread) (cause : Nat) : TargetsH x cause ↔ x.toH cause = true := by
  unfold TargetsH Thread.toH
  simp only [List.mem_cons, List.not_mem_nil, or_false, Bool.or_eq_true, decide_eq_true_eq, beq_iff_eq, Bool.not_eq_true']
  constructor
  · rintro (h | (h | h | h | h) | h) <;> simp [h]
  · rintro (((((h | h) | h) | h) | h) | h) <;> simp [h]

/-- A synchronous trap is taken at the level R95 names (R95 to R97). -/
theorem trap_taken (s : State) (t : Nat) (k : Trap) : TrapTaken s (s.trap t k) t k.cause k.inst k.addr (BitVec.ofNat 64 k.info) := by
  obtain ⟨q1, q2, -⟩ := squash_does s t
  have fpriv : ((s.squash t).thread t).priv = (s.thread t).priv := by obtain ⟨_, _, f⟩ := q2; rw [f]
  have hi : ∀ b, ((s.squash t).thread t).intrap b = (s.thread t).intrap b := by
    intro b; cases b <;> simp [Thread.intrap, lvlBase, q1]
  have ht : ∀ c, ((s.squash t).thread t).toH c = (s.thread t).toH c := by
    intro c; simp [Thread.toH, fpriv, q1]
  refine ⟨?_, ?_, ?_, ?_⟩
  · intro h1 h2
    simp only [State.trap, hi, h1, h2, if_true, Bool.false_eq_true, if_false]
    exact trapAt_traps ..
  · intro h1 h2 h3
    rw [targetsH_iff] at h2
    simp only [State.trap, hi, ht, h1, h2, h3, if_true, Bool.false_eq_true, if_false]
    exact trapAt_traps ..
  · intro h1 h2 h3
    rw [targetsH_iff] at h2
    simp only [State.trap, hi, ht, h1, h2, h3, Bool.false_eq_true, if_false]
    exact trapAt_traps ..
  · intro h1 h2 h3 h4
    rw [targetsH_iff] at h2
    simp only [State.trap, hi, ht, h1, h2, h3, h4, Bool.false_eq_true, if_true, if_false]
    exact trapAt_traps s t true { k with cause := 0x10, info := k.cause }

/-- A command whose meaning is a trap on what the fetch left. -/
theorem takesTrap_of {i : Instr} {s s1 : State} {t : Nat} (k : Trap) (h : exec i s = .next (s1.trap t k)) :
    TakesTrap i s s1 t k.cause k.inst k.addr (BitVec.ofNat 64 k.info) := ⟨_, h, trap_taken s1 t k⟩

end Sys2Proof.Laws
end

