-- ==== Sys2Proof/Laws/Errors.lean ====
section
/-! SUPPORT. What register writes, control-access errors, records and the gate of a master's write do, each said once. -/
set_option Elab.async false

namespace Sys2Proof.Laws

open Sys2Proof.Machine Sys2Proof.Safety

/-! ### Registers -/

theorem RegsBut_refl (s : State) (l : List Nat) : RegsBut s s l := fun _ _ => rfl

theorem RegsBut_trans {s s1 s2 : State} {l : List Nat} (h : RegsBut s s1 l) (h' : RegsBut s1 s2 l) : RegsBut s s2 l :=
  fun o ho => (h' o ho).trans (h o ho)

theorem RegsBut_mono {s s' : State} {l l' : List Nat} (h : RegsBut s s' l) (hl : ∀ o ∈ l, o ∈ l') : RegsBut s s' l' :=
  fun o ho => h o (fun hm => ho (hl o hm))

theorem OnlyRegs_refl (s : State) (l : List Nat) : OnlyRegs s s l := ⟨RegsBut_refl s l, rfl⟩

theorem OnlyRegs_trans {s s1 s2 : State} {l : List Nat} (h : OnlyRegs s s1 l) (h' : OnlyRegs s1 s2 l) : OnlyRegs s s2 l :=
  ⟨RegsBut_trans h.1 h'.1, (congrArg (fun z : State => { z with regs := s.regs }) h'.2).trans h.2⟩

theorem OnlyRegs_mono {s s' : State} {l l' : List Nat} (h : OnlyRegs s s' l) (hl : ∀ o ∈ l, o ∈ l') : OnlyRegs s s' l' :=
  ⟨RegsBut_mono h.1 hl, h.2⟩

theorem mget_mset_ne {α : Type} [DecidableEq α] (m : SMap α) {k j : Nat} (v d : α) (h : j ≠ k) : mget (mset m k v d) j = mget m j := by
  unfold mset
  split
  · exact mget_merase_ne m h
  · exact mget_mput_ne m v h

/-- A register write changes that register alone. -/
theorem wr_only (s : State) (r : Reg) (v : Word) (b i : Nat) : OnlyRegs s (s.wr r v b i) [r.off b i] :=
  ⟨fun o ho => mget_mset_ne s.regs v _ (fun h => ho (by simp [h])), rfl⟩

theorem setFld_only (s : State) (f : Fld) (v b i : Nat) : OnlyRegs s (s.setFld f v b i) [f.reg.off b i] := wr_only ..

theorem bump_only (s : State) (r : Reg) (b i : Nat) : OnlyRegs s (s.bump r b i) [r.off b i] := wr_only ..

/-! ### Control-access errors (R428, R439) -/

/-- The places of ERR_CTLACC_LOG's entries are none of the head's or the count's. -/
theorem ctlacc_places (n : Nat) (h : n < 16) :
    Reg.off .ERR_CTLACC_LOG 0 n ≠ Reg.off .ERR_CTLACCHEAD 0 0 ∧ Reg.off .ERR_CTLACC_LOG 0 n ≠ Reg.off .ERR_CTLACCCNT 0 0 ∧
      Reg.off .ERR_CTLACCHEAD 0 0 ≠ Reg.off .ERR_CTLACCCNT 0 0 := by
  revert h; revert n; decide

/-- The word of an entry. -/
theorem ctlacc_word (st cause off fr : Nat) (w : Bool) (hs : st < 128) (hc : cause < 16) :
    let e := BitVec.ofNat 64 (st + b2n w * 2 ^ 7 + cause * 2 ^ 8 + off % 2 ^ 40 * 2 ^ 12 + fr % 2 ^ 12 * 2 ^ 52)
    getBits e 6 0 = st ∧ bitOf e 7 = w ∧ getBits e 11 8 = cause ∧ getBits e 51 12 = off % 2 ^ 40 ∧ getBits e 63 52 = fr % 2 ^ 12 := by
  have hw : b2n w < 2 := b2n_lt w
  have ho : off % 2 ^ 40 < 2 ^ 40 := Nat.mod_lt _ (by decide)
  have hf : fr % 2 ^ 12 < 2 ^ 12 := Nat.mod_lt _ (by decide)
  generalize hO : off % 2 ^ 40 = o at *
  generalize hF : fr % 2 ^ 12 = f at *
  generalize hB : b2n w = b at *
  have hn : (BitVec.ofNat 64 (st + b * 2 ^ 7 + cause * 2 ^ 8 + o * 2 ^ 12 + f * 2 ^ 52)).toNat =
      st + b * 2 ^ 7 + cause * 2 ^ 8 + o * 2 ^ 12 + f * 2 ^ 52 := by
    rw [BitVec.toNat_ofNat]; apply Nat.mod_eq_of_lt; omega
  intro e
  have h7 : getBits e 7 7 = b := by show getBits (BitVec.ofNat 64 _) 7 7 = b; unfold getBits; rw [hn]; omega
  refine ⟨?_, ?_, ?_, ?_, ?_⟩
  · show getBits (BitVec.ofNat 64 _) 6 0 = st; unfold getBits; rw [hn]; omega
  · rw [bitOf_getBits, h7, ← hB]; cases w <;> rfl
  · show getBits (BitVec.ofNat 64 _) 11 8 = cause; unfold getBits; rw [hn]; omega
  · show getBits (BitVec.ofNat 64 _) 51 12 = o; unfold getBits; rw [hn]; omega
  · show getBits (BitVec.ofNat 64 _) 63 52 = f; unfold getBits; rw [hn]; omega

theorem cause_lt (c : CtlCause) : c.code < 16 := by cases c <;> decide

/-- What an error leaves in the log. -/
theorem ctlErrAt_logged (s : State) (stop : Nat) (write : Bool) (c : CtlCause) (off : Nat) (hs : stop < 128) :
    CtlErrorLogged s (s.ctlErrAt stop write c off) stop write c.code off := by
  have hn : s.fld F.ERR_CTLACCHEAD_NEXT < 16 := getBits_lt _ _ _
  obtain ⟨p1, p2, p3⟩ := ctlacc_places _ hn
  obtain ⟨e1, e2, e3, e4, e5⟩ := ctlacc_word stop c.code off s.frame.toNat write hs (cause_lt c)
  unfold CtlErrorLogged State.ctlErrAt
  dsimp only
  have hlog : ∀ (t : State) (v : Nat) (w : Word), (((t.wr .ERR_CTLACC_LOG w 0 (s.fld F.ERR_CTLACCHEAD_NEXT)).setFld F.ERR_CTLACCHEAD_NEXT v).bump
      .ERR_CTLACCCNT).rd .ERR_CTLACC_LOG 0 (s.fld F.ERR_CTLACCHEAD_NEXT) = w := by
    intro t v w
    unfold State.bump State.setFld
    rw [rd_wr_ne _ _ _ _ _ _ _ _ p2, rd_wr_ne _ _ _ _ _ _ _ _ (show _ ≠ F.ERR_CTLACCHEAD_NEXT.reg.off 0 0 from p1), rd_wr_self]
  rw [hlog]
  refine ⟨by rw [e1, Nat.mod_eq_of_lt hs], e2, e3, e4, e5, ?_, ?_, ?_⟩
  · unfold State.bump
    rw [fld_of_regs (s' := (s.wr .ERR_CTLACC_LOG _ 0 (s.fld F.ERR_CTLACCHEAD_NEXT)).setFld F.ERR_CTLACCHEAD_NEXT _ |>.wr .ERR_CTLACCCNT _) rfl]
    unfold State.fld
    rw [rd_wr_ne _ _ _ _ _ _ _ _ (show F.ERR_CTLACCHEAD_NEXT.reg.off 0 0 ≠ Reg.off .ERR_CTLACCCNT 0 0 from p3)]
    have := fld_setFld_self (s.wr .ERR_CTLACC_LOG (BitVec.ofNat 64 (stop + b2n write * 2 ^ 7 + c.code * 2 ^ 8 + off % 2 ^ 40 * 2 ^ 12 +
      s.frame.toNat % 2 ^ 12 * 2 ^ 52)) 0 (s.fld F.ERR_CTLACCHEAD_NEXT)) F.ERR_CTLACCHEAD_NEXT ((s.fld F.ERR_CTLACCHEAD_NEXT + 1) % 16) 0 0 (by decide)
    unfold State.fld at this
    exact this.trans (Nat.mod_eq_of_lt (Nat.mod_lt _ (by decide)))
  · unfold State.bump State.setFld
    rw [rd_wr_self, rd_wr_ne _ _ _ _ _ _ _ _ (show Reg.off .ERR_CTLACCCNT 0 0 ≠ F.ERR_CTLACCHEAD_NEXT.reg.off 0 0 from p3.symm),
      rd_wr_ne _ _ _ _ _ _ _ _ p2.symm]
  · refine OnlyRegs_trans (OnlyRegs_mono (wr_only ..) ?_) (OnlyRegs_trans (OnlyRegs_mono (setFld_only ..) ?_) (OnlyRegs_mono (bump_only ..) ?_))
    · intro o ho; simp only [List.mem_singleton] at ho; simp [ho]
    · intro o ho; simp only [List.mem_singleton] at ho; simp [ho]; exact Or.inr (Or.inl rfl)
    · intro o ho; simp only [List.mem_singleton] at ho; simp [ho]

theorem stopOf_lt (m : Master) : stopOf m < 128 := by
  cases m with
  | thread t => have := t.isLt; simp only [stopOf, coreStop]; split <;> omega
  | stop i => have := i.isLt; simp only [stopOf]; omega
  | _ => decide

/-- A write that is discarded with an error of its master. -/
theorem writeRefused_of {i : Instr} {s : State} (m : Master) (c : CtlCause) (off : Nat) (h : exec i s = .next (s.ctlErr m true c off)) :
    WriteRefused i s m c.code off := ⟨_, h, ctlErrAt_logged s _ true c off (stopOf_lt m)⟩

/-! ### Records (R424, R427) -/

theorem rd_keeperInt (s : State) (v w : Nat) (h : w < 64) :
    bitOf ((s.keeperInt v).rd .KPR_IPEND) w = (decide (w = v) || bitOf (s.rd .KPR_IPEND) w) := by
  unfold State.keeperInt
  rw [rd_wr_self, bitOf_setBit _ _ _ _ h]
  by_cases e : w = v <;> simp [e]

theorem clPlace (b i : Nat) : Reg.off .KPR_IPEND 0 0 ≠ Reg.off .CL_IPEND b i := by
  show 0 + 0x38 + 0 * 8 ≠ 0x1000_0000 + b * 0x0100_0000 + 0x2000 + i * 8
  omega

/-- A takeover changes the interrupt entries in progress alone (R124). -/
theorem takeover_eq (s : State) (t : Nat) : ∃ m, s.takeover t = { s with entering := m } := by
  unfold State.takeover
  repeat' split
  all_goals first | exact ⟨_, rfl⟩ | exact ⟨s.entering, rfl⟩

@[simp] theorem takeover_ring (s : State) (t : Nat) : (s.takeover t).ring = s.ring := by
  obtain ⟨m, e⟩ := takeover_eq s t
  rw [e]

@[simp] theorem takeover_rd (s : State) (t : Nat) (r : Reg) (b i : Nat) : (s.takeover t).rd r b i = s.rd r b i := by
  obtain ⟨m, e⟩ := takeover_eq s t
  rw [e]
  rfl

theorem notify_ring (s : State) (r : Record) : (s.notifyRecord r).ring = s.ring := by
  have h1 : ∀ (z : State) (b i v : Nat), (z.pendVector b i v).ring = z.ring := by
    intro z b i v; unfold State.pendVector; rw [takeover_ring]; rfl
  have h2 : ∀ (z : State) (c : Bool), (if c then z.emit .inBand else z).ring = z.ring := by intro z c; cases c <;> rfl
  unfold State.notifyRecord
  dsimp only
  split <;> split <;> split <;> first | exact h1 .. | rfl

/-- A delivered record has Keeper's vector 3 pending. -/
theorem notify_pending (s : State) (r : Record) : bitOf ((s.notifyRecord r).rd .KPR_IPEND) 3 = true := by
  have h1 : bitOf ((s.keeperInt 3).rd .KPR_IPEND) 3 = true := by rw [rd_keeperInt _ _ _ (by decide)]; rfl
  have h2 : ∀ (z : State) (b i v : Nat), bitOf (z.rd .KPR_IPEND) 3 = true → bitOf ((z.pendVector b i v).rd .KPR_IPEND) 3 = true := by
    intro z b i v hz
    unfold State.pendVector
    rw [takeover_rd, rd_wr_ne _ _ _ _ _ _ _ _ (clPlace _ _)]
    exact hz
  have h3 : ∀ z : State, bitOf (z.rd .KPR_IPEND) 3 = true → bitOf (((z.cadenceInt 2).keeperInt 4).rd .KPR_IPEND) 3 = true := by
    intro z hz
    rw [rd_keeperInt _ _ _ (by decide)]
    unfold State.cadenceInt
    rw [rd_wr_ne _ _ _ _ _ _ _ _ (by decide)]
    simp [hz]
  have h4 : ∀ z : State, bitOf (z.rd .KPR_IPEND) 3 = true → bitOf ((z.emit .inBand).rd .KPR_IPEND) 3 = true := fun z hz => hz
  have k1 : ∀ (c : Bool) (b i v : Nat), bitOf ((if c then (s.keeperInt 3).pendVector b i v else s.keeperInt 3).rd .KPR_IPEND) 3 = true := by
    intro c b i v
    cases c
    · exact h1
    · exact h2 _ b i v h1
  have k2 : ∀ z : State, bitOf (z.rd .KPR_IPEND) 3 = true →
      bitOf ((if r.kind = 0x18 then (z.cadenceInt 2).keeperInt 4 else z).rd .KPR_IPEND) 3 = true := by
    intro z hz
    split
    · exact h3 z hz
    · exact hz
  unfold State.notifyRecord
  dsimp only
  split
  · exact h4 _ (k2 _ (k1 _ _ _ _))
  · exact k2 _ (k1 _ _ _ _)

/-- What an event leaves: its record in the ring, and Keeper's vector. -/
theorem record_records (s : State) (e : Event) : Records s (s.record e) e.kind e.target := by
  refine ⟨notify_pending .., s.mkRecord e, ?_, rfl, rfl, rfl⟩
  show mget (((s.logRecord (s.mkRecord e)).notifyRecord (s.mkRecord e)).ring) _ = _
  rw [notify_ring]
  have : (s.logRecord (s.mkRecord e)).ring = mput s.ring (s.fld F.ERR_LOGHEAD_NEXT) (s.mkRecord e) := by
    unfold State.logRecord
    dsimp only
    split <;> rfl
  rw [this, mget_mput_self]

/-! ### Arrays without errors (R414, R421) -/

/-- A write to an array of a block without errors or injections does nothing more. -/
theorem arrWrite_clean {s : State} (h : ArraysClean s) {t : Nat} (ht : t < 155) (sub i : Nat) : s.arrWrite t sub i = s := by
  obtain ⟨h1, h2⟩ := h
  have e : ({ s with errs := merase s.errs (errKey t sub i) } : State) = s := by
    rw [h1]
    show ({ s with errs := [] } : State) = s
    rw [← h1]
  unfold State.arrWrite
  rw [e]
  simp only [h2 t ht, Bool.false_and, Bool.false_eq_true, if_false]

/-- A read of it finds no wrong bit. -/
theorem arrRead_clean {s : State} (h : s.errs = []) (t sub i : Nat) : s.arrRead t sub i = .clean := by
  unfold State.arrRead
  rw [h]
  rfl

/-- So the part's judgement draws nothing. -/
theorem arrJudge_clean {s : State} (h : s.errs = []) (t sub i : Nat) : s.arrJudge t sub i = (.clean, s) := by
  unfold State.arrJudge
  rw [arrRead_clean h]

/-! ### The gate of a write (R458) -/

/-- A write that its master may make goes through the gate. -/
theorem gate_of {s : State} {m : Master} (h : MayWrite s m) (off : Nat) (f : State → State) : s.gate m off f = f s := by
  obtain ⟨h1, h2⟩ := h
  unfold State.gate
  rw [h1]
  by_cases hm : m = .debug
  · simp [hm, h2 hm]
  · simp [hm]

end Sys2Proof.Laws
end

