-- ==== Sys2Proof/Laws/Memory.lean ====
section
/-! SUPPORT. The canonical form of the addressed memories: reset has it, and each operation that writes one keeps it. -/
set_option Elab.async false

namespace Sys2Proof.Laws

open Sys2Proof.Machine

variable {α : Type}

/-- A memory's canonical form: strictly rising addresses, and no entry that equals what an unlisted address reads as. -/
def memWf [DecidableEq α] (m : SMap α) (d : α) : Prop := mwf m = true ∧ ∀ e ∈ m, e.2 ≠ d

theorem memWf_nil [DecidableEq α] (d : α) : memWf ([] : SMap α) d := ⟨rfl, fun _ h => by cases h⟩

theorem memWf_mset [DecidableEq α] {m : SMap α} {d : α} (h : memWf m d) (k : Nat) (v : α) : memWf (mset m k v d) d :=
  ⟨mwf_mset m k v d h.1, mset_no_default m k v d h.2⟩

theorem memWf_mput [DecidableEq α] {m : SMap α} {d : α} (h : memWf m d) (k : Nat) {v : α} (hv : v ≠ d) : memWf (mput m k v) d :=
  ⟨mwf_mput m k v h.1, fun e he => by
    rcases mem_mput m k v e he with h' | h'
    · rw [h']; exact hv
    · exact h.2 e h'⟩

theorem memWf_merase [DecidableEq α] {m : SMap α} {d : α} (h : memWf m d) (k : Nat) : memWf (merase m k) d :=
  ⟨mwf_merase m k h.1, fun e he => by rw [merase_eq_filter] at he; exact h.2 e (List.mem_filter.1 he).1⟩

/-- The memories of the block in canonical form: the RAM of the pairs, the plan banks, Keep, CXL memory, the superlines of every
channel, the data and program memories of every engine and the control stores of every link engine. -/
structure MemoryOk (s : State) : Prop where
  kram  : memWf s.kram 0
  cram  : memWf s.cram 0
  cur   : memWf s.cur 0
  nxt   : memWf s.nxt 0
  keep  : mwf s.keep = true
  cxl   : mwf s.cxl = true
  sl    : ∀ c, memWf (s.chan c).sl SLine.zero
  dmem  : ∀ e, memWf (s.engine e).dmem ⟨0, false⟩
  progA : ∀ e, memWf (s.engine e).progA ⟨0, false⟩
  progB : ∀ e, memWf (s.engine e).progB ⟨0, false⟩
  bank0 : ∀ n, memWf (s.le n).bank0 ⟨0, 0⟩
  bank1 : ∀ n, memWf (s.le n).bank1 ⟨0, 0⟩

theorem memoryOk_reset : MemoryOk State.reset where
  kram := memWf_nil _
  cram := memWf_nil _
  cur := memWf_nil _
  nxt := memWf_nil _
  keep := rfl
  cxl := rfl
  sl _ := memWf_nil _
  dmem _ := memWf_nil _
  progA _ := memWf_nil _
  progB _ := memWf_nil _
  bank0 _ := memWf_nil _
  bank1 _ := memWf_nil _

/-- The memories depend on these fields alone. -/
theorem memoryOk_of {s s' : State} (h : MemoryOk s) (hk : s'.kram = s.kram) (hc : s'.cram = s.cram) (hu : s'.cur = s.cur)
    (hn : s'.nxt = s.nxt) (hp : s'.keep = s.keep) (hx : s'.cxl = s.cxl) (hs : s'.chans = s.chans) (he : s'.engines = s.engines)
    (hl : s'.les = s.les) : MemoryOk s' where
  kram := hk ▸ h.kram
  cram := hc ▸ h.cram
  cur := hu ▸ h.cur
  nxt := hn ▸ h.nxt
  keep := hp ▸ h.keep
  cxl := hx ▸ h.cxl
  sl c := chan_of hs c ▸ h.sl c
  dmem e := engine_of he e ▸ h.dmem e
  progA e := engine_of he e ▸ h.progA e
  progB e := engine_of he e ▸ h.progB e
  bank0 n := le_of hl n ▸ h.bank0 n
  bank1 n := le_of hl n ▸ h.bank1 n

/-- A write of a superline. -/
theorem putLine_wf {x : Chan} (h : memWf x.sl SLine.zero) (sl : Nat) (l : SLine) : memWf (x.putLine sl l).sl SLine.zero := by
  unfold Chan.putLine
  split
  · exact memWf_merase h sl
  · next hc => exact memWf_mput h sl (fun e => hc (by rw [e]; rfl))

/-- A superline that was stored reads back; every other one is as before. -/
theorem line_putLine (x : Chan) (sl k : Nat) (l : SLine) (h : l.code = 0 → l = SLine.zero) :
    (x.putLine sl l).line k = if k = sl then l else x.line k := by
  unfold Chan.putLine Chan.line
  by_cases hc : l.code = 0
  · rw [if_pos hc]
    by_cases hk : k = sl
    · subst hk; simp [h hc, mgetD]
    · rw [if_neg hk]; unfold mgetD; rw [mget_merase_ne x.sl hk]
  · rw [if_neg hc]
    by_cases hk : k = sl
    · subst hk; simp
    · rw [if_neg hk]; exact mgetD_mput_ne x.sl l _ hk

/-- A write of a microword, and its reading. -/
theorem put_wf {x : LinkEng} (b : Nat) (i : Nat) (w : MicroW) (h0 : memWf x.bank0 ⟨0, 0⟩) (h1 : memWf x.bank1 ⟨0, 0⟩) :
    memWf (x.put b i w).bank0 ⟨0, 0⟩ ∧ memWf (x.put b i w).bank1 ⟨0, 0⟩ := by
  unfold LinkEng.put
  split
  · exact ⟨memWf_mset h0 i w, h1⟩
  · exact ⟨h0, memWf_mset h1 i w⟩

/-- What a write to an array does to an injection touches no memory. -/
theorem arrWrite_memory {s : State} (h : MemoryOk s) (t sub i : Nat) : MemoryOk (s.arrWrite t sub i) := by
  unfold State.arrWrite
  dsimp only
  split <;> exact memoryOk_of h rfl rfl rfl rfl rfl rfl rfl rfl rfl

/-- A write of a 64-bit word of a pair's RAM. -/
theorem ramPut64_memory {s : State} (h : MemoryOk s) (t i v : Nat) : MemoryOk (s.ramPut64 t i v) := by
  unfold State.ramPut64
  refine arrWrite_memory ?_ _ _ _
  unfold State.setRam State.ramWords
  split
  · exact { memoryOk_of h (s' := { s with kram := s.kram }) rfl rfl rfl rfl rfl rfl rfl rfl rfl with
      kram := memWf_mset (memWf_mset h.kram _ _) _ _ }
  · exact { memoryOk_of h (s' := { s with cram := s.cram }) rfl rfl rfl rfl rfl rfl rfl rfl rfl with
      cram := memWf_mset (memWf_mset h.cram _ _) _ _ }

/-- A write of a word of an engine's data memory. -/
theorem dmemWrite_memory {s : State} (h : MemoryOk s) (e i : Nat) (v : Word) (p : Bool) : MemoryOk (s.dmemWrite e i v p) := by
  unfold State.dmemWrite
  refine arrWrite_memory ?_ _ _ _
  have hx := h.dmem e
  have key : ∀ k, (s.setEngine e { s.engine e with dmem := mset (s.engine e).dmem i ⟨v, p⟩ ⟨0, false⟩ }).engine k =
      if k = e then { s.engine e with dmem := mset (s.engine e).dmem i ⟨v, p⟩ ⟨0, false⟩ } else s.engine k := by
    intro k
    by_cases hk : k = e
    · subst hk; simp
    · rw [if_neg hk]; exact engine_setEngine_ne s e k _ hk
  exact { memoryOk_of h (s' := { s with engines := s.engines }) rfl rfl rfl rfl rfl rfl rfl rfl rfl with
    dmem := fun k => by
      rw [key]
      split
      · exact memWf_mset hx _ _
      · exact h.dmem k
    progA := fun k => by
      rw [key]
      split
      · exact h.progA e
      · exact h.progA k
    progB := fun k => by
      rw [key]
      split
      · exact h.progB e
      · exact h.progB k }

end Sys2Proof.Laws
end

