-- ==== Sys2Proof/Machine/Package.lean ====
section
/-! DEFINITION. The supply monitor's table, the pins whose level a register fixes, and the ball map (R468, R476 to R479). No
command depends on them: SUPPLY_FAULT and the alarms report what the monitor decides. -/
namespace Sys2Proof.Machine

/-! ### Supply monitoring (R468) -/

/-- What the supply monitor makes of a deviation. -/
inductive SupplyOutcome where
  | nothing | glitch | fault
deriving DecidableEq, Repr

/-- Rails whose glitches R397 names as source 2: the integrated regulators' outputs among them. -/
def railGlitches (r : Rail) : Bool :=
  match r with
  | .vao => true
  | .vinCore => true
  | .vddq => true
  | .vsdA => false
  | .vsdH => false
  | .vio => false
  | .domain _ => true

/-- The monitor's outcome (R468): whether the level is beyond the operating range, the deviation in thousandths of nominal,
and its duration in units of 0.25 ns. -/
def supplyMonitor (r : Rail) (beyond : Bool) (dev quarters : Nat) : SupplyOutcome :=
  if !beyond || decide (dev ≤ 80) then .nothing
  else if 20 < quarters then .fault
  else if dev ≤ 150 ∨ quarters < 2 then .nothing
  else if railGlitches r then .glitch
  else .nothing

/-! ### Pins (R476, R481) -/

/-- PE_PERST_N of a link is held low while its MODE is 0; otherwise PCI Express drives it (R476). -/
def State.perstHeld (s : State) (k : Nat) : Bool := s.fld F.LE_PCIECFG_MODE (2 * k) == 0

/-- THERMTRIP_N is asserted (R481, R485). -/
def State.thermtrip (s : State) : Bool := s.flag F.KPR_SUPSTAT_TTRIP

/-! ### Ball map (R477 to R479) -/

/-- A ball by its row number, 1 to 96 from the chamfered edge, and its column. -/
structure Ball where
  row : Nat
  col : Nat
deriving DecidableEq, Repr

/-- The letters of the rows: A to Y without I, O, Q, R, S, X and Z (R477). -/
def ballLetters : List String :=
  ["A", "B", "C", "D", "E", "F", "G", "H", "J", "K", "L", "M", "N", "P", "T", "U", "V", "W", "Y"]

/-- The name of a row: one letter for rows 1 to 19, then two. -/
def rowName (n : Nat) : String :=
  let l (i : Nat) : String := (ballLetters[i]?).getD ""
  if n = 0 ∨ 96 < n then ""
  else if n ≤ 19 then l (n - 1)
  else l ((n - 1) / 19 - 1) ++ l ((n - 1) % 19)

/-- The ball of a SerDes signal of a port (R479): its transmit or receive pair, its P or N ball. Rows B, D, F and H, or DY, DV,
DT and DN. -/
def serdesBall (p : Fin 144) (rx neg : Bool) : Ball where
  row :=
    let q := p.val % 72
    if p.val < 72 then (if rx then 6 else 2) + (if q < 36 then 0 else 2)
    else if rx then (if q < 36 then 91 else 89)
    else if q < 36 then 95 else 93
  col := 13 + 2 * (p.val % 36) + (if neg then 1 else 0)

/-- The balls of a memory channel (R479): its first row of nine, and its first column of 24. -/
def channelBalls (c : Fin 16) : Ball := ⟨13 + 9 * (c.val % 8), if c.val < 8 then 1 else 73⟩

/-- The ball counts by group (R478). -/
def ballCounts : List (String × Nat) :=
  [("SerDes", 576), ("DDR-5", 2560), ("Clocks and timing", 34), ("Control and debug", 29), ("Lid mesh", 32), ("VIN_CORE", 1600),
   ("VDDQ", 320), ("VSD_A", 256), ("VSD_H", 128), ("VIO", 40), ("VAO", 8), ("VSS", 3633)]

end Sys2Proof.Machine
end

