-- ==== Sys2Proof/Tests/Slice0.lean ====
section
/-! SUPPORT. Tests: an ill-formed command for each check, and for the statements concrete states that meet their
hypotheses together, clause by clause where a statement has several. Each expected value is the manual's. -/
set_option Elab.async false

namespace Sys2Proof.Tests

open Sys2Proof.Machine Sys2Proof.Safety Sys2Proof.Laws

/-! ### Small states -/

/-- Reset with fields set: field, block, index, value. -/
def fields (l : List (Fld × Nat × Nat × Nat)) : State := l.foldl (fun s e => s.setFld e.1 e.2.2.2 e.2.1 e.2.2.1) State.reset

/-- The next state of a command, or the state it ran on. -/
def after (c : Instr) (s : State) : State := match exec c s with | .next s' => s' | _ => s

/-- Keeper runs at a privilege, its word fetched. -/
def keeperAt (p : Priv) : State :=
  State.reset.setThread 512 { Thread.initial 512 with run := .running, priv := p, pc := 0x10_0000, fetched := [0x10_0000 / 64] }

/-- Cluster 0 is on and its thread 0 runs at H, its word fetched. -/
def core0 : State :=
  (fields [(F.ENL_PWRCTL_STATE, 0, 7, 2)]).setThread 0 { Thread.initial 0 with run := .running, fetched := [0] }

/-- The same with a range of one GiB on channel 0, which is in service
and holds TID 0's key. -/
def coreMem : State :=
  let s := fields [(F.ENL_PWRCTL_STATE, 0, 7, 2), (F.ENL_PWRCTL_STATE, 0, 55, 2), (F.MC_STAT_INSVC, 0, 0, 1), (F.MAP_RCFG_V, 0, 0, 1),
    (F.MAP_RCFG_GRAIN, 0, 0, 12), (F.MAP_RCFG_MASK, 0, 0, 1), (F.MC_CFG_CAPG, 0, 0, 2)]
  (s.setSec { s.sec with slots := [(0, 0)] }).setThread 0 { Thread.initial 0 with run := .running, fetched := [0] }

/-- Thread 0 with other registers. -/
def core0With (f : Thread → Thread) : State := core0.setThread 0 (f (core0.thread 0))

/-- Thread 0 at U or S, its page 0 mapped by an entry of the L2 TLB. -/
def coreBelow (p : Priv) : State :=
  (core0With (fun x => { x with priv := p })).setCore 0 { Core.initial with
    l2tlb := [(tlbKey 12 0, { ways := [(0, ⟨0, 0, if p = .u then 0x3CC else 0x1CC, 0⟩)], bits := 0 })] }

/-! ### Well-formedness: a command that each check refuses, beside one that it passes -/

theorem test_wf_sorrel : Instr.wf (.sorrelRegionLoad .keeper 0 9) = false ∧ Instr.wf (.sorrelRegionLoad .keeper 0 0) = false ∧
    Instr.wf (.sorrelRegionLoad .keeper 0 8) = true ∧ Instr.wf (.sorrelRegionRelease .keeper 0 1) = false := by decide

theorem test_wf_range : Instr.wf (.rangeEnable .keeper 0 0) = false ∧ Instr.wf (.rangeDisable .keeper 0 1) = false ∧
    Instr.wf (.rangeEnable .keeper 0 1) = true := by decide

theorem test_wf_timing : Instr.wf (.armTimingChange .keeper 0) = false ∧ Instr.wf (.armTimingChange .keeper 5) = true := by decide

theorem test_wf_frame : Instr.wf (.ethernetFrameReceive 0 ⟨0, none, true, false, []⟩) = false ∧
    Instr.wf (.ethernetFrameReceive 0 ⟨60, none, true, false, []⟩) = false ∧
    Instr.wf (.ethernetFrameReceive 0 ⟨8, none, true, false, [1]⟩) = true := by decide

/-- A packet whose length its payload does not have, at each command that takes one. -/
theorem test_wf_packets :
    let k : Packet := ⟨1, 2, 3, 0, 1, .write, 0, 0, false, 0x1000, 4, 64, 9, 0, 0, 0, false, true, 0, []⟩
    Instr.wf (.fabricRequestArrival k) = false ∧ Instr.wf (.fabricResponseReceive k) = false ∧
      Instr.wf (.leaseGrantReceive k) = false ∧ Instr.wf (.recallNoticeReceive k) = false ∧ Instr.wf (.drainedReceive k) = false ∧
      Instr.wf (.confirmReceive k) = false ∧ Instr.wf (.fabricRequestArrival { k with len := 0 }) = true := by decide

theorem test_wf_requests :
    let r : FabReq := ⟨.core 0, 2, 0, 1, .write, false, false, 0, 0, 0, [7]⟩
    Instr.wf (.fabricRequestIssue r) = false ∧ Instr.wf (.c0MessageAdmit 0 r) = false ∧
      Instr.wf (.fabricRequestIssue { r with len := 8 }) = true := by decide

theorem test_wf_pcie : Instr.wf (.pcieInboundRequest 0 ⟨0, true, 0, []⟩) = false ∧ Instr.wf (.pcieInboundRequest 0 ⟨0, true, 8, []⟩) = false ∧
    Instr.wf (.pcieInboundRequest 0 ⟨0, false, 4097, []⟩) = false ∧ Instr.wf (.pcieInboundRequest 0 ⟨0, true, 8, [1]⟩) = true := by decide

theorem test_wf_messages :
    let m : MgmtMsg := ⟨1, 1, 3, 0, []⟩
    Instr.wf (.mailboxResponse m 0) = false ∧ Instr.wf (.managementBusMessage true m) = false ∧ Instr.wf (.getVersion m) = false ∧
      Instr.wf (.getBootstat m) = false ∧ Instr.wf (.getRecords m 0 1) = false ∧ Instr.wf (.getVersion { m with len := 0 }) = true := by decide

theorem test_wf_words : Instr.wf (.leave .keeper 2) = false ∧ Instr.wf (.join .keeper 1) = false ∧
    Instr.wf (.armErrorInjection .keeper 0 0) = false ∧ Instr.wf (.restartThread .keeper 0) = false ∧
    Instr.wf (.restartLinkEngine .keeper 0) = false ∧ Instr.wf (.startThread .keeper 0 0) = false ∧
    Instr.wf (.liveRestart .keeper 0) = false ∧ Instr.wf (.leave .keeper 1) = true := by decide

/-! ### The AKZ threads -/

theorem test_step_front : (State.reset.withCommand (.fence 0)).pending = [.fence 0] ∧ State.reset.pending = [] := ⟨rfl, rfl⟩

theorem test_blocked : State.reset.canIssue 0 = false := by decide +kernel

theorem test_commit_keeper (p : Priv) : AtCommit (keeperAt p) 512 (keeperAt p) := by
  cases p <;> exact ⟨by decide +kernel, by decide +kernel, rfl⟩

theorem test_commit_core : AtCommit core0 0 core0 := ⟨by decide +kernel, by decide +kernel, rfl⟩

/-- Below H the fetch goes through a TLB, so the state it leaves is another. -/
theorem test_commit_below (p : Priv) (h : p ≠ .h) :
    AtCommit (coreBelow p) 0 ((coreBelow p).fetch 0).2 ∧ (((coreBelow p).fetch 0).2.thread 0).priv = p := by
  cases p
  · exact ⟨⟨by decide +kernel, by decide +kernel, Prod.ext (by decide +kernel) rfl⟩, by decide +kernel⟩
  · exact ⟨⟨by decide +kernel, by decide +kernel, Prod.ext (by decide +kernel) rfl⟩, by decide +kernel⟩
  · exact absurd rfl h

theorem test_clean_keeper : ArraysClean (keeperAt .s) := ⟨rfl, by decide +kernel⟩

theorem test_clean_core : ArraysClean core0 := ⟨rfl, by decide +kernel⟩

theorem test_shift_forms : (31#6).toNat < 32 ∧ 32 ≤ (32#6).toNat := by decide

theorem test_jump_targets : (cutTo 512 (0x10_0000 + 8)).toNat % 4 = 0 ∧ (cutTo 512 (0x10_0000 + 2)).toNat % 4 ≠ 0 := by decide

/-- Keeper loads and stores a word of its RAM at the pc: one piece, in memory. -/
theorem test_loads : ∃ s2 s3 ps, ((keeperAt .s).front 512 0 0x10_0000 4 .load true false false anySpace) = (some ps, s2) ∧
    ps.all (fun p => inMemory p.tgt) = true ∧ s2.readPieces 512 false ps = (.inr (0, false), s3) :=
  ⟨_, _, [⟨0x10_0000, 4, 0, .ram 0, ⟨0x10_0000, false, 0, none⟩⟩], Prod.ext (by decide +kernel) rfl, by decide +kernel,
    Prod.ext (by decide +kernel) rfl⟩

theorem test_stores : ∃ s2 s3 ps, ((keeperAt .s).front 512 0 0x10_0000 4 .store false true false anySpace) = (some ps, s2) ∧
    ps.all (fun p => inMemory p.tgt) = true ∧ s2.storePieces 512 5 ps = (none, s3) :=
  ⟨_, _, [⟨0x10_0000, 4, 0, .ram 0, ⟨0x10_0000, false, 0, none⟩⟩], Prod.ext (by decide +kernel) rfl, by decide +kernel,
    Prod.ext (by decide +kernel) rfl⟩

/-- A double-word access of thread 0 to control space. -/
theorem test_control_access : ∃ s2 s4 w, core0.front 0 0 0x000F_FF00_0000_0000 8 .load true false false anySpace =
      (some [⟨0x000F_FF00_0000_0000, 8, 0, .ctl 0, ⟨0x000F_FF00_0000_0000, false, 0, none⟩⟩], s2) ∧ pcieSpace 0 = false ∧
    s2.ctlRead (masterOf 0) 0 false = (.data w false, s4) :=
  ⟨_, _, (State.reset.rd .KPR_DEVID), Prod.ext (by decide +kernel) rfl, by decide +kernel, Prod.ext (by decide +kernel) rfl⟩

/-- A core that has stored to a line owns it, its copy is good, and the address is in memory. -/
theorem test_owned_line :
    let s := after (.sb 0 1 0 8) coreMem
    (s.thread 0).pc = 4 ∧ (s.thread 0).ctx = .bare ∧ s.space 8 = .mem 8 ⟨false, false, 0, 8⟩ ∧
      (s.l2Find 0 0).map (fun e => e.2.poison) = some false ∧ s.dirFind 8 = some (0, 0, ⟨0, .e 0, false⟩) := by
  decide +kernel

/-- Keeper's atomic access to its RAM: one piece, read and written. -/
theorem test_atomics : ∃ s2 s3 s4, ((keeperAt .s).front 512 0 0x10_0000 4 .atomic true true true noControl) =
      (some [⟨0x10_0000, 4, 0, .ram 0, ⟨0x10_0000, false, 0, none⟩⟩], s2) ∧
    s2.readPiece 512 ⟨0x10_0000, 4, 0, .ram 0, ⟨0x10_0000, false, 0, none⟩⟩ true = (.inr (0, false), s3) ∧
    s3.writePiece 512 ⟨0x10_0000, 4, 0, .ram 0, ⟨0x10_0000, false, 0, none⟩⟩ 5 = (none, s4) :=
  ⟨_, _, _, Prod.ext (by decide +kernel) rfl, Prod.ext (by decide +kernel) rfl, Prod.ext (by decide +kernel) rfl⟩

/-- LDRES on Keeper's RAM leaves the reservation that a STCOND then finds; a thread that has made none has none. -/
theorem test_reservation :
    let s := (keeperAt .s).setThread 512 (((keeperAt .s).thread 512).setReg 1 0x10_0000 false)
    ((after (.ldres 512 false 2 1) s).thread 512).resv = some (Tgt.gran (.ram 0) 512) ∧ (s.thread 512).resv = none := by
  decide +kernel

theorem test_fabric_idle : (keeperAt .s).fabricBusy 512 = false ∧ ((keeperAt .s).thread 512).storeFail = none ∧
    (core0.thread 0).ctx = .bare ∧ core0.ownNode (nodeOf 0) = true := by
  decide +kernel

theorem test_exact_result : (1 : Nat) ≠ 0 ∧ 1 < 2 ^ (fracBits false + 1) ∧ (1 : Int) - fpBias false - fracBits false ≤ 0 ∧
    (0 : Int) + Nat.log2 1 ≤ fpBias false := by
  decide +kernel

/-- The rows of R89: a number the profile lacks, one above the thread's level, a read-only one, a reserved value (FPSTAT.RM 0), and
a plain one. -/
theorem test_csr_rows : csrAssigned true 0x3FF = false ∧ (csrAssigned true 0x408 = true ∧ Priv.u.code < 0x408 / 1024) ∧
    (csrAssigned false 0x201 = true ∧ (0x201 : Nat).testBit 9 = true) ∧
    (csrAssigned false 1 = true ∧ csrReserved 1 0 = some (10, 8) ∧ (1 : Nat).testBit 9 = false) ∧
    (csrAssigned false 0x408 = true ∧ csrReserved 0x408 0x1000 = none ∧ Priv.h.code ≥ 0x408 / 1024) := by
  decide +kernel

/-- Thread 0 within an H trap. -/
theorem test_in_trap : TargetsH (core0.thread 0) 0x0D ∧ ((core0.thread 0).setCsr 0x800 2).intrap true = true :=
  ⟨Or.inl (by decide +kernel), by decide +kernel⟩

/-- An interrupt of vector 3 is pending at Keeper, whose IE is 0: a wait would end, nothing is delivered. At U it is. -/
theorem test_pending :
    let s := fun p => { keeperAt p with regs := mput (keeperAt p).regs (Reg.off .KPR_IPEND 0 0) 8 }
    ((s .s).bestVec 512 false = none ∧ ((s .s).bestVec 512 true).isSome = true) ∧ ((s .u).bestVec 512 false).isSome = true := by
  decide +kernel

/-- A vector of thread 0 of cluster 0 is pending with priority 5 for S; thread 0 is at U. -/
theorem test_select :
    let s := ((fields [(F.ENL_PWRCTL_STATE, 0, 7, 2), (F.CL_IVCFG_PRIO, 0, 9, 5)]).wr .CL_IPEND 0x200 0 0).setThread 0
      { Thread.initial 0 with run := .running, priv := .u }
    s.canIssue 0 = true ∧ s.bestVec 0 false = some ⟨9, 5, false⟩ ∧
      s.domOn (clDom 0) = true ∧ s.sleeping (coreOf 0) = false ∧ (⟨9, 5, false⟩ : EntrySel).above ⟨10, 5, false⟩ = true := by
  decide +kernel

theorem test_reserved_word : reservedInfo true 0 = some 0 ∧ reservedInfo true 0x3C00_0000 = some 2 ∧ reservedInfo false 0x0400_07FF = some 1 := by decide +kernel

/-- A TLBW that writes its entry, and one that fails its first check. -/
theorem test_tlbw :
    let s := core0With (fun x => x.setCsr 0x432 0x4C)
    ((after (.tlbw 0 1) s).thread 0).reg 1 = 0 ∧ ((after (.tlbw 0 1) s).core 0).l2tlb ≠ [] ∧
      ((after (.tlbw 0 1) core0).thread 0).reg 1 = 1 := by
  decide +kernel

/-- The hypotheses on WSTEP: no multiple of 8; an S thread without HPR ranges; a walk-cache entry; a word in memory. -/
theorem test_wstep : ((4 : Word) + 0 * 8).toNat % 8 ≠ 0 ∧ ((coreBelow .s).thread 0).hprCovers 8 15 false false = false ∧
    ((core0.setCore 0 { Core.initial with walk := [(⟨8, 0, 0, 7⟩, true)] }).walkLookup 0 8 0).1 = some 7 ∧
    (core0.walkLookup 0 8 0).1 = none ∧ inMemory (coreMem.tgtOf 8) = true ∧
    (coreMem.readPieces 0 false [⟨8, 8, 0, coreMem.tgtOf 8, ⟨8, false, 0, none⟩⟩]).1 = .inr (0, false) ∧
    (coreMem.thread 0).sorrel = false := by
  decide +kernel

/-- READY of core 0's Sorrel region set and not set. -/
theorem test_sorrel_ready : (fields [(F.CL_SRLCTL_READY, 0, 0, 1)]).flag F.CL_SRLCTL_READY 0 0 = true ∧
    core0.flag F.CL_SRLCTL_READY 0 0 = false ∧ core0.canIssue 0 = true ∧ (core0.thread 0).priv = .h := by
  decide +kernel

/-- A thread's registers are legal at reset, so the invariant has a state. -/
theorem test_thread_ok : ThreadOk (Thread.initial 0) := by
  constructor <;> decide +kernel

theorem test_words_differ : akzWord (.add 0 1 2 3) = akzWord (.add 0 1 2 3) ∧ akzWord (.add 0 1 2 3) ≠ akzWord (.sub 0 1 2 3) := by
  decide +kernel

/-! ### Control space, the tick and the plan -/

/-- ERR_LOGOVFCNT has no rule of its own; no register lies at offset 8 of a block that is off. -/
theorem test_register_writes : MayWrite State.reset .keeper ∧
    ctlPlace (Reg.off .ERR_LOGOVFCNT 0 0) = .reg .ERR_LOGOVFCNT 0 0 ∧ Reg.ERR_LOGOVFCNT ∈ plainRegs ∧
    State.reset.winOn Reg.ERR_LOGOVFCNT.row.win 0 = true ∧ regReserved .ERR_LOGOVFCNT 0 1 = false ∧
    State.reset.placeOn (ctlPlace (Reg.off .CL_SLPCTL 0 0)) = false :=
  ⟨⟨by decide +kernel, by decide⟩, by decide +kernel⟩

theorem test_register_reads : State.reset.shows .CAD_LATECNT 0 0 = (State.reset.rd .CAD_LATECNT, State.reset) ∧
    ctlPlace (Reg.off .CAD_LATECNT 0 0) = .reg .CAD_LATECNT 0 0 ∧ keeperOnly .CAD_LATECNT = false :=
  ⟨rfl, by decide +kernel⟩

/-- The holding register of Keeper empty, with a staged word, and with a kept one; a read that it keeps. -/
theorem test_half_words :
    let s := State.reset
    s.half .keeper = .empty ∧ (s.setHalf .keeper (.staged 16 5)).half .keeper = .staged 16 5 ∧
      (s.setHalf .keeper (.kept 16 5)).half .keeper = .kept 16 5 ∧
      (s.ctlRead .keeper 0 false).1 = .data (s.rd .KPR_DEVID) false := by
  decide +kernel

/-- A timing change armed at frame 9 while frame 2 runs may be cancelled; at frame 3 it is near. -/
theorem test_timing_change :
    let s := (fields [(F.CAD_CTRL_RUN, 0, 0, 1), (F.CAD_STAT_TIMING_ARMED, 0, 0, 1)]).wr .CAD_FRAMECNT 2
    s.flag F.CAD_CTRL_RUN = true ∧ ((s.rd .CAD_FRAMECNT).toNat + 2 ≤ 9 ∧ 3 < (s.rd .CAD_FRAMECNT).toNat + 2) ∧
      getBits (0x1000_0000_0064 : Word) 9 0 = 100 ∧ getBits (0x1000_0000_0064 : Word) 44 32 = 4096 := by
  decide +kernel

/-- The states of the tick: not started with RUN set, started and sealed, started and not sealed. -/
theorem test_ticks :
    let run := fields [(F.CAD_CTRL_RUN, 0, 0, 1)]
    let on := { run with tick := { run.tick with started := true } }
    (run.tick.started = false ∧ run.flag F.CAD_CTRL_RUN = true ∧ run.tick.acq = none ∧ run.flag F.CAD_STAT_TIMING_ARMED = false) ∧
      (on.setFld F.CAD_STAT_SEALED 1).flag F.CAD_STAT_SEALED = true ∧ on.flag F.CAD_STAT_SEALED = false := by
  decide +kernel

/-- The sealed plan's word, the seal deadline and the 20 ns point. -/
theorem test_tick_points :
    let s : State := { State.reset with tick := { Tick.initial with started := true, effectDue := true, lateDue := true } }
    s.tick.effectDue = true ∧ s.tick.lateDue = true ∧ s.tick.sealClosed = false ∧ s.tick.started = true := by
  decide +kernel

/-- Seals: ticks not started; past the deadline; another frame; sealed already; a table that fails; an empty plan, which passes. -/
theorem test_seals :
    let s := State.reset
    let on : State := { s with tick := { s.tick with started := true } }
    let bad := after (.planTableWrite .keeper 0x10_0000 0xFFFF_FFFF_FFFF_FFFF) on
    s.tick.started = false ∧ { on.tick with sealClosed := true }.sealClosed = true ∧ (5 : Word) ≠ on.rd .CAD_FRAMECNT + 1 ∧
      (1 : Word) = on.rd .CAD_FRAMECNT + 1 ∧ on.planFails = none ∧ bad.planFails = some (0, 0) ∧
      (on.setFld F.CAD_STAT_SEALED 1).flag F.CAD_STAT_SEALED = true := by
  decide +kernel

/-- Two edges that agree, none, one, and the ends of their window. -/
theorem test_tick_edges : (-100 : Int) ≤ -100 ∧ (-101 : Int) < -100 ∧ ((20 : Int) - 0).natAbs ≤ 20 ∧
    (let s : State := { State.reset with tick := { Tick.initial with started := true, edgeA := some 20, edgeB := some 0 } }
     s.live = true ∧ s.tick.fault = false ∧ s.tick.lossHold = false ∧ s.tick.disc = none ∧
       (after .tickMonitorEvaluation s).tick.agree = 1 ∧
       (after .tickMonitorEvaluation { s with tick := { s.tick with edgeB := none } }).tick.disc = some 0 ∧
       (after .tickMonitorEvaluation { s with tick := { s.tick with edgeA := none, edgeB := none } }).tick.source = .osc) := by
  decide +kernel

/-- A discrepancy of one frame is filtered while N × TF is larger, and a fault where it is not. -/
theorem test_discrepancy :
    let s := State.reset
    let n := s.keepFld 0 11 8 * s.fld F.CAD_TIMING_TF
    n ≤ n + s.fld F.CAD_TIMING_TF ∧ 0 + s.fld F.CAD_TIMING_TF < n := by
  decide +kernel

/-- Three markers that agree and one that does not, in acquisition. -/
theorem test_acquisition :
    let k : Marker := ⟨0, 7, 3, 0⟩
    let s := fields [(F.CAD_CTRL_ACQUIRE, 0, 0, 1)]
    let s : State := { s with tick := { s.tick with evalMarks := [k, k, k, ⟨1, 9, 4, 0⟩] } }
    s.flag F.CAD_CTRL_ACQUIRE = true ∧ s.tick.started = false ∧ (after .frameAcquisition s).tick.acq = some (7, 3) := by
  decide +kernel

/-- The Cadence pair running, stopped by a mismatch, and never started. -/
theorem test_cadence :
    let s := State.reset.setThread 513 { Thread.initial 513 with run := .running }
    (s.thread 513).run = .running ∧ (after .cadenceLockstepMismatch s).board.cadFail = true ∧
      (State.reset.thread 513).run = .off ∧ State.reset.board.cadFail = false := by
  decide +kernel

/-! ### Links, channels and the fabric -/

/-- Link engine 0 is on. -/
def le0 : State := fields [(F.ENL_PWRCTL_STATE, 0, 71, 2)]

/-- The state of port 0 of that engine. -/
def portIn (l : LinkState) : State := le0.setFld F.LE_PORTSTAT_STATE l.code 0 0

/-- An engine's switch armed and not; a staged half of a word; a copy that is running on a good bank. -/
theorem test_microcode :
    le0.winOn .le 0 = true ∧ le0.flag F.LE_UCSWSTAT_ARMED 0 = false ∧ (le0.setFld F.LE_UCSWSTAT_ARMED 1 0).flag F.LE_UCSWSTAT_ARMED 0 = true ∧
      ((after (.shadowMicrowordWrite .keeper 0 4 7) le0).le 0).staged = some (2, 7) ∧
      (after (.controlStoreCopy .keeper 0) le0).flag F.LE_STAT_COPYBUSY 0 = true ∧ le0.flag F.LE_STAT_HALTED 0 = false ∧
      (∀ t, t < 4 → (le0.port t).renegDue = false) := by
  decide +kernel

/-- A thread of engine 0 at address 0, on a word of no bad bits, of two, and while it holds or its bank is swapped. -/
theorem test_microthreads :
    let y : MThread := ⟨0, [], false, false, false, 0⟩
    let s := (portIn .active).setLe 0 { LinkEng.initial with thr := [(0, y)] }
    let held := s.setLe 0 { LinkEng.initial with thr := (List.range 4).map (fun t => (t, { y with holding := true })), holding := true }
    mget (s.le 0).thr 0 = some y ∧ s.ucParked 0 0 = false ∧ ((s.le 0).word (s.leBank 0) 0).bad = 0 ∧
      held.ucAll 0 (fun z => z.holding) = true ∧ (held.le 0).swapped = false ∧
      ({ LinkEng.initial with swapped := true } : LinkEng).swapped = true := by
  decide +kernel

/-- Port 0 in the states of negotiation: an advertisement seen twice, a version in common, and the end of the probes. -/
theorem test_link_states :
    (∀ l ∈ [LinkState.signal, .advert, .train, .delay, .keyx, .active, .mgmt], (portIn l).linkSt 0 = l.code) ∧
      portCfgReserved 0 0 = false ∧ portCfgReserved 0 0xFFFF_FFFF_FFFF_FFFF = true ∧ le0.lane0 0 = 0 ∧ le0.bondDown 0 = true ∧
      le0.pciePort 0 = false ∧ (le0.port 0).backoff = false ∧
      (let p := { Port.initial with adv := some ⟨3, 7, 0xFFFF, 0, 0, false, 1, 1, 1⟩, advCnt := 2, probes := 16, width := 4 }
       2 ≤ p.advCnt ∧ 16 ≤ p.probes ∧ 1 ≤ min 3 (p.width - 1) ∧ max le0.advMin 3 ≤ min (le0.advMax 0) 7 ∧ 3 < max 4 le0.advMin) := by
  decide +kernel

/-- A link in service with keys agreed at frame 4 or later, and one whose reference is missing. -/
theorem test_links_in_service :
    let r := (portIn .active).setFld F.LE_PORTSTAT_FEATACT 2 0 0
    let s := r.setSec { r.sec with rack := some 0 }
    s.linkSt 0 = LinkState.active.code ∧ s.featOn 0 1 = true ∧ s.sec.rack.isSome = true ∧
      s.flag F.THS_STAT_TRNGFAIL = false ∧ (s.port 0).rekeyAt = none ∧ s.frame.toNat + 4 ≤ 4 ∧
      ((after (.sdrefMissing 0) s).board.sdMissing = 1 ∧ (after (.sdrefMissing 0) s).linkSt 0 = 0) := by
  decide +kernel

/-- A superline that Teasel's all-zero format holds. -/
theorem test_teasel : teaselHolds 0 0 = true ∧ cwOf 0 = none := by decide +kernel

/-- Channel 0 is on and in service and TID 0's key is loaded; nothing waits; its memory is clear. -/
theorem test_channel :
    let s := coreMem.setChan 0 { Chan.initial with trained := true }
    s.chanUp 0 = true ∧ s.mirroredAt 0 0 = false ∧ s.keyLoaded (mcSlot 0) 0 = true ∧ s.waiting 0 0 = [] ∧
      ((s.chan 0).line 0).code.toNat < 12 ∧ ((s.chan 0).line 0).bad = [] ∧ ((s.chan 0).line 0).poison = 0 ∧
      mgetD (s.chan 0).mdErr (mdLine 0) 0 = 0 ∧ s.winOn .mc 0 = true ∧ s.mirrored 0 = false ∧
      (s.chan 0).nbr = [] ∧ s.fld F.MC_WQ_LO_LEVEL 0 < s.fld F.MC_WQ_HI_LEVEL 0 := by
  decide +kernel

/-- A line that nothing has written has code 0x0; one that TID 0 has written has the seals of TID 0. -/
theorem test_channel_key :
    let r : Req := ⟨0, 15, BitVec.allOnes 256, 5, 0, false, false, 0, 0, .core 0⟩
    let s := after (.superlineWrite 0 r .atOnce) (coreMem.setChan 0 { Chan.initial with trained := true })
    ((coreMem.chan 0).line 0).code = 0 ∧ ((s.chan 0).line 0).code ≠ 0 ∧ ((s.chan 0).line 0).keys = s.sealOf 0 0 0 := by decide +kernel

/-- A channel out of service and retired; frozen; and one whose queues hold a request. -/
theorem test_channel_states :
    let r : Req := ⟨0, 15, 0, 0, 0, false, false, 0, 0, .core 0⟩
    let gone := (coreMem.setFld F.MC_STAT_RETIRED 1 0).setFld F.MC_STAT_INSVC 0 0
    let frz := after (.channelFreeze 0 ⟨.caParity, 0⟩) coreMem
    (gone.chanUp 0 = false ∧ gone.flag F.MC_STAT_FROZEN 0 = false) ∧
      (frz.flag F.MC_STAT_FROZEN 0 = true ∧ (frz.chan 0).acting = none ∧ (frz.chan 0).snap.isSome = true ∧ (frz.chan 0).mdFix = none ∧
        (frz.chan 0).resync = [] ∧ frz.flag F.MC_FRZSTAT_RESYNCOVF 0 = false ∧ frz.frzFirst 0 = true) ∧
      ((after (.superlineRead 0 r .queued) coreMem).chan 0).rdq.length = 1 ∧
      ((after (.superlineWrite 0 r .queued) coreMem).chan 0).wrq.length = 1 := by
  decide +kernel

/-- A channel whose population is listed, one that is not in service, windows of the plan, and a flush. -/
theorem test_channel_service :
    let s := fields [(F.ENL_PWRCTL_STATE, 0, 55, 2)]
    s.domOn (mcDom 0) = true ∧ s.flag F.MC_STAT_INSVC 0 = false ∧ s.flag F.MC_MIRSTAT_REBUILDING 0 = false ∧
      s.flag F.MC_CMPSTAT_MDBUSY 0 = false ∧ s.windowAt 0 2 = 0 ∧ 2 < s.tf ∧ (s.chan 0).pulled = 0 ∧
      (after (.metadataFlush .keeper 0) s).flag F.MC_CMPSTAT_MDBUSY 0 = true := by
  decide +kernel

/-- Channels 0 and 1: one retired and trained, its partner in service; and a rebuild that runs. -/
theorem test_rebuild :
    let s := (fields [(F.ENL_PWRCTL_STATE, 0, 55, 2), (F.MC_STAT_RETIRED, 0, 0, 1), (F.MC_STAT_INSVC, 1, 0, 1)]).setChan 0
      { Chan.initial with trained := true }
    s.flag F.MC_STAT_RETIRED 0 = true ∧ (s.chan 0).trained = true ∧ s.flag F.MC_STAT_INSVC (pairOf 0) = true ∧
      (after (.rebuild .keeper 0) s).flag F.MC_MIRSTAT_REBUILDING 0 = true := by
  decide +kernel

/-! ### The fabric, PCI Express and Ethernet -/

/-- Node 1, with port 0 ACTIVE and the way to node 2. -/
def node1 : State :=
  ((fields [(F.MAP_NODE_SET, 0, 0, 1), (F.MAP_NODE_NODEID, 0, 0, 1), (F.ENL_PWRCTL_STATE, 0, 71, 2),
    (F.LE_PORTSTAT_STATE, 0, 0, 6), (F.LE_PORTSTAT_VER, 0, 0, 7), (F.MAP_FABCTL_DEFMAX, 0, 0, 8)]).wr .MAP_ROUTE 0x10000 0 2).wr .MAP_ROUTE 0x10000 0 3

/-- A packet of class 3 from node 2. -/
def pkt (op : FabOp) (resp : BitVec 2) (reason : BitVec 3) : Packet :=
  ⟨1, 2, 3, 0, 1, op, 0, 0, false, 0x1000, 4, 0, 9, resp, reason, 1, false, true, 0, []⟩

/-- A request of thread 0 for node 2. -/
def req (op : FabOp) : FabReq := ⟨.core 0, 2, 0x1000, 1, op, false, false, 0, 64, 0, []⟩

/-- Judged: refused where the TID is held; the outstanding request of a tag; a response of each kind. -/
theorem test_fabric :
    let s := node1
    let held := s.wr .THS_HOLDMAP 2 0 0
    let o : Outst := ⟨9, req .readReq, 3, 0, 0, 0, .sent, 0, 0⟩
    let out : State := { s with fabric := { s.fabric with outs := [o] } }
    s.live = true ∧ held.held 1 = true ∧ held.judgeSource (req .readReq) 3 0 = .refuse 4 ∧ isLease (req .readReq).op = false ∧
      out.fabric.outs.find? (fun e => decide (e.tag = 9 ∧ e.req.dst = (pkt .response 1 0).src ∧ e.stand = .sent)) = some o ∧
      s.fabric.outs.find? (fun e => decide (e.tag = 9 ∧ e.req.dst = (pkt .response 1 0).src ∧ e.stand = .sent)) = none ∧
      o.defers + (pkt .response 2 1).deferK.toNat ≤ s.fld F.MAP_FABCTL_DEFMAX ∧ o.issued.toNat + 64 ≤ (s.wr .CAD_FRAMECNT 64).frame.toNat := by
  decide +kernel

/-- Packets at port 0: its link serves; one with a bad header; one for another node; a free slot with a packet that waits. -/
theorem test_packets :
    let s := node1.setPort 0 { Port.initial with egress := [⟨pkt .write 0 0, 255, false, none, 1, 0⟩] }
    s.linkIs (s.lane0 0) .active = true ∧ Hdr.ok ⟨0, 0, 0, 0, true, 0, []⟩ = false ∧ s.ownNode 1 = true ∧ s.ownNode 2 = false ∧
      (pkt .write 0 0).hops ≠ 0 ∧ (s.port 0).egress[0]?.isSome = true ∧ s.linkUp 0 = true := by
  decide +kernel

/-- What the service of leases and of the map needs: a borrow DRAINING, a lease RECALLED, a drained cluster. -/
theorem test_leases :
    let s := fields [(F.MAP_LEASEA_STATE, 0, 3, 2), (F.MAP_BORROWA_STATE, 0, 5, 2), (F.MAP_LEASEA_V, 0, 4, 1), (F.MAP_SVCSTAT_STATE, 0, 0, 2)]
    s.fld F.MAP_LEASEA_STATE 0 3 = 2 ∧ s.fld F.MAP_BORROWA_STATE 0 5 = 2 ∧ s.fabric.flowQ = [] ∧
      (s.fld F.MAP_LEASEA_STATE 0 4 = 0 ∧ s.flag F.MAP_LEASEA_V 0 4 = true ∧ s.fld F.MAP_LEASEA_MODE 0 4 = 0) ∧
      (s.leaseX 3).drainedIn = false ∧ (s.leaseX 3).frame.toNat + 64 ≤ (s.wr .CAD_FRAMECNT 64).frame.toNat ∧
      flowReserved 0 = false ∧ s.board.locked = false := by
  decide +kernel

/-- A range whose checks pass, one whose do not, and the slices that may move. -/
theorem test_ranges :
    let v : Word := 0
    coreMem.rangeOk 0 = true ∧ State.reset.rangeOk 0 = false ∧ State.reset.sliceUp 0 = false ∧
      (core0.wr .MAP_INSVCA 1).sliceUp 0 = true ∧ bitOf v 0 = false := by
  decide +kernel

/-- Link 0 of PCI Express in L0: with a window and without; a thread that awaits a read. -/
theorem test_pcie :
    let s := (fields [(F.ENL_PWRCTL_STATE, 0, 71, 2), (F.LE_PCIECFG_MODE, 0, 0, 1), (F.LE_PCIEWIN_V, 0, 0, 1),
      (F.LE_PCIEWIN_SIZE, 0, 0, 12)]).setLink 0 { PcieLink.initial with l0 := true, outs := [0] }
    s.linkPresent 0 = true ∧ (s.link 0).l0 = true ∧ s.pcieWindow 0 0xFFFF_0000_0000 = none ∧ (s.pcieWindow 0 0).isSome = true ∧
      (s.link 0).outs.contains 0 = true ∧ (s.link 1).outs.contains 0 = false := by
  decide +kernel

/-- Port 0 with Ethernet; a good frame, and frames that are dropped; an empty transmit side. -/
theorem test_ethernet :
    let s := fields [(F.ENL_PWRCTL_STATE, 0, 71, 2), (F.LE_PORTCFG_EN, 0, 0, 1), (F.LE_PORTCFG_PERS, 0, 0, 2), (F.LE_PORTSTAT_STATE, 0, 0, 6)]
    let f : EthFrame := ⟨60, none, true, false, List.replicate 8 0⟩
    s.ethPort 0 = true ∧ f.wf = true ∧ 60 ≤ f.len.toNat ∧ f.len.toNat ≤ 9212 ∧ pfcOf f = none ∧ s.ethOwns 0 0 = false ∧
      (s.port 0).rxq = [] ∧ (s.port 0).txq = none ∧ s.ethNext 0 = none ∧ (⟨59, none, true, false, []⟩ : EthFrame).len.toNat < 60 := by
  decide +kernel

/-! ### Cores, energy, engines, security and boot -/

/-- Core 0 with both threads waiting and a depth; asleep; entering; waking; with a region that loads. -/
theorem test_sleep :
    let s := ((core0.setThread 0 { Thread.initial 0 with run := .waiting }).setThread 1 { Thread.initial 1 with run := .waiting }).setFld
      F.CL_SLPCTL_DEPTH 2 0 0
    let e := after (.sleepEntry 0) s
    let z := after (.sleepEntryDone 0) e
    s.fld F.CL_SLPCTL_DEPTH 0 0 ≠ 0 ∧ s.sleeping 0 = false ∧ e.flag F.CL_SLPCTL_ENTERING 0 0 = true ∧ (e.core 0).sleepTo = 2 ∧
      z.fld F.CL_SLPCTL_STATE 0 0 = 2 ∧ z.sleeping 0 = true ∧
      (after (.sleepWakeDone 0) (z.setFld F.CL_SLPCTL_WAKING 1 0 0)).fld F.CL_SLPCTL_STATE 0 0 = 0 := by
  decide +kernel

theorem test_sorrel_region :
    F.CL_SRLCTL_WAYS.of 9 = 9 ∧ coreMem.rangeLocal 0 (2 ^ 17) = true ∧ State.reset.rangeLocal 0 (2 ^ 17) = false ∧
      (coreMem.sorrel 0 || coreMem.sorrel 1) = false ∧ (coreMem.core 0).failed = false := by
  decide +kernel

/-- A posting of one TID; a close; a recalibration that is due; level and domain requests; Dormant entered and left. -/
theorem test_energy :
    let s := State.reset
    let l : Ledger := { s.ledger with act := [(5, 1000)], recalDue := true, window := 9 }
    s.ledger.sets = [] ∧ l.c0act = [] ∧
      (s.ledgerTick (some 400)).ledger.ended = some { tf := some 400, used := [], energy := 0, act := [], c0act := [] } ∧ s.balance 5 - 1 ≥ -(2 ^ 39) ∧ s.planBad (0x40_0000 + 8 * 5) = false ∧ 0 < l.window ∧
      l.recalDue = true ∧ s.flag F.ENL_PLVL_BUSY 0 0 = false ∧ 5 < F.ENL_PLVL_REQ.of 6 ∧ F.ENL_PLVL_REQ.of 5 ≤ 5 ∧
      s.fld F.ENL_PWRCTL_STATE 0 7 = 0 ∧ coreMem.fld F.ENL_PWRCTL_STATE 0 55 = 2 ∧ coreMem.mayOff 55 = false ∧ s.mayOff 55 = true ∧
      s.rd .MAP_INSVCA = 0 ∧ (after (.enterDormant .keeper) s).board.dorm = .entering ∧
      (after .dormantEntryDone (after (.enterDormant .keeper) s)).board.dorm = .dormant ∧ s.flag F.ENL_RTCALM_ALMEN = false := by
  decide +kernel

/-- A level that a ramp has reached, and one whose transition ends. -/
theorem test_levels :
    let s : State := { State.reset with ledger := { Ledger.initial with ramp := [(0, 3)] } }
    mget s.ledger.ramp 0 = some 3 ∧
      (let t := after (.voltageRampDone 0) (s.setFld F.ENL_PLVL_REQ 3 0 0)
       t.fld F.ENL_PLVL_CUR 0 0 = 3 ∧ mget t.ledger.ramp 0 = none ∧ t.levelTarget 0 = 3) := by
  decide +kernel

/-- Engine 0 of an on group. -/
def eng0 : State := fields [(F.ENL_PWRCTL_STATE, 0, 39, 2), (F.CAD_STAT_RUN, 0, 0, 1)]

/-- A job of TID 0. -/
def job0 : Job :=
  { slot := 0, sf := false, c0 := false, yieldOk := false, tid := 0, endPos := 0, outmask := 0, hold := 0, used := 0,
    wins := [0, 0, 0, 0] }

/-- Engine 0 running that job. -/
def eng0Runs : State := (eng0.setFld F.SE_STAT_STATE 1 0).setEngine 0 { Engine.initial with job := some job0 }

/-- An engine without a job and with one; its empty slots; the gate and the account of TID 0. -/
theorem test_jobs :
    eng0.engineUp 0 = true ∧ (eng0.engine 0).job = none ∧ eng0.jobKind 0 0 = 0 ∧ eng0.jobBad 0 0 = false ∧
      (eng0Runs.engine 0).job = some job0 ∧ eng0Runs.engineUp 0 = true ∧ eng0.held 0 = false ∧ eng0.scope 3 = false ∧
      (let o : State := { eng0 with board := { eng0.board with session := some 8 } }; o.scope 3 = true) := by
  decide +kernel

/-- A plan whose slot 0 of engine 0 holds a frame job, and one with a superframe job. -/
theorem test_job_kinds : ({ eng0 with cur := [(0x30_0000 / 8, 1)] } : State).jobKind 0 0 = 1 ∧
    ({ eng0 with cur := [(0x30_0000 / 8, 2)] } : State).jobKind 0 0 = 2 := by
  decide +kernel

/-- Channels, timers and pins of group 0: idle, busy, endpoints in one place, and a timer that starts. -/
theorem test_group :
    let s := eng0
    let b := s.setFld F.SE_DMACTL_BUSY 1 0 0
    s.groupUp 0 = true ∧ (s.engine 0).held = false ∧ s.flag F.SE_DMACTL_BUSY 0 0 = false ∧ b.flag F.SE_DMACTL_BUSY 0 0 = true ∧
      (s.inAperture 0 (s.rd .SE_DMASRC 0 0) 0 0 0 = s.inAperture 0 (s.rd .SE_DMADST 0 0) 0 0 0) ∧
      (∀ h, h < 16 → (s.rd .SG_TIODRV h).toNat &&& 1 = 0) ∧ (s.wr .SG_TIODRV 1 3).rd .SG_TIODRV 3 = 1 ∧
      mget (({ s.setGroup 0 { Group.initial with start := [(0, some 5)] } with tick := { s.tick with started := true } } : State).group 0).start 0 = some (some 5) ∧
      mget ((s.setGroup 0 { Group.initial with count := [(0, 0)] }).group 0).count 0 = some 0 ∧ s.tick.effectDue = false ∧
      (s.setFld F.SG_TMRCTL_EN 1 0 0).flag F.SG_TMRCTL_EN 0 0 = true ∧ (s.evPend 0).testBit 3 = false ∧
      (mgetD (s.group 0).fifo 0 []).length < 4 ∧ s.flag F.SE_SWSTAT_ARMED 0 = false := by
  decide +kernel

/-- Engine 0 may issue a bundle. -/
theorem test_issue : EngineReady eng0Runs 0 job0 [] :=
  ⟨⟨by decide +kernel, by decide +kernel, by decide +kernel, by decide +kernel, by decide +kernel, by decide +kernel, ⟨rfl, by decide +kernel⟩, by decide +kernel⟩, by decide +kernel⟩

/-- A complex pair whose M1 marker is already there. -/
theorem test_issue_pair : EngineReady (eng0Runs.setEngine 0 { Engine.initial with job := some job0, bundle := [(.m1, 0x3F, 0)] }) 0 job0 [(.m1, 0x3F, 0)] :=
  ⟨⟨by decide +kernel, by decide +kernel, by decide +kernel, by decide +kernel, by decide +kernel, by decide +kernel, ⟨rfl, by decide +kernel⟩, by decide +kernel⟩, by decide +kernel⟩

/-- Syllables that their slots take, and pointers into data memory. -/
theorem test_syllables : sylBad .m0 1 0 = false ∧ sylBad .m0 4 0 = false ∧ sylBad .a 1 0 = false ∧ sylBad .ls1 9 0 = false ∧
    sylBad .ld0 1 0 = false ∧ sylBad .b 0x18 0 = false ∧ (0 : BitVec 32).msb = false ∧ (locMask 0x0C).isSome = true ∧
    (eng0Runs.dmaIdle 0 = true ∧ ((eng0.setFld F.SE_DMACTL_BUSY 1 0 0).dmaIdle 0) = false) := by
  decide +kernel

/-- A scrub assignment of engine group 0 and a word of the unit it names that holds one wrong bit: data memory first, then
program bank A (R413, R418). -/
theorem test_scrub :
    (let s : State := { eng0 with cur := [((0x60_0000 + 8 * 96) / 8, 0x100_0000_0001)], errs := [(errKey 96 0 3, ⟨1, 0, 0⟩)] }
     s.scrubOf 96 = some (0, 1) ∧ s.live = true ∧ s.tick.sealClosed = false ∧ (⟨1, 0, 0⟩ : ArrErr).bits = 1 ∧
       unitPlace 96 64 0 0 = some (0, 3 / 8)) ∧
    unitPlace 96 64 0 4096 = some (1, 0) ∧ unitPlace 112 64 0 16384 = some (1, 0) ∧ unitPlace 112 64 0 32768 = none ∧
    State.reset.scrubOf 96 = none := by
  decide +kernel

/-- A Keep word that Keeper may write, one that is Thistle's, and one that is not there. -/
theorem test_keep_words :
    (keepMask 0).isSome = true ∧ keepThistle 5 = true ∧ keepMask 11 = none ∧ State.reset.keepWorn 0 = false ∧
      keepReserved 0 0x100 = false ∧ keepReserved 0 0 = true ∧ keepForbidden 0 (State.reset.keepRd 0) 0x100 = false ∧
      mayInject .keeper = true ∧ mayInject (.thread 0) = false := by
  decide +kernel

/-- Failures that are new and that are known; a stopped thread; a halted and verified link engine. -/
theorem test_failures :
    let s := State.reset
    s.board.meshOut.getLsbD 0 = false ∧ s.board.sliceBad.contains 3 = false ∧ s.board.dirScan.contains 3 = false ∧
      (after (.meshQuadrantFailure 0) s).board.meshOut.getLsbD 0 = true ∧
      ((s.setThread 5 { Thread.initial 5 with run := .stopped }).thread 5).run = .stopped ∧ core0.domOn (clDom 0) = true ∧
      (let h := ((fields [(F.ENL_PWRCTL_STATE, 0, 71, 2)]).setFld F.LE_STAT_HALTED 1 0).setLe 0 { LinkEng.initial with verified := true }
       h.flag F.LE_STAT_HALTED 0 = true ∧ (h.le 0).verified = true) := by
  decide +kernel

/-- Key commands free and busy, run and ended; a word of the TRNG ready and not. -/
theorem test_keys :
    let s := State.reset
    s.flag F.THS_KEYSTAT_BUSY = false ∧ (after (.generateTenant .keeper 5) s).flag F.THS_KEYSTAT_BUSY = true ∧
      (after (.generateTenant .keeper 5) s).sec.running = some ⟨1, 5, 0, 0⟩ ∧ s.anyLoaded 5 = false ∧ s.anyLoaded 0 = true ∧
      s.sec.trngFull = true ∧ s.flag F.THS_STAT_TRNGFAIL = false ∧ s.sec.trngWait = [] ∧ s.sakPort 0 = false ∧
      (after (.verifyImage .keeper) s).sec.verifying = true := by
  decide +kernel

/-- Alarm sources with each level, a wire that rises, and a discrepancy that is due. -/
theorem test_alarms :
    let s := State.reset
    s.thistle = true ∧ (s.alarmLevel 1 = 1 ∨ s.alarmLevel 1 = 2 ∨ s.alarmLevel 1 = 3) ∧ s.wire .a = false ∧
      (after (.zeroizeWireAssert .a) s).wire .a = true ∧ (after (.zeroizeWireAssert .a) s).sec.zrun.isSome = true ∧
      (let z := s.setSec { s.sec with zrun := some (10000, 10000) }
       z.sec.zraised = false ∧ (after .zeroizeDiscrepancy z).sec.zraised = true ∧ (after .zeroizeDiscrepancy z).held 5 = true) ∧
      (after (.lidMeshAlarm 7) s).flag F.THS_STAT_ALARM = true ∧ F.THS_RAISE_LEVEL.of 1 = 1 := by
  decide +kernel

/-- Reset lost and regained; ROM about to run, refused, and entered; a mailbox free; a challenge; the scopes of a session. -/
theorem test_boot :
    let s := State.reset
    let off := after (.pwrgoodChange false) s
    let i : Image := ⟨false, 0, false, 0, 0, 0, 0, 0, false, false, 0, false, []⟩
    let b : BootInput := ⟨false, false, i, i, [], []⟩
    off.board.inReset = true ∧ (after (.refclkReturn .a) (after (.pwrgoodChange true) off)).board.romReady = true ∧ s.live = true ∧ s.board.romReady = true ∧
      s.board.kind < 16 ∧ (after (.keeperRomBoot b) s).fld F.KPR_BOOTSTAT_CAUSE = 1 ∧ s.fld F.KPR_BOOTSTAT_STAGE ≠ 3 ∧
      s.board.refHold = false ∧ s.flag F.KPR_MBOXDB_BUSY = false ∧ s.sec.challenge = none ∧ s.authRefused = true ∧
      s.scope 4 = false ∧ s.firmwareUp = false ∧
      (let e : State := { s with board := { s.board with romReady := false, entry := true } }
       (after .keeperFirmwareEntry e).firmwareUp = true ∧ (after .keeperFirmwareEntry (after (.bootLock .keeper) e)).authRefused = false) := by
  decide +kernel

/-! ### Clauses of the statements that the states above do not reach -/

/-- A disagreement that has not raised the fault; the first of a new one; N frames of it. -/
theorem test_disagreement :
    let s : State := { State.reset with tick := { Tick.initial with started := true, edgeA := some 5, evalTf := 400 } }
    s.live = true ∧ s.tick.edgeA.isSome = true ∧ s.tick.edgeB = none ∧ s.tick.spent = false ∧ s.tick.fault = false ∧
      (after .tickMonitorEvaluation s).tick.disc = some 0 ∧
      (let n := s.keepFld 0 11 8 * s.fld F.CAD_TIMING_TF
       n ≤ n - 400 + s.tick.evalTf ∧ n ≠ 0 ∧
         (after .tickMonitorEvaluation { s with tick := { s.tick with disc := some n } }).tick.fault = true) := by
  decide +kernel

/-- Engine 0 whose links are quiet, armed, holding before and after the swap; its copy runs on words without a bad bit. -/
theorem test_switch_ends :
    let s := le0.setFld F.LE_UCSWSTAT_ARMED 1 0
    let held := s.setLe 0 { LinkEng.initial with holding := true }
    let swapped := s.setLe 0 { LinkEng.initial with holding := true, swapped := true }
    (∀ p ∈ s.leLinks 0, (s.port p).renegDue = false ∧ s.ethPort p = false ∧ (s.port p).inMsg = [] ∧ (s.port p).inq = []) ∧
      (s.le 0).holding = false ∧ (held.le 0).holding = true ∧ (swapped.le 0).swapped = true ∧
      (after (.cancelMicrocodeSwitch .keeper 0) held).flag F.LE_UCSWSTAT_ARMED 0 = false ∧
      (after (.microcodeSwitchRevert 0) swapped).leBank 0 = 1 - swapped.leBank 0 ∧
      held.portHeld 0 = true ∧ s.portHeld 0 = false := by
  decide +kernel

/-- A link that backs off; a failed negotiation for each reason; a key agreement with and without what it needs. -/
theorem test_link_ends :
    let s := le0.setPort 0 { Port.initial with backoff := true }
    let meets := fun (a : Adv) => (portIn .advert).setPort 0 { Port.initial with adv := some a, advCnt := 2 }
    let low : Adv := ⟨0, 1, 0xFFFF, 0, 0, false, 0, 1, 1⟩
    let high : Adv := ⟨8, 9, 0xFFFF, 0, 0, false, 0, 1, 1⟩
    let enc : Adv := ⟨2, 4, 0, 0, 0, true, 0, 1, 1⟩
    let reason := fun (t : State) => (t.linkSt 0, t.pfld F.LE_PORTSTAT_REASON 0)
    (s.port 0).backoff = true ∧ s.linkSt 0 = 0 ∧
      reason (after (.advertisementReceive 0 low) (meets low)) = (7, 1) ∧
      reason (after (.advertisementReceive 0 high) (meets high)) = (7, 2) ∧
      reason (after (.advertisementReceive 0 enc) (meets enc)) = (7, 3) ∧
      (portIn .keyx).sec.rack = none ∧ reason (after (.keyAgreementDone 0 true) (portIn .keyx)) = (7, 4) ∧
      (le0.encReq = false ∧ (portIn .delay).featOn 0 1 = false ∧ (portIn .delay).port 0 = Port.initial) := by
  decide +kernel

/-- A rekey that is due, with the rack key. -/
theorem test_rekey_due :
    let s := ((portIn .active).setFld F.LE_PORTSTAT_FEATACT 2 0 0).setPort 0
      { Port.initial with keys := some ⟨0, 0⟩, txCount := 2 ^ 48 }
    s.linkSt 0 = LinkState.active.code ∧ s.featOn 0 1 = true ∧ s.rekeyDue 0 = true := by
  decide +kernel

/-- A request of channel 0. -/
def mreq (c0 : Bool) : Req := ⟨0, 15, 0xFF, 5, 0, c0, false, 0, 0, .core 0⟩

/-- Channel 0 with a full read, write and C0 queue, and one that waits at the mesh stop. -/
theorem test_full_queues :
    let s := coreMem.setChan 0 { Chan.initial with trained := true }
    let e := s.arriving (mreq false) false
    let w := s.arriving (mreq false) true
    let full := s.setChan 0 { s.chan 0 with rdq := List.replicate 64 e, wrq := List.replicate 128 w, c0q := List.replicate 16 e }
    s.hasRoom 0 e = true ∧ s.hasRoom 0 w = true ∧ full.hasRoom 0 e = false ∧ full.hasRoom 0 w = false ∧
      full.hasRoom 0 (s.arriving (mreq true) false) = false ∧ 4 ≤ (full.chan 0).c0q.length ∧
      ((after (.superlineRead 0 (mreq false) .queued) full).chan 0).stop.length = 1 := by
  decide +kernel

/-- A C0 window with its reads; one that a window of refresh follows; intervals owed at both bounds; one pulled in. -/
theorem test_windows :
    let s := (coreMem.setChan 0 { Chan.initial with trained := true }).setFld F.MC_STAT_C0WIN 1 0
    let q := after (.superlineRead 0 (mreq true) .queued) s
    let left := q.setFld F.MC_STAT_C0WIN 0 0
    let win := fun (k : Nat) (t : State) => ({ t with cur := [(tableBase 1, BitVec.ofNat 64 (0x3FF0000 + k))] } : State)
    (∃ e ∈ (q.chan 0).c0q, e.inWin = true) ∧ ((win 2 left).windowAt 0 2 = 2 ∧ (win 1 left).windowAt 0 2 = 1) ∧
      (after (.dramWindowBoundary 0 2) (win 2 left)).fld F.MC_STAT_OWED 0 = 0 ∧
      ((after (.dramWindowBoundary 0 2) (win 2 left)).chan 0).refDue = true ∧
      (after (.refreshIntervalDue 0) (s.setFld F.MC_STAT_OWED 3 0)).fld F.MC_STAT_OWED 0 = 4 ∧
      (after (.refreshIntervalDue 0) (s.setFld F.MC_STAT_OWED 4 0)).fld F.MC_STAT_OWED 0 = 4 ∧
      (after (.refreshIntervalDue 0) (left.setFld F.MC_STAT_OWED 4 0)).fld F.MC_STAT_OWED 0 = 5 ∧
      (let p := s.setChan 0 { s.chan 0 with pulled := 4 }
       0 < (p.chan 0).pulled ∧ (p.chan 0).pulled ≤ 4 ∧ (p.chan 0).nbr = [] ∧ (p.chan 0).mgmt = []) ∧
      (s.setFld F.MC_CFG_CAPG 16 0).popOk 0 = true ∧ (s.setFld F.MC_CFG_CAPG 15 0).popOk 0 = false := by
  decide +kernel

/-- A channel frozen after a metadata error, whose REPLAY rebuilds a line; frozen again; with the resynchronisation log full. -/
theorem test_metadata_freeze :
    let s := coreMem.setChan 0 { Chan.initial with trained := true }
    let z := after (.channelFreeze 0 ⟨.mdUncorrectable, 5⟩) s
    let r := after (.replay .keeper 0) z
    (z.chan 0).mdFix = some 5 ∧ (z.chan 0).inflight = none ∧ z.mirrored 0 = false ∧ z.fld F.MC_FRZSTAT_CAUSE 0 = 2 ∧
      ((r.chan 0).line 127).poison = 0xF ∧ ((r.chan 0).line 128).poison = 0 ∧ (r.chan 0).acting = some .replay ∧
      (((after (.channelFreeze 0 ⟨.caParity, 0⟩) z).chan 0).snap.map (fun q => q.more)) = some 1 ∧
      (z.setFld F.MC_FRZSTAT_RESYNCOVF 1 0).flag F.MC_FRZSTAT_RESYNCOVF 0 = true ∧
      (r.chan 0).defer = [] ∧ (r.chan (pairOf 0)).defer = [] ∧ r.fabric.held = [] ∧ (r.thread 512).await = none := by
  decide +kernel

/-- Node 1 whose TID 1 may send. -/
def node1Pays : State := (node1.setFld F.MAP_TQUOTA_Q2 0xFFFF 0 1).setFld F.MAP_TQUOTA_Q3 0xFFFF 0 1

/-- A request that is accepted; one without credit; a deferred one, whose line is busy until its frame comes. -/
theorem test_requests :
    let s := node1Pays
    let r := req .readReq
    let out := after (.fabricRequestIssue r) s
    let k : Packet := { pkt .response 2 1 with tag := s.fabric.nextTag }
    let put := after (.fabricResponseReceive k) out
    let big : Packet := { pkt .write 0 0 with dst := 2, len := 4096, cls := 2 }
    let full := s.setPort 0 { s.port 0 with egress := List.replicate 16 ⟨big, 255, false, none, 1, 0⟩ }
    s.judgeSource r (s.classify r).1 (s.classify r).2 = .accept 0 false ∧ (s.classify r).1 = 2 ∧ s.lineBusy r = false ∧
      put.lineBusy r = true ∧ out.fabric.outs.length = 1 ∧ full.judgeSource r (s.classify r).1 (s.classify r).2 = .credit 0 ∧
      put.fabric.outs.map (fun o => o.stand) = [.until_ (s.frame + 1)] ∧
      ((put.wr .CAD_FRAMECNT 1).tick.effectDue = false ∧ (put.wr .CAD_FRAMECNT 1).frame = s.frame + 1) := by
  decide +kernel

/-- A message of C0 whose turn in its flow has not come; one of two that leave in a free slot in the order of their classes; one
whose rest follows in the next slot. -/
theorem test_slots :
    let wk : Packet := { pkt .write 0 0 with dst := 2, len := 8, payload := [7] }
    let at_ := fun (ps : List Packet) => node1Pays.setPort 0 { Port.initial with egress := ps.map (fun p => ⟨p, 255, false, none, 1, 0⟩) }
    let big : Packet := { wk with len := 4096, payload := List.replicate 512 7, cls := 2 }
    let one := after (.slotBoundary 0 4) (at_ [{ wk with cls := 2 }])
    let two := after (.slotBoundary 0 4) (at_ [{ wk with cls := 3 }, { wk with cls := 2 }])
    let part := after (.slotBoundary 0 4) (at_ [big])
    let due := fun (admitted : Nat) => ({ node1Pays with cur := [(0x2_0004, 0xFF0035)] } : State).setPort 0
      { Port.initial with egress := [⟨{ wk with cls := 0, flow := 3 }, 255, false, some (0, admitted), 1, 0⟩] }
    one.out.length = 1 ∧ (one.port 0).egress = [] ∧ two.out.length = 2 ∧ (two.port 0).egress = [] ∧
      part.out = [] ∧ (part.port 0).sending.length = 1 ∧
      (after (.slotBoundary 0 4) (due 0)).out = [] ∧ ((due 0).port 0).took = [] := by
  decide +kernel

/-- The response and its reason that wait at port 0, and the input they came in at; 15 where there is none. -/
def answer (s : State) : Nat :=
  match (s.port 0).egress with | [w] => 1000 * w.pkt.resp.toNat + 100 * w.pkt.reason.toNat + w.inp % 100 | _ => 15

/-- Packets at node 1: of a reserved operation, for this node without a lease, with a bad payload, without a hop left, one that goes
on, and one at a port that a switch holds. -/
theorem test_arrivals :
    let s := node1Pays
    let got := fun (k : Packet) => answer (after (.packetReceive 0 (Hdr.encode k)) s)
    let wr : Packet := { pkt .write 0 0 with len := 8, payload := [5] }
    Hdr.ok (Hdr.encode wr) = true ∧ got { wr with op := .reserved 33 } = 3555 ∧ got wr = 3655 ∧ got { wr with bad := true } = 3655 ∧
      got { wr with dst := 2, hops := 0 } = 3655 ∧ got { wr with dst := 2 } = 0 ∧
      (let t := s.setLe 0 { LinkEng.initial with holding := true }
       ((after (.packetReceive 0 (Hdr.encode wr)) t).port 0).inq.length = 1) := by
  decide +kernel

/-- Lease entries and borrowed ranges that messages name, and services that are drained, ready and late. -/
theorem test_lease_messages :
    let s := node1Pays.setFld F.MAP_RCFG_V 1 0 0
    let b := (((s.setFld F.MAP_BORROWA_V 1 0 5).setFld F.MAP_BORROWA_SIZE 20 0 5).setFld F.MAP_BORROWA_LNODE 2 0 5).setFld F.MAP_BORROWB_BASE 1 0 5
    let l := ((((s.setFld F.MAP_LEASEA_V 1 0 3).setFld F.MAP_LEASEA_STATE 2 0 3).setFld F.MAP_LEASEA_SIZE 20 0 3).setFld
      F.MAP_LEASEA_BNODE 2 0 3).setFld F.MAP_LEASEB_BASE 1 0 3
    b.borrowNamed (pkt .recallNotice 0 0) = some 5 ∧ s.borrowNamed (pkt .recallNotice 0 0) = none ∧
      l.leaseNamed (pkt .drained 0 0) = some 3 ∧ s.leaseNamed (pkt .drained 0 0) = none ∧
      s.drained 2 0 = true ∧ s.routeTo 2 = some 0 ∧ (0 : Nat) < 32 ∧ ¬(3 = 0 ∨ 3 = 1 ∨ 3 = 2) := by
  decide +kernel

/-- A thread that awaits a load of link 0, by its commit point; a frame's pauses; a write that raises an interrupt. -/
theorem test_awaits :
    let a : Await := ⟨0, 0x100, 0x100, .load 5 3 true false false, true⟩
    let s := core0.setThread 0 { core0.thread 0 with await := some a }
    (s.thread 0).await = some a ∧ a.atCommit = true ∧ s.nextVec 0 false = none ∧
      core0.iraiseAt (BitVec.ofNat 64 (ctlBase + Reg.off .CL_IRAISE 0 0)) = some 0 ∧
      (pfcOf ⟨60, none, true, false, [0xBBAA010000C28001, 0x01010888FFEEDDCC, 0x0000000200010F00, 0x0005000400030002, 0, 0, 0, 0]⟩).isSome = true := by
  decide +kernel

/-- Port 0 receives on queue 0 and sends from it: the descriptor at 0x1000 names a buffer and a length of 60. -/
theorem test_ethernet_queue :
    let w := fun (sl : BitVec 44) (d : Superline) (s : State) => after (.superlineWrite 0 ⟨sl, 15, BitVec.allOnes 256, d, 0, false, false, 0, 0, .core 0⟩ .atOnce) s
    let m := w 16 (BitVec.ofNat 2048 (0x2000 + 2 ^ 64 * 60)) (coreMem.setChan 0 { Chan.initial with trained := true })
    let s := [(F.ENL_PWRCTL_STATE, 0, 71, 2), (F.LE_PORTCFG_EN, 0, 0, 1), (F.LE_PORTCFG_PERS, 0, 0, 2), (F.LE_PORTCFG_RATE, 0, 0, 2),
      (F.LE_PORTSTAT_STATE, 0, 0, 6), (F.LE_ETHQCTL_EN, 0, 0, 1), (F.LE_ETHQBASE_BASE, 0, 0, 1), (F.LE_ETHQPTR_TAIL, 0, 0, 3),
      (F.LE_ETHQCTL_EN, 0, 9, 1), (F.LE_ETHQBASE_BASE, 0, 9, 1), (F.LE_ETHQPTR_TAIL, 0, 9, 3)].foldl (fun (s : State) e => s.setFld e.1 e.2.2.2 e.2.1 e.2.2.1) m
    s.ethPort 0 = true ∧ s.ethOwns 0 0 = true ∧ s.ethNext 0 = some 9 ∧ s.ethDesc 0 9 = 0x1000 ∧ s.portHeld 0 = false ∧
      (s.ethRead 0 true (s.ethTid 0 9) 0x1000 16).1 = .got (0x2000 + 2 ^ 64 * 60) ∧ (s.port 0).sak = [] ∧ (s.port 0).rxAt = none := by
  decide +kernel

/-- A core that has entered S3; a prefetcher that asks for a line; a line in L2 alone; a full fill buffer; a region's granules. -/
theorem test_core_lines :
    let s := (coreMem.setChan 0 { Chan.initial with trained := true }).setFld F.ERR_CORESTAT_INSVC 255 0 0
    let t := s.setCore 0 { s.core 0 with train := [0x100] }
    let l2 := after (.coreMissFill 0 0x4000 .stream) t
    let e := (s.setFld F.CL_SLPCTL_ENTERING 1 0 0).setCore 0 { Core.initial with sleepTo := 3 }
    (after (.sleepEntryDone 0) e).fld F.CL_SLPCTL_STATE 0 0 = 3 ∧ (t.core 0).asks 0x100 = true ∧ (s.core 0).asks 0x100 = false ∧
      (s.rd .ERR_CORESTAT 0 0).getLsbD 0 = true ∧ l2.l1dHas 0 0x100 = false ∧ (l2.l2Find 0 0x100).isSome = true ∧
      ((after (.coreMissFill 0 0x4000 (.early 0)) l2).core 0).fillBuf = [⟨0, 0x100⟩] ∧ (l2.core 0).fillBuf.length < 16 ∧
      (s.lockGrans 0 0 1).1 = .locked ∧ (State.reset.lockGrans 0 0 1).1 = .stopped := by
  decide +kernel

/-- Ends of frames with their length, an account at its bound, a cap that a posting reaches, a metered window. -/
theorem test_frame_ends :
    let l : Ledger := { Ledger.initial with posted := 10 ^ 9, metered := 7, recalDue := true, act := [(5, 1000)] }
    let s : State := { State.reset with ledger := l }
    s.pexc * s.tf * 10 ≤ l.posted ∧ 0 < l.metered ∧ s.balance 5 - 1 ≥ -(2 ^ 39) ∧
      (after (.ledgerPosting []) s).flag F.ENL_STAT_FRAMECAP = true ∧
      (after (.ledgerPosting []) s).ledger.capNow = true ∧
      (let d := { s.board with dorm := .dormant, wakePend := true }
       (after .dormantWake { s with board := d }).board.dorm = .awake ∧ s.sec.erasing = false) := by
  decide +kernel

/-- An engine that owes its last job's miss; one whose miss has no memory, and one whose line comes in. -/
theorem test_misses :
    let m := coreMem.setChan 0 { Chan.initial with trained := true }
    let s := ((m.setFld F.ENL_PWRCTL_STATE 2 0 39).setFld F.CAD_STAT_RUN 1).setFld F.SE_STAT_STATE 1 0
    let at_ := fun (line : Nat) => s.setEngine 0 { Engine.initial with job := some job0, miss := [⟨line, 5, 9⟩] }
    let gone := after (.dramCacheFill 0) (at_ 0x1000_0000)
    let owes := s.setEngine 0 { Engine.initial with owed := some job0 }
    (at_ 0x1000_0000).space (BitVec.ofNat 64 (0x1000_0000 * 128)) = .nothing ∧ gone.rd .SE_FAULT 0 = 0x9_0057 ∧
      ((after (.dramCacheFill 0) (at_ 32)).engine 0).miss = [] ∧ ((after (.dramCacheFill 0) (at_ 32)).engine 0).cache ≠ [] ∧
      owes.engineUp 0 = true ∧ (owes.engine 0).owed.isSome = true ∧ (owes.engine 0).job = none ∧
      (∀ k, k < 4 → owes.jobKind 0 k ≠ 1 ∧ owes.jobBad 0 k = false) := by
  decide +kernel

/-- A channel of engine 0 that moves one row from its data memory to local memory. -/
theorem test_dma :
    let m := coreMem.setChan 0 { Chan.initial with trained := true }
    let j : Job := { job0 with wins := [BitVec.ofNat 64 (3 * 2 ^ 58 + 20 * 2 ^ 52), 0, 0, 0] }
    let s := (((m.setFld F.ENL_PWRCTL_STATE 2 0 39).setFld F.CAD_STAT_RUN 1).setEngine 0 { Engine.initial with job := some j, dmem := [(0, ⟨7, false⟩)] }).setFld
      F.SE_DMASHAPE_LEN 8 0 0
    let s := ((s.setFld F.SE_DMASHAPE_ROWS 1 0 0).wr .SE_DMASRC (BitVec.ofNat 64 (dmemAperture 0)) 0 0).wr .SE_DMADST 0x1000 0 0
    let g := after (.dmaGo 0 0) s
    g.flag F.SE_DMACTL_BUSY 0 0 = true ∧ g.dmaOuts 0 0 = false ∧
      ((mget (g.engine 0).dma 0).map (fun d => (g.dmaMoves 0 0 d (g.dmaPieces 0 d 256).1 (g.dmaPieces 0 d 256).2).1)) = some .moved ∧
      (after (.dmaDone 0 0) g).flag F.SE_DMACTL_BUSY 0 0 = false ∧ (after (.dmaStop 0 0) g).fld F.SE_DMACTL_ERRCODE 0 0 = 5 := by
  decide +kernel

/-- A timer that loads, one that expires with a pulse, one with a toggle. -/
theorem test_timer :
    let s := (eng0.setFld F.SG_TMRCTL_EN 1 0 2).setFld F.SG_TMRCNT_RELOAD 9 0 2
    let started := ({ s with tick := { s.tick with started := true } } : State).setGroup 0 { Group.initial with start := [(2, none)] }
    let out := (((s.setFld F.SG_TMRCTL_OUTEN 1 0 2).setFld F.SG_TMRCTL_PIN 3 0 2).wr .SG_TIODRV 8 0).setGroup 0 { Group.initial with count := [(2, 0)] }
    mget ((after (.timerLoad 0 2) started).group 0).count 2 = some 9 ∧
      (after (.timerExpiry 0 2) out).board.tioOut = 8 ∧
      (after (.timerExpiry 0 2) (out.setFld F.SG_TMRCTL_OUTACT 1 0 2)).out = [.pulse 3] := by
  decide +kernel

/-- A branch slot, a loop's last bundle, an annulled bundle; an event that EVTAKE takes and a capture; a job that may end. -/
theorem test_control :
    let x := eng0Runs.engine 0
    let e := fun (y : Engine) => eng0Runs.setEngine 0 y
    let capt := (eng0Runs.wr .SE_EVPEND 0x100 0).setGroup 0 { Group.initial with fifo := [(0, [⟨5, 6, true⟩])] }
    ((e { x with slots := 1, redirect := some 77 }).engine 0).slots = 1 ∧
      ((after (.seMov 0 .a 0 (some 0)) (e { x with slots := 1, redirect := some 77, annul := true })).engine 0).pc = 77 ∧
      ((after (.seMov 0 .a 0 (some 0)) (e { x with loc := [(0x0C, 1), (4, 0), (8, 3), (0, 9)] })).engine 0).pc = 9 ∧
      (capt.evPend 0).testBit 8 = true ∧ mgetD (capt.group 0).fifo 0 [] = [⟨5, 6, true⟩] ∧ (256 : Nat) / 256 = 1 ∧
      ((after (.seEvtake 0 .b 0x80000 (some 0)) capt).group 0).fifo = [] ∧
      (after (.seJend 0 .b 0 (some 0)) eng0Runs).fld F.SE_LASTJOB_RESULT 0 = 1 ∧
      ((after (.seJend 0 .b 0 (some 0)) (eng0Runs.setFld F.SE_DMACTL_BUSY 1 0 0)).engine 0).held = true := by
  decide +kernel

/-- A load of engine 0 through window 0 that misses its line. -/
theorem test_load_miss :
    let m := coreMem.setChan 0 { Chan.initial with trained := true }
    let j : Job := { job0 with wins := [BitVec.ofNat 64 (3 * 2 ^ 58 + 20 * 2 ^ 52), 0, 0, 0] }
    let s := ((m.setFld F.ENL_PWRCTL_STATE 2 0 39).setFld F.CAD_STAT_RUN 1).setFld F.SE_STAT_STATE 1 0
    let s := s.setEngine 0 { Engine.initial with job := some j, p := [(0, 0x8000_1000)] }
    dramAddr j.wins 0x8000_1000 = 0x1000 ∧ (s.engine 0).ecFind 32 = none ∧
      ((after (.seLdw 0 .ld0 0 (some 0)) s).engine 0).miss = [⟨32, slotIdx .ld0, 0⟩] := by
  decide +kernel

/-- A Keep word that is worn and one at its last write; a full queue with a write that waits; a request lost for a thread and for an
engine; an engine's slice with a spare. -/
theorem test_ras_ends :
    let s := State.reset
    let full : State := { s with keepQ := List.replicate 16 (3, 5) }
    ({ s with kwcnt := [(7, 1000000)] } : State).keepWorn 7 = true ∧ ({ s with kwcnt := [(7, 999999)] } : State).keepCount 7 + 1 = 1000000 ∧
      (after (.keepWordWrite .keeper 7 9) full).board.keepWait = [(.keeper, 7, 9)] ∧
      ((after .keepWritePersisted ({ s with keepQ := [(3, 5)], board := { s.board with keepWait := [(.keeper, 7, 9)] } })).keepRd 7 = 9) ∧
      (let a : Await := ⟨0, 0x100, 0x100, .load 5 3 true false false, true⟩
       let t := core0.setThread 0 { core0.thread 0 with await := some a }
       (t.thread 0).await = some a ∧ t.nextVec 0 false = none) ∧
      (let t := eng0.setEngine 3 { Engine.initial with job := some job0, miss := [⟨1, 2, 3⟩] }
       (t.engine 3).miss ≠ [] ∧ (t.engine 3).job.isSome = true) := by
  decide +kernel

/-- Each zeroize wire with the other; a discrepancy before and at its limit; an erase whose end starts the device or leaves it off. -/
theorem test_erase :
    let s := State.reset
    let one := s.setSec { s.sec with wireA := true, zrun := some (0, 10) }
    let er := (s.setFld F.KPR_SUPSTAT_REFA_OK 1).setSec { s.sec with erasing := true }
    let off := { er with keep := mput er.keep 4 0x100000 }
    (after (.zeroizeWireAssert .b) one).sec.erasing = true ∧ (after (.zeroizeWireRelease .a) one).sec.zrun = none ∧
      (after .level3EraseDone er).board.romReady = true ∧ (after .level3EraseDone er).sec.haltedOff = false ∧
      off.keepFld 4 20 20 = 1 ∧ (after .level3EraseDone off).sec.haltedOff = true := by
  decide +kernel

/-- An image that verifies into Keeper's RAM, one that does not, and a wait for the TRNG that its refill ends. -/
theorem test_image :
    let i : Image := ⟨true, 1, true, 0, 9, 0, 255, 0, true, true, 16, true, [0x1122334455667788, 0x99AABBCCDDEEFF00]⟩
    let s := (State.reset.setSec { State.reset.sec with verifying := true }).wr .THS_IMGDST 0x10_0000
    (s.imgDest (s.rd .THS_IMGDST)).isSome = true ∧ (after (.imageVerifyDone { i with sigOk := false }) s).fld F.THS_IMGSTAT_RESULT ≠ 1 ∧
      ((State.reset.setSec { State.reset.sec with trngFull := false, trngWait := [(.keeper, false)] }).thread 512).await = none ∧
      (after .trngRefill (State.reset.setSec { State.reset.sec with trngFull := false, trngWait := [(.keeper, false)] })).sec.trngWait = [] := by
  decide +kernel

/-- Threads that a debug session with the scope halts: running, waiting, off, and within an interrupt entry. -/
theorem test_halts :
    let s : State := { core0 with board := { core0.board with session := some 31 } }
    let e : State := { s with entering := [(0, ⟨9, 5, true⟩)] }
    s.scope 2 = true ∧ core0.scope 2 = false ∧ akz32 0 = false ∧ (s.thread 0).run = .running ∧ mget s.entering 0 = none ∧
      mget e.entering 0 = some ⟨9, 5, true⟩ ∧ ((after (.haltThread 0) s).thread 0).run = .halted ∧
      (after (.haltThread 0) e).entering = [] ∧ ((after (.haltThread 0) e).thread 0).pc = 0x4240 ∧
      ((after (.releaseThread 0) (after (.haltThread 0) s)).thread 0).run = .running := by
  decide +kernel

/-- A vector that is selected on thread 0, and one that ranks above it when it is raised. -/
theorem test_takeover :
    let s : State := { fields [(F.ENL_PWRCTL_STATE, 0, 7, 2), (F.CL_IVCFG_PRIO, 0, 9, 5), (F.CL_IVCFG_PRIO, 0, 3, 7)] with entering := [(0, ⟨9, 5, false⟩)] }
    let s := s.setThread 0 { Thread.initial 0 with run := .running, priv := .u }
    mget (after (.raiseInterrupt .keeper 0 3) s).entering 0 = some ⟨3, 7, false⟩ ∧
      mget (after (.interruptEntry 0 .latch) s).entering 0 = none := by
  decide +kernel

/-! ### The package (R468, R477, R479) -/

/-- The ball map's worked examples and the corner balls: P143 at DV83, DV84, DN83 and DN84; MC05 from row CA, 58; A1 and EA96; the
excerpt's P001 and P036; every ball is counted. -/
theorem test_balls :
    serdesBall 143 false false = ⟨93, 83⟩ ∧ rowName 93 = "DV" ∧ serdesBall 143 false true = ⟨93, 84⟩ ∧
      serdesBall 143 true false = ⟨89, 83⟩ ∧ rowName 89 = "DN" ∧ channelBalls 5 = ⟨58, 1⟩ ∧ rowName 58 = "CA" ∧
      rowName 66 = "CJ" ∧ rowName 1 = "A" ∧ rowName 96 = "EA" ∧ serdesBall 1 false false = ⟨2, 15⟩ ∧ rowName 2 = "B" ∧
      serdesBall 36 true true = ⟨8, 14⟩ ∧ rowName 8 = "H" ∧ (ballCounts.map (fun e => e.2)).sum = 96 * 96 := by
  decide +kernel

/-- The supply table at its bounds: 8 %, 15 %, 0.5 ns and 5 ns. -/
theorem test_supply_table :
    supplyMonitor .vinCore true 80 1000 = .nothing ∧ supplyMonitor .vinCore true 81 20 = .nothing ∧
      supplyMonitor .vinCore true 81 21 = .fault ∧ supplyMonitor .vinCore true 151 1 = .nothing ∧
      supplyMonitor .vinCore true 151 2 = .glitch ∧ supplyMonitor .vio true 151 20 = .nothing ∧ supplyMonitor .vio true 151 21 = .fault := by
  decide +kernel
end Sys2Proof.Tests
end

section
/-! PROOFS. Control-space accesses (R2 to R11, R459): what a read and a write of a register do, said once for every command that
makes one, and the obligations about them. -/

namespace Sys2Proof.Proofs.ControlSpace

open Sys2Proof.Machine Sys2Proof.Safety Sys2Proof.Laws

variable {s : State} {m : Master} {off b i : Nat} {r : Reg}

/-! ### The commands -/

theorem exec_registerWrite (m : Master) (off : BitVec 40) (v : Word) (s : State) :
    exec (.registerWrite m off v) s = .next (s.ctlWrite m off.toNat v) := rfl

theorem exec_rcRegisterRead (m : Master) (off : BitVec 40) (s : State) :
    exec (.rcRegisterRead m off) s = .next (s.readTo m off.toNat false) := rfl

theorem exec_debugRead (off : BitVec 40) (s : State) :
    exec (.debugRead off) s = .next (s.readTo .debug off.toNat false) := rfl

theorem exec_quietDebugRead (off : BitVec 40) (s : State) :
    exec (.quietDebugRead off) s = .next (s.readTo .debug off.toNat true) := rfl

theorem exec_mailboxDoneRead (m : Master) (s : State) :
    exec (.mailboxDoneRead m) s = .next (s.readTo m (Reg.KPR_MBOXDB.off 0 0) false) := rfl

/-! ### Writes (R7, R8, R10) -/

theorem keeperOnly_of_mem_plainRegs : ∀ r ∈ plainRegs, keeperOnly r = false := by decide

/-- A register without a rule of its own takes the write of its access types, unless an encoding is reserved: every arm of
the table of rules but the last names a register that is not plain. -/
theorem regWrite_of_mem_plainRegs (hr : r ∈ plainRegs) {v : Word} (hv : regReserved r b v = false) :
    s.regWrite m r b i v = s.plainWrite r b i v := by
  have hk : ¬(keeperOnly r = true ∧ m ≠ .keeper) := by simp [keeperOnly_of_mem_plainRegs r hr]
  have hv' : ¬regReserved r b v = true := by simp [hv]
  unfold State.regWrite
  rw [if_neg hk, if_neg hv']
  split
  rotate_right
  · rfl
  all_goals exact absurd hr (by decide)

/-- A permitted write of a plain register whose domain is on. -/
theorem ctlWrite_plain (hm : MayWrite s m) (hp : ctlPlace off = .reg r b i) (hr : r ∈ plainRegs)
    (hon : s.winOn r.row.win b = true) {v : Word} (hv : regReserved r b v = false) :
    s.ctlWrite m off v = s.plainWrite r b i v := by
  have hpl : s.placeOn (ctlPlace off) = true := by rw [hp]; exact hon
  unfold State.ctlWrite
  rw [gate_of hm, if_pos hpl, hp]
  exact regWrite_of_mem_plainRegs hr hv

/-- A permitted write where no register answers. -/
theorem ctlWrite_noRegister (hm : MayWrite s m) (hp : s.placeOn (ctlPlace off) = false) (v : Word) :
    s.ctlWrite m off v = s.ctlErr m true .noRegister off := by
  unfold State.ctlWrite
  rw [gate_of hm, if_neg (by simp [hp])]

theorem rd_plainWrite (s : State) (r : Reg) (b i : Nat) (v : Word) :
    (s.plainWrite r b i v).rd r b i = ((s.rd r b i &&& ~~~r.row.rw) ||| (v &&& r.row.rw)) &&& ~~~(v &&& r.row.w1c) :=
  rd_wr_self ..

theorem plainWrite_only (s : State) (r : Reg) (b i : Nat) (v : Word) : OnlyRegs s (s.plainWrite r b i v) [r.off b i] :=
  wr_only ..

/-! ### Reads (R10, R459) -/

/-- A permitted read of a register that shows what it holds. -/
theorem ctlRead_reg (hm : MayRead s m) (hp : ctlPlace off = .reg r b i) (hr : r ≠ .THS_TRNG) (hon : s.winOn r.row.win b = true)
    (hk : keeperOnly r = true → m = .keeper) (hsh : s.shows r b i = (s.rd r b i, s)) (quiet : Bool) :
    s.ctlRead m off quiet = (.data (s.rd r b i) false, if quiet then s else s.rcClear r b i) := by
  have hscope : ¬(m = .debug ∧ (!s.scope 0) = true) := fun h => by simp [hm.2 h.1] at h
  have hpl : ¬(!s.placeOn (.reg r b i)) = true := by simp [State.placeOn, hon]
  have hk' : ¬(keeperOnly r = true ∧ m ≠ .keeper) := fun h => h.2 (hk h.1)
  unfold State.ctlRead
  simp only [hp]
  rw [if_neg hscope, if_neg hpl]
  unfold State.readPlace
  split
  next h => cases h; exact absurd rfl hr
  next h => cases h; rw [if_neg hk', hsh]
  all_goals (next h => cases h)

/-- Data without poison goes to the master that reads. -/
theorem readTo_of_data (hl : s.live = true) {quiet : Bool} {v : Word} {s1 : State}
    (h : s.ctlRead m off quiet = (.data v false, s1)) : s.readTo m off quiet = s1.emit (.read m off v) := by
  unfold State.readTo
  rw [if_neg (by simp [hl]), h]

theorem rd_rcClear (s : State) (r : Reg) (b i : Nat) :
    (s.rcClear r b i).rd r b i = (s.rd r b i &&& ~~~r.row.rc) ||| (r.reset i &&& r.row.rc) := by
  unfold State.rcClear
  dsimp only
  split
  next h => rw [h, BitVec.ofNat_eq_ofNat, BitVec.not_zero, BitVec.and_allOnes, BitVec.and_zero, BitVec.or_zero]
  next => exact rd_wr_self ..

@[simp] theorem rcClear_out (s : State) (r : Reg) (b i : Nat) : (s.rcClear r b i).out = s.out := by
  unfold State.rcClear
  dsimp only
  split <;> rfl

theorem rcClear_only (s : State) (r : Reg) (b i : Nat) : OnlyRegs s (s.rcClear r b i) [r.off b i] := by
  unfold State.rcClear
  dsimp only
  split
  · exact OnlyRegs_refl ..
  · exact wr_only ..

/-- The command gives a register's value to the master and returns its RC bits to their reset values; nothing else differs. -/
def ReadClears (c : Instr) (s : State) (m : Master) (off : Nat) (r : Reg) (b i : Nat) : Prop :=
  ∃ s', exec c s = .next s' ∧ s'.out = s.out ++ [.read m off (s.rd r b i)] ∧
    s'.rd r b i = (s.rd r b i &&& ~~~r.row.rc) ||| (r.reset i &&& r.row.rc) ∧
    RegsBut s s' [r.off b i] ∧ { s' with regs := s.regs, out := s.out } = s

/-- Every command that reads a register this way clears its RC bits. -/
theorem readClears_of {c : Instr} (hc : exec c s = .next (s.readTo m off false)) (hm : MayRead s m)
    (hp : ctlPlace off = .reg r b i) (hr : r ≠ .THS_TRNG) (hon : s.winOn r.row.win b = true)
    (hk : keeperOnly r = true → m = .keeper) (hsh : s.shows r b i = (s.rd r b i, s)) : ReadClears c s m off r b i := by
  have hdata : s.readTo m off false = (s.rcClear r b i).emit (.read m off (s.rd r b i)) :=
    readTo_of_data hm.1 (ctlRead_reg hm hp hr hon hk hsh false)
  obtain ⟨hregs, hrest⟩ := rcClear_only s r b i
  refine ⟨_, hc.trans (congrArg _ hdata), ?_, rd_rcClear s r b i, hregs, ?_⟩
  · rw [emit_out, rcClear_out]
  · exact congrArg (fun z : State => { z with out := s.out }) hrest

/-! ### The mailbox doorbell (R455) -/

theorem ctlPlace_mailbox : ctlPlace (Reg.KPR_MBOXDB.off 0 0) = .reg .KPR_MBOXDB 0 0 := by decide

/-- DONE is the one RC bit of KPR_MBOXDB, and it resets to 0. -/
theorem rcBits_mailbox (w : Word) :
    (w &&& ~~~Reg.KPR_MBOXDB.row.rc) ||| (Reg.KPR_MBOXDB.reset 0 &&& Reg.KPR_MBOXDB.row.rc) = w &&& ~~~0x20000#64 := by
  show (w &&& ~~~0x20000#64) ||| (0#64 &&& 0x20000#64) = _
  rw [BitVec.zero_and, BitVec.or_zero]

/-! ### The holding register of a pair (R4 to R6) -/

theorem akzMaster_ne_debug (k : Akz32) : akzMaster k ≠ .debug := by cases k <;> decide

@[simp] theorem setHalf_live (s : State) (k : Akz32) (h : Holding) : (s.setHalf k h).live = s.live := by cases k <;> rfl

@[simp] theorem setHalf_rd (s : State) (k : Akz32) (h : Holding) (r : Reg) (b i : Nat) :
    (s.setHalf k h).rd r b i = s.rd r b i := by cases k <;> rfl

@[simp] theorem setHalf_winOn (s : State) (k : Akz32) (h : Holding) (w : Win) (b : Nat) :
    (s.setHalf k h).winOn w b = s.winOn w b := by cases k <;> rfl

@[simp] theorem setHalf_out (s : State) (k : Akz32) (h : Holding) : (s.setHalf k h).out = s.out := by cases k <;> rfl

@[simp] theorem half_setHalf (s : State) (k : Akz32) (h : Holding) : (s.setHalf k h).half k = h := by cases k <;> rfl

@[simp] theorem half_emit (s : State) (k : Akz32) (o : Out) : (s.emit o).half k = s.half k := by cases k <;> rfl

/-- A pair may write whenever the block answers. -/
theorem mayWrite_pair (hl : s.live = true) (k : Akz32) : MayWrite s (akzMaster k) :=
  ⟨hl, fun h => absurd h (akzMaster_ne_debug k)⟩

theorem regOff_of_aligned {off : BitVec 40} (h : off.toNat % 8 = 0) : regOff off = off.toNat := by
  unfold regOff
  omega

section Commands

variable {k : Akz32} {off : BitVec 40} (hl : s.live = true) (ha : off.toNat % 8 = 0)

include hl ha

theorem exec_lowWordWrite (v : BitVec 32) :
    exec (.akz32LowWordWrite k off v) s = .next (s.setHalf k (.staged off.toNat v)) := by
  rw [← regOff_of_aligned ha]
  exact congrArg _ (if_pos hl)

theorem exec_highWordWrite (v : BitVec 32) :
    exec (.akz32HighWordWrite k off v) s = .next (s.highWrite k off.toNat v) := by
  rw [← regOff_of_aligned ha]
  exact congrArg _ (if_pos hl)

theorem exec_highWordRead :
    exec (.akz32HighWordRead k off) s =
      .next ((s.highRead k off.toNat).2.emit (.half k (s.highRead k off.toNat).1)) := by
  rw [← regOff_of_aligned ha]
  exact congrArg _ (if_neg (by simp [hl]))

/-- A low word whose register reads without poison goes to the pair. -/
theorem exec_lowWordRead {v : Word} {s1 : State} (h : s.lowRead k off.toNat = (.data v false, s1)) :
    exec (.akz32LowWordRead k off) s = .next (s1.emit (.half k (v.setWidth 32))) := by
  show execAkz32LowWordRead k off s = _
  unfold execAkz32LowWordRead
  rw [if_neg (by simp [hl]), regOff_of_aligned ha, h]

end Commands

/-- The high word commits the low word that is staged for its register. -/
theorem highWrite_staged {k : Akz32} {lo : BitVec 32} (h : s.half k = .staged off lo) (hi : BitVec 32) :
    s.highWrite k off hi = (s.setHalf k .empty).ctlWrite (akzMaster k) off (hi ++ lo) := by
  unfold State.highWrite
  simp only [h, if_true]

theorem highWrite_empty {k : Akz32} (h : s.half k = .empty) (hi : BitVec 32) :
    s.highWrite k off hi = s.ctlErr (akzMaster k) true .akz32 (off + 4) := by
  unfold State.highWrite
  simp only [h]

/-- A read of the low word keeps the high word, where no word is staged. -/
theorem lowRead_of_data {k : Akz32} (hst : ∀ o w, s.half k ≠ .staged o w) {v : Word} {s1 : State}
    (h : s.ctlRead (akzMaster k) off false = (.data v false, s1)) :
    s.lowRead k off = (.data v false, s1.setHalf k (.kept off ((v >>> 32).setWidth 32))) := by
  unfold State.lowRead
  cases hh : s.half k with
  | empty => simp only [h]
  | staged o w => exact absurd hh (hst o w)
  | kept o w => simp only [h]

theorem highRead_kept {k : Akz32} {v : BitVec 32} (h : s.half k = .kept off v) :
    s.highRead k off = (v, s.setHalf k .empty) := by
  unfold State.highRead
  simp only [h, if_true]

theorem highRead_empty {k : Akz32} (h : s.half k = .empty) :
    s.highRead k off = (0, s.ctlErr (akzMaster k) false .akz32 (off + 4)) := by
  unfold State.highRead
  simp only [h]

end Sys2Proof.Proofs.ControlSpace

namespace Sys2Proof.Proofs

open Sys2Proof.Machine Sys2Proof.Safety Sys2Proof.Laws Sys2Proof.Proofs.ControlSpace

/-! ### The obligations -/

/-- Settles O34: a plain register takes the write of its access types, and a write where no register answers is an error. -/
theorem registerWritesFollowAccessTypes : Obligations.RegisterWritesFollowAccessTypes := by
  intro m off v s hm
  constructor
  · intro r b i hp hr hon hv
    refine ⟨s.plainWrite r b i v, ?_, rd_plainWrite s r b i v, plainWrite_only s r b i v⟩
    rw [exec_registerWrite, ctlWrite_plain hm hp hr hon hv]
  · intro hoff
    apply writeRefused_of m .noRegister
    rw [exec_registerWrite, ctlWrite_noRegister hm hoff]

/-- Settles O35: each of the four commands is one read of control space, which clears the RC bits unless it is quiet. -/
theorem registerReadsClearRcBits : Obligations.RegisterReadsClearRcBits := by
  intro m off r b i s hp hr hon hsh
  refine ⟨fun hm hk => ?_, fun hm hk => ⟨?_, ?_⟩, fun hm => ?_⟩
  · exact readClears_of (exec_rcRegisterRead m off s) hm hp hr hon hk hsh
  · exact readClears_of (exec_debugRead off s) hm hp hr hon (by simp [hk]) hsh
  · rw [exec_quietDebugRead, readTo_of_data hm.1 (ctlRead_reg hm hp hr hon (by simp [hk]) hsh true)]
    rfl
  · obtain ⟨s', hx, hout, hrd, hregs, hrest⟩ : ReadClears (.mailboxDoneRead m) s m _ .KPR_MBOXDB 0 0 :=
      readClears_of (exec_mailboxDoneRead m s) hm ctlPlace_mailbox (by decide) rfl nofun rfl
    exact ⟨s', hx, hout, hrd.trans (rcBits_mailbox _), hregs, hrest⟩

/-- Settles O36: clause by clause, what the holding register answers to each half-word command. -/
theorem halfWordsMakeOneAccess : Obligations.HalfWordsMakeOneAccess := by
  intro k off lo hi s hl ha
  have hl' : (s.setHalf k .empty).live = true := by rw [setHalf_live, hl]
  refine ⟨exec_lowWordWrite hl ha lo, fun hst => ?_, fun he => ?_, fun v s1 hst hrd => ?_, fun v hkept => ?_, fun he => ?_⟩
  · refine ⟨(s.setHalf k .empty).ctlWrite (akzMaster k) off.toNat (hi ++ lo), ?_, exec_registerWrite .., ?_⟩
    · rw [exec_highWordWrite hl ha, highWrite_staged hst]
    · intro r b i hp hr hon hv
      rw [ctlWrite_plain (mayWrite_pair hl' k) hp hr (by rw [setHalf_winOn, hon]) hv, rd_plainWrite, setHalf_rd]
      exact ⟨rfl, plainWrite_only ..⟩
  · apply writeRefused_of (akzMaster k) .akz32
    rw [exec_highWordWrite hl ha, highWrite_empty he]
  · refine ⟨_, exec_lowWordRead hl ha (lowRead_of_data hst hrd), ?_, ?_, ?_⟩
    · rw [half_emit, half_setHalf]
    · rw [emit_out, setHalf_out]
    · cases k <;> rfl
  · rw [exec_highWordRead hl ha, highRead_kept hkept]
  · refine ⟨_, s.ctlErr (akzMaster k) false .akz32 (off.toNat + 4), ?_, rfl, ctlErrAt_logged s _ false .akz32 _ (stopOf_lt _)⟩
    rw [exec_highWordRead hl ha, highRead_empty he]

end Sys2Proof.Proofs
end

section
/-! PROOFS. Frames and ticks (R18, R21, R33, R47, R48), the plan and its seal (R36 to R40, R49), and the Cadence pair (R44, R453):
what each command's operation does, said once, and the obligations about them. -/

namespace Sys2Proof.Proofs.FrameTick

open Sys2Proof.Machine Sys2Proof.Safety Sys2Proof.Laws

variable {s : State} {m : Master}

/-! ### Bits and fields -/

/-- A field is unchanged by a mask that holds all its bits. -/
theorem getBits_and_of_mask (w : Word) {k : Word} {hi lo : Nat} (hk : ∀ i < hi + 1 - lo, k.getLsbD (lo + i) = true) :
    getBits (w &&& k) hi lo = getBits w hi lo := by
  apply Nat.eq_of_testBit_eq
  intro i
  rw [testBit_getBits, testBit_getBits, BitVec.getLsbD_and]
  by_cases hi' : i < hi + 1 - lo
  · rw [hk i hi', Bool.and_true]
  · simp [hi']

/-- A flag that was set. -/
theorem flag_setFld_self (s : State) (f : Fld) (v b i : Nat) (hlo : f.lo ≤ f.hi) (hhi : f.hi < 64) :
    (s.setFld f v b i).flag f b i = v.testBit 0 := by
  unfold State.flag State.setFld
  rw [rd_wr_self, bitOf_setBits _ _ _ _ _ (by omega), if_pos (by omega), Nat.sub_self]

/-- A flag outside a field of its register that was set. -/
theorem flag_setFld_field (s : State) (f g : Fld) (v b i : Nat) (hr : g.reg = f.reg) (h64 : g.lo < 64)
    (hd : g.lo < f.lo ∨ f.hi < g.lo) : (s.setFld f v b i).flag g b i = s.flag g b i := by
  unfold State.flag State.setFld
  rw [hr, rd_wr_self, bitOf_setBits _ _ _ _ _ h64, if_neg (by omega)]

theorem testBit_b2n (b : Bool) : (b2n b).testBit 0 = b := by cases b <;> rfl

/-- Two updates, each of one register. -/
theorem onlyRegs_pair {s1 s2 : State} {a b : Nat} (h : OnlyRegs s s1 [a]) (h' : OnlyRegs s1 s2 [b]) : OnlyRegs s s2 [a, b] :=
  OnlyRegs_trans (OnlyRegs_mono h (by simp)) (OnlyRegs_mono h' (by simp))

/-- A register at another offset than the field that was set. -/
theorem rd_setFld_ne (s : State) (f : Fld) (v b i : Nat) (r : Reg) (b' i' : Nat) (h : r.off b' i' ≠ f.reg.off b i) :
    (s.setFld f v b i).rd r b' i' = s.rd r b' i' := rd_wr_ne _ _ _ _ _ _ _ _ h

/-! ### A write of a register with a rule of its own (R7, R458) -/

/-- A write that its master may make reaches a register whose domain is on. -/
theorem ctlW_of (hm : MayWrite s m) {r : Reg} {b : Nat} (hon : s.winOn r.row.win b = true) (i : Nat) (f : State → State) :
    s.ctlW m r b i f = f s := by
  have hscope : ¬(m = .debug ∧ (!s.scope 1) = true) := fun h => by simp [hm.2 h.1] at h
  unfold State.ctlW
  rw [if_neg (by simp [hm.1]), if_neg hscope, if_pos hon]

section Commands

variable (hm : MayWrite s m)

include hm

theorem exec_startLocalTick : exec (.startLocalTick m) s = .next (s.actCadCtrl 1) := congrArg _ (ctlW_of hm rfl 0 _)

theorem exec_setAcquire (on : Bool) : exec (.setAcquire m on) s = .next (s.actCadCtrl (if on then 2 else 0)) :=
  congrArg _ (ctlW_of hm rfl 0 _)

theorem exec_cadFramesetWrite (v : Word) : exec (.cadFramesetWrite m v) s = .next (s.actFrameset m v) :=
  congrArg _ (ctlW_of hm rfl 0 _)

theorem exec_cadTimingNextWrite (v : Word) : exec (.cadTimingNextWrite m v) s = .next (s.actTimingNext m v) :=
  congrArg _ (ctlW_of hm rfl 0 _)

theorem exec_armTimingChange (v : Word) : exec (.armTimingChange m v) s = .next (s.actTimingAt m v) :=
  congrArg _ (ctlW_of hm rfl 0 _)

theorem exec_cancelTimingChange : exec (.cancelTimingChange m) s = .next (s.actTimingAt m 0) :=
  congrArg _ (ctlW_of hm rfl 0 _)

theorem exec_cadSeal (v : Word) : exec (.cadSeal m v) s = .next (s.actSeal v) := congrArg _ (ctlW_of hm rfl 0 _)

/-- A plan-table write at a word of a table. -/
theorem exec_planTableWrite {off : BitVec 24} {t i : Nat} {img : Bool} (hp : planAt off.toNat = some (t, i, img))
    (ha : off.toNat % 8 = 0) (v : Word) :
    exec (.planTableWrite m off v) s = .next (s.actPlan m (0x0100_0000 + off.toNat) t i img v) := by
  show execPlanTableWrite m off v s = _
  unfold execPlanTableWrite
  simp only [gate_of hm, hp, ha, if_true]

end Commands

/-! ### CAD_CTRL (R47) -/

/-- A write sets RUN, ACQUIRE and CAD_STAT.RUN, and besides them can change the tick alone. -/
theorem actCadCtrl_eq (s : State) (v : Word) : ∃ t, s.actCadCtrl v =
    (((s.setFld F.CAD_CTRL_RUN (b2n (s.flag F.CAD_CTRL_RUN || bitOf v 0))).setFld F.CAD_CTRL_ACQUIRE
      (b2n (bitOf v 1 && !(s.flag F.CAD_CTRL_RUN || bitOf v 0)))).setFld F.CAD_STAT_RUN
      (b2n (s.flag F.CAD_CTRL_RUN || bitOf v 0))).setTick t := by
  unfold State.actCadCtrl
  dsimp only
  split
  · exact ⟨s.tick, rfl⟩
  · exact ⟨_, rfl⟩

theorem flag_setTick (s : State) (t : Tick) (f : Fld) (b i : Nat) : (s.setTick t).flag f b i = s.flag f b i := rfl

/-- RUN is never cleared. -/
theorem actCadCtrl_run (s : State) (v : Word) :
    (s.actCadCtrl v).flag F.CAD_CTRL_RUN = (s.flag F.CAD_CTRL_RUN || bitOf v 0) := by
  obtain ⟨t, e⟩ := actCadCtrl_eq s v
  rw [e, flag_setTick, flag_setFld_ne _ _ _ _ _ _ _ _ (by decide),
    flag_setFld_field _ F.CAD_CTRL_ACQUIRE F.CAD_CTRL_RUN _ _ _ rfl (by decide) (by decide),
    flag_setFld_self _ _ _ _ _ (by decide) (by decide), testBit_b2n]

/-- ACQUIRE is 0 once RUN is set. -/
theorem actCadCtrl_acquire (s : State) (v : Word) :
    (s.actCadCtrl v).flag F.CAD_CTRL_ACQUIRE = (bitOf v 1 && !(s.flag F.CAD_CTRL_RUN || bitOf v 0)) := by
  obtain ⟨t, e⟩ := actCadCtrl_eq s v
  rw [e, flag_setTick, flag_setFld_ne _ _ _ _ _ _ _ _ (by decide), flag_setFld_self _ _ _ _ _ (by decide) (by decide), testBit_b2n]

theorem actCadCtrl_statRun (s : State) (v : Word) :
    (s.actCadCtrl v).flag F.CAD_STAT_RUN = (s.flag F.CAD_CTRL_RUN || bitOf v 0) := by
  obtain ⟨t, e⟩ := actCadCtrl_eq s v
  rw [e, flag_setTick, flag_setFld_self _ _ _ _ _ (by decide) (by decide), testBit_b2n]

/-- Of the registers only CAD_CTRL and CAD_STAT change, and of the rest only the tick. -/
theorem actCadCtrl_only (s : State) (v : Word) :
    RegsBut s (s.actCadCtrl v) [Reg.off .CAD_CTRL 0 0, Reg.off .CAD_STAT 0 0] ∧
      { s.actCadCtrl v with regs := s.regs, tick := s.tick } = s := by
  obtain ⟨t, e⟩ := actCadCtrl_eq s v
  rw [e]
  exact ⟨(onlyRegs_pair (OnlyRegs_trans (setFld_only s F.CAD_CTRL_RUN ..) (setFld_only _ F.CAD_CTRL_ACQUIRE ..))
    (setFld_only _ F.CAD_STAT_RUN ..)).1, rfl⟩

/-! ### The timing registers (R18, R21, R33, R48) -/

theorem actFrameset_of_not_run (hr : s.flag F.CAD_CTRL_RUN = false) (v : Word) :
    s.actFrameset m v = s.setTick { s.tick with frameSet := v } := by
  unfold State.actFrameset
  rw [if_neg (by simp [hr])]

theorem actFrameset_of_run (hr : s.flag F.CAD_CTRL_RUN = true) (v : Word) :
    s.actFrameset m v = s.ctlErr m true .stateRule (Reg.off .CAD_FRAMESET 0 0) := by
  unfold State.actFrameset
  rw [if_pos hr]

/-- The encodings of R18 and R48 that are reserved. -/
def TimingReserved (v : Word) : Prop :=
  getBits v 9 0 < 100 ∨ 800 < getBits v 9 0 ∨ getBits v 44 32 = 0 ∨ 4096 < getBits v 44 32

theorem actTimingNext_of_reserved {v : Word} (h : TimingReserved v) :
    s.actTimingNext m v = s.ctlErr m true .reserved (Reg.off .CAD_TIMING_NEXT 0 0) := if_pos h

theorem actTimingNext_of_armed {v : Word} (h : ¬TimingReserved v) (ha : s.flag F.CAD_STAT_TIMING_ARMED = true) :
    s.actTimingNext m v = s.ctlErr m true .stateRule (Reg.off .CAD_TIMING_NEXT 0 0) :=
  (if_neg h).trans (if_pos ha)

theorem actTimingNext_of_takes {v : Word} (h : ¬TimingReserved v) (ha : s.flag F.CAD_STAT_TIMING_ARMED = false) :
    s.actTimingNext m v = s.wr .CAD_TIMING_NEXT (v &&& Reg.CAD_TIMING_NEXT.row.rw) :=
  (if_neg h).trans (if_neg (by simp [ha]))

/-- The fields of CAD_TIMING_NEXT take their bits of the word that is written. -/
theorem fld_timingNext_written (s : State) (v : Word) :
    (s.wr .CAD_TIMING_NEXT (v &&& Reg.CAD_TIMING_NEXT.row.rw)).fld F.CAD_TIMING_NEXT_TF = getBits v 9 0 ∧
      (s.wr .CAD_TIMING_NEXT (v &&& Reg.CAD_TIMING_NEXT.row.rw)).fld F.CAD_TIMING_NEXT_SFLEN = getBits v 44 32 := by
  constructor
  · exact (congrArg (getBits · 9 0) (rd_wr_self ..)).trans (getBits_and_of_mask v (by decide))
  · exact (congrArg (getBits · 44 32) (rd_wr_self ..)).trans (getBits_and_of_mask v (by decide))

/-- A write of CAD_TIMING_AT is taken (R21): before ticking always; then only where the frame armed is two frames ahead, and so is the
new one, unless the write cancels an armed change. -/
def TimingAtTakes (s : State) (v : Word) : Prop :=
  s.flag F.CAD_CTRL_RUN = false ∨
    (s.flag F.CAD_STAT_TIMING_ARMED = true → s.farEnough (s.rd .CAD_TIMING_AT) = true) ∧
      (s.farEnough v = true ∨ s.flag F.CAD_STAT_TIMING_ARMED = true ∧ v = 0)

theorem timingAtTakes_iff (s : State) (v : Word) : TimingAtTakes s v ↔
    (!s.flag F.CAD_CTRL_RUN || (if s.flag F.CAD_STAT_TIMING_ARMED then
      s.farEnough (s.rd .CAD_TIMING_AT) && (v == 0 || s.farEnough v) else s.farEnough v)) = true := by
  unfold TimingAtTakes
  cases s.flag F.CAD_STAT_TIMING_ARMED
  · simp
  · simp [or_comm]

theorem actTimingAt_of_takes {v : Word} (h : TimingAtTakes s v) :
    s.actTimingAt m v = (s.wr .CAD_TIMING_AT v).setFld F.CAD_STAT_TIMING_ARMED (b2n (v != 0)) := by
  unfold State.actTimingAt
  dsimp only
  rw [(timingAtTakes_iff s v).1 h]
  rfl

theorem actTimingAt_of_not_takes {v : Word} (h : ¬TimingAtTakes s v) :
    s.actTimingAt m v = s.ctlErr m true .stateRule (Reg.off .CAD_TIMING_AT 0 0) := by
  unfold State.actTimingAt
  dsimp only
  rw [if_pos]
  simpa only [Bool.not_eq_true', Bool.not_eq_true] using mt (timingAtTakes_iff s v).2 h

theorem farEnough_iff (s : State) (f : Word) : s.farEnough f = true ↔ ¬f.toNat < (s.rd .CAD_FRAMECNT).toNat + 2 :=
  decide_eq_true_iff.trans Nat.not_lt.symm

/-- The registers after a write of CAD_TIMING_AT that is taken. -/
theorem timingAt_written (s : State) (v : Word) (n : Nat) :
    let s' := (s.wr .CAD_TIMING_AT v).setFld F.CAD_STAT_TIMING_ARMED n
    s'.rd .CAD_TIMING_AT = v ∧ s'.flag F.CAD_STAT_TIMING_ARMED = n.testBit 0 ∧
      OnlyRegs s s' [Reg.off .CAD_TIMING_AT 0 0, Reg.off .CAD_STAT 0 0] := by
  refine ⟨?_, flag_setFld_self _ _ _ _ _ (by decide) (by decide), onlyRegs_pair (wr_only ..) (setFld_only _ F.CAD_STAT_TIMING_ARMED ..)⟩
  rw [rd_setFld_ne _ _ _ _ _ _ _ _ (by decide), rd_wr_self]

/-! ### The next bank (R36 to R38, R40) -/

theorem planAt_next {o : Nat} (h1 : 0x10_0000 ≤ o) (h2 : o < 0x70_0000) :
    planAt o = some (o / 0x10_0000 - 1, o % 0x10_0000 / 8, false) := by
  have himg : decide (0x80_0000 ≤ o) = false := decide_eq_false (by omega)
  unfold planAt
  simp only [himg, Bool.false_eq_true, if_false, h1, h2, and_self, if_true]

/-- The current bank's image lies 0x80_0000 above the next bank. -/
theorem planAt_image {o : Nat} (h1 : 0x90_0000 ≤ o) (h2 : o < 0xF0_0000) : ∃ t i, planAt o = some (t, i, true) := by
  have himg : decide (0x80_0000 ≤ o) = true := decide_eq_true (by omega)
  unfold planAt
  simp only [himg, if_true]
  rw [if_pos (by omega)]
  exact ⟨_, _, rfl⟩

/-- A word of the next bank that was written reads back; every other one is as before. -/
theorem nextWord_written (s : State) (k : Nat) (v : Word) (j : Nat) :
    ({ s with nxt := mset s.nxt k v 0, wflag := mput s.wflag k () } : State).nextWord j = if j = k then v else s.nextWord j := by
  unfold State.nextWord
  dsimp only
  by_cases h : j = k
  · subst h
    rw [mget_mput_self, mgetD_mset_self]
    simp
  · rw [mget_mput_ne _ _ h, mgetD_mset_ne _ _ _ _ h, if_neg h]

theorem actPlan_image (s : State) (m : Master) (off t i : Nat) (v : Word) : s.actPlan m off t i true v = s := rfl

theorem actPlan_of_master (h1 : m ≠ .keeper) (h2 : m ≠ .cadence) (off t i : Nat) (v : Word) :
    s.actPlan m off t i false v = s.ctlErr m true .master off := by
  unfold State.actPlan
  rw [if_neg Bool.false_ne_true, if_pos ⟨h1, h2⟩]

theorem actPlan_of_sealed (hm : m = .keeper ∨ m = .cadence) (hs : s.flag F.CAD_STAT_SEALED = true) (off t i : Nat) (v : Word) :
    s.actPlan m off t i false v = s.ctlErr m true .stateRule off := by
  unfold State.actPlan
  rw [if_neg Bool.false_ne_true, if_neg (fun h => hm.elim h.1 h.2), if_pos hs]

/-- The write of a word of the next bank, where no array is in error. -/
theorem actPlan_of_writes (hm : m = .keeper ∨ m = .cadence) (hs : s.flag F.CAD_STAT_SEALED = false) (hc : ArraysClean s)
    (off t i : Nat) (v : Word) : s.actPlan m off t i false v =
      { s with nxt := mset s.nxt (tableBase t + i) v 0, wflag := mput s.wflag (tableBase t + i) () } := by
  unfold State.actPlan
  rw [if_neg Bool.false_ne_true, if_neg (fun h => hm.elim h.1 h.2), if_neg (by simp [hs])]
  exact arrWrite_clean (by exact hc) (by decide) t i

/-! ### The seal (R39, R49) -/

/-- A write of CAD_SEAL leaves a result, a table and an entry in CAD_SEALSTAT, and sets SEALED where it is accepted; nothing else changes. -/
def SealAnswers (m : Master) (v : Word) (s : State) (res table detail : Nat) (acc : Bool) : Prop :=
  ∃ s', exec (.cadSeal m v) s = .next s' ∧
    getBits (s'.rd .CAD_SEALSTAT) 2 0 = res ∧ getBits (s'.rd .CAD_SEALSTAT) 5 3 = table % 8 ∧
    (detail < 2 ^ 16 → getBits (s'.rd .CAD_SEALSTAT) 31 16 = detail) ∧
    s'.flag F.CAD_STAT_SEALED = (acc || s.flag F.CAD_STAT_SEALED) ∧
    OnlyRegs s s' [Reg.off .CAD_SEALSTAT 0 0, Reg.off .CAD_STAT 0 0]

/-- The fields of a seal's result (R49). -/
theorem sealWord_fields {res table : Nat} (hr : res < 8) (ht : table < 8) (detail : Nat) :
    let w := BitVec.ofNat 64 (res + 8 * table + 2 ^ 16 * detail)
    getBits w 2 0 = res ∧ getBits w 5 3 = table % 8 ∧ (detail < 2 ^ 16 → getBits w 31 16 = detail) := by
  dsimp only
  unfold getBits
  rw [BitVec.toNat_ofNat]
  refine ⟨?_, ?_, fun hd => ?_⟩ <;> omega

theorem rd_sealResult (s : State) (res table detail : Nat) :
    (s.sealResult res table detail).rd .CAD_SEALSTAT = BitVec.ofNat 64 (res + 8 * table + 2 ^ 16 * detail) := rd_wr_self ..

theorem flag_sealResult (s : State) (res table detail : Nat) :
    (s.sealResult res table detail).flag F.CAD_STAT_SEALED = s.flag F.CAD_STAT_SEALED :=
  congrArg (bitOf · _) (rd_wr_ne _ _ _ _ _ _ _ _ (by decide))

theorem sealResult_only (s : State) (res table detail : Nat) :
    OnlyRegs s (s.sealResult res table detail) [Reg.off .CAD_SEALSTAT 0 0] := wr_only ..

variable {v : Word}

/-- A seal that is not accepted. -/
theorem sealAnswers_of_refused (hm : MayWrite s m) {res table detail : Nat} (hr : res < 8) (ht : table < 8)
    (h : s.actSeal v = s.sealResult res table detail) : SealAnswers m v s res table detail false := by
  obtain ⟨hres, htab, hdet⟩ := sealWord_fields hr ht detail
  refine ⟨_, (exec_cadSeal hm v).trans (congrArg _ h), ?_, ?_, ?_, flag_sealResult .., OnlyRegs_mono (sealResult_only ..) (by simp)⟩
  all_goals rw [rd_sealResult]
  · exact hres
  · exact htab
  · exact hdet

/-- A seal that is accepted. -/
theorem sealAnswers_of_accepted (hm : MayWrite s m)
    (h : s.actSeal v = (s.sealResult 1 0 0).setFld F.CAD_STAT_SEALED 1) : SealAnswers m v s 1 0 0 true := by
  obtain ⟨hres, htab, hdet⟩ := sealWord_fields (res := 1) (table := 0) (by decide) (by decide) 0
  refine ⟨_, (exec_cadSeal hm v).trans (congrArg _ h), ?_, ?_, ?_, flag_setFld_self _ _ _ _ _ (by decide) (by decide),
    onlyRegs_pair (sealResult_only ..) (setFld_only _ F.CAD_STAT_SEALED ..)⟩
  all_goals rw [rd_setFld_ne _ _ _ _ _ _ _ _ (by decide), rd_sealResult]
  · exact hres
  · exact htab
  · exact hdet

theorem actSeal_of_not_started (h : s.tick.started = false) : s.actSeal v = s.sealResult 6 0 0 := by
  unfold State.actSeal
  rw [if_pos (by simp [h])]

/-- Once ticks run, a seal after the deadline is late. -/
theorem actSeal_of_closed (h : s.tick.started = true) (hc : s.tick.sealClosed = true) : s.actSeal v = s.sealResult 2 0 0 := by
  unfold State.actSeal
  rw [if_neg (by simp [h]), if_pos hc]

section Open

variable (h : s.tick.started = true) (hc : s.tick.sealClosed = false)

include h hc

theorem actSeal_of_wrong_frame (hv : v ≠ s.frame + 1) : s.actSeal v = s.sealResult 3 0 0 := by
  unfold State.actSeal
  rw [if_neg (by simp [h]), if_neg (by simp [hc]), if_pos hv]

theorem actSeal_of_sealed (hv : v = s.frame + 1) (hs : s.flag F.CAD_STAT_SEALED = true) :
    s.actSeal v = s.sealResult 4 0 0 := by
  unfold State.actSeal
  rw [if_neg (by simp [h]), if_neg (by simp [hc]), if_neg (not_not_intro hv), if_pos hs]

/-- In time, for the right frame and for the first time, the structural checks decide. -/
theorem actSeal_of_fails (hv : v = s.frame + 1) (hs : s.flag F.CAD_STAT_SEALED = false) {table d : Nat}
    (hf : s.planFails = some (table, d)) : s.actSeal v = s.sealResult 5 table d := by
  unfold State.actSeal
  rw [if_neg (by simp [h]), if_neg (by simp [hc]), if_neg (not_not_intro hv), if_neg (by simp [hs]), hf]

theorem actSeal_of_passes (hv : v = s.frame + 1) (hs : s.flag F.CAD_STAT_SEALED = false) (hf : s.planFails = none) :
    s.actSeal v = (s.sealResult 1 0 0).setFld F.CAD_STAT_SEALED 1 := by
  unfold State.actSeal
  rw [if_neg (by simp [h]), if_neg (by simp [hc]), if_neg (not_not_intro hv), if_neg (by simp [hs]), hf]

end Open

/-! ### Records (R424, R427) -/

/-- The pending vectors of a device thread are among the registers of a record. -/
theorem clIpend_mem_logRegs {b i : Nat} (hb : b < 32) (hi : i < 64) : Reg.off .CL_IPEND b i ∈ logRegs :=
  List.mem_append_right _ (List.mem_flatMap.2 ⟨b, List.mem_range.2 hb, List.mem_map.2 ⟨i, List.mem_range.2 hi, rfl⟩⟩)

/-- A register below the clusters' windows that is none of the log's four is not among them. -/
theorem not_mem_logRegs {o : Nat} (h : o ∉ [Reg.off .ERR_LOGHEAD 0 0, Reg.off .ERR_LOGOVFCNT 0 0, Reg.off .KPR_IPEND 0 0,
    Reg.off .CAD_IPEND 0 0]) (hlt : o < 0x1000_0000) : o ∉ logRegs := by
  intro hm
  rcases List.mem_append.1 hm with hm | hm
  · exact h hm
  · obtain ⟨b, -, hb⟩ := List.mem_flatMap.1 hm
    obtain ⟨i, -, rfl⟩ := List.mem_map.1 hb
    have : Reg.off .CL_IPEND b i = 0x1000_0000 + b * 0x0100_0000 + 0x2000 + i * 8 := rfl
    omega

theorem onlyLogAnd_trans {s1 s2 : State} {l : List Nat} (h : OnlyLogAnd s s1 l) (h' : OnlyLogAnd s1 s2 l) : OnlyLogAnd s s2 l :=
  ⟨RegsBut_trans h.1 h'.1,
    (congrArg (fun z : State => { z with regs := s.regs, ring := s.ring, out := s.out, entering := s.entering }) h'.2).trans h.2⟩

theorem onlyLogAnd_refl (s : State) (l : List Nat) : OnlyLogAnd s s l := ⟨RegsBut_refl s _, rfl⟩

/-- An update of registers of the log. -/
theorem onlyLogAnd_of_onlyRegs {s' : State} {l l' : List Nat} (h : OnlyRegs s s' l) (hl : ∀ o ∈ l, o ∈ logRegs) : OnlyLogAnd s s' l' :=
  ⟨RegsBut_mono h.1 (fun o ho => List.mem_append_left _ (hl o ho)),
    congrArg (fun z : State => { z with ring := s.ring, out := s.out, entering := s.entering }) h.2⟩

theorem pendVector_onlyLog (s : State) {cl h v : Nat} (hcl : cl < 32) (hh : h < 16) (hv : v < 256) :
    OnlyLogAnd s (s.pendVector cl h v) [] := by
  have htake : ∀ (z : State) (t : Nat), OnlyLogAnd z (z.takeover t) [] := by
    intro z t
    obtain ⟨e, he⟩ := takeover_eq z t
    rw [he]
    exact ⟨fun _ _ => rfl, rfl⟩
  refine onlyLogAnd_trans (onlyLogAnd_of_onlyRegs (wr_only s .CL_IPEND ..) (fun o ho => ?_)) (htake ..)
  rw [List.mem_singleton.1 ho]
  exact clIpend_mem_logRegs hcl (by omega)

theorem keeperInt_onlyLog (s : State) (v : Nat) : OnlyLogAnd s (s.keeperInt v) [] :=
  onlyLogAnd_of_onlyRegs (wr_only s .KPR_IPEND ..) (by simp [logRegs])

theorem cadenceInt_onlyLog (s : State) (v : Nat) : OnlyLogAnd s (s.cadenceInt v) [] :=
  onlyLogAnd_of_onlyRegs (wr_only s .CAD_IPEND ..) (by simp [logRegs])

theorem emit_onlyLog (s : State) (o : Out) : OnlyLogAnd s (s.emit o) [] := ⟨fun _ _ => rfl, rfl⟩

theorem logRecord_onlyLog (s : State) (r : Record) : OnlyLogAnd s (s.logRecord r) [] := by
  have hover : OnlyLogAnd s (if (mget s.ring (s.fld F.ERR_LOGHEAD_NEXT)).isSome then s.bump .ERR_LOGOVFCNT else s) [] := by
    split
    · exact onlyLogAnd_of_onlyRegs (bump_only s .ERR_LOGOVFCNT ..) (by simp [logRegs])
    · exact onlyLogAnd_refl ..
  have hring : ∀ (z : State) (g : SMap Record), OnlyLogAnd z { z with ring := g } [] := fun z g => ⟨fun _ _ => rfl, rfl⟩
  have hhead : ∀ (z : State) (f : Fld) (n : Nat), f.reg = .ERR_LOGHEAD → OnlyLogAnd z (z.setFld f n) [] := fun z f n hf =>
    onlyLogAnd_of_onlyRegs (setFld_only z f n 0 0) (by simp [logRegs, hf])
  exact onlyLogAnd_trans hover (onlyLogAnd_trans (hring ..)
    (onlyLogAnd_trans (hhead _ F.ERR_LOGHEAD_NEXT _ rfl) (hhead _ F.ERR_LOGHEAD_SEQ _ rfl)))

theorem notifyRecord_onlyLog (s : State) (r : Record) : OnlyLogAnd s (s.notifyRecord r) [] := by
  have hthread : ∀ (z : State) (c : Bool), OnlyLogAnd z (if c then z.pendVector (z.fld F.ERR_NOTIFY_THREAD / 16)
      (z.fld F.ERR_NOTIFY_THREAD % 16) (z.fld F.ERR_NOTIFY_VECTOR) else z) [] := by
    intro z c
    have ht : z.fld F.ERR_NOTIFY_THREAD < 512 := getBits_lt ..
    split
    · exact pendVector_onlyLog z (by omega) (by omega) (getBits_lt ..)
    · exact onlyLogAnd_refl ..
  have hcad : ∀ z : State, OnlyLogAnd z (if r.kind = 0x18 then (z.cadenceInt 2).keeperInt 4 else z) [] := by
    intro z
    split
    · exact onlyLogAnd_trans (cadenceInt_onlyLog ..) (keeperInt_onlyLog ..)
    · exact onlyLogAnd_refl ..
  have hband : ∀ z : State, OnlyLogAnd z (if 2 ≤ r.sev.toNat then z.emit .inBand else z) [] := by
    intro z
    split
    · exact emit_onlyLog ..
    · exact onlyLogAnd_refl ..
  exact onlyLogAnd_trans (keeperInt_onlyLog s 3) (onlyLogAnd_trans (hthread ..) (onlyLogAnd_trans (hcad _) (hband _)))

/-- A record changes the ring, what the block sends, the registers of the log and the vector that an entry selects alone. -/
theorem record_onlyLog (s : State) (e : Event) : OnlyLogAnd s (s.record e) [] :=
  onlyLogAnd_trans (logRecord_onlyLog ..) (notifyRecord_onlyLog ..)

@[simp] theorem record_thread (s : State) (e : Event) (t : Nat) : (s.record e).thread t = s.thread t :=
  thread_of (congrArg State.threads (record_onlyLog s e).2) t

@[simp] theorem record_board (s : State) (e : Event) : (s.record e).board = s.board := by
  have h := congrArg State.board (record_onlyLog s e).2
  exact h

/-- A register that is none of the log's reads as before. -/
theorem rd_record (s : State) (e : Event) {r : Reg} {b i : Nat} (h : r.off b i ∉ logRegs) : (s.record e).rd r b i = s.rd r b i := by
  unfold State.rd mgetD
  rw [(record_onlyLog s e).1 _ (by simpa using h)]

theorem cadStat_not_mem_logRegs : Reg.off .CAD_STAT 0 0 ∉ logRegs := not_mem_logRegs (by decide) (by decide)

/-- A Cadence event leaves its bit of CAD_STAT set (the text before R45). -/
theorem flag_cadEvent (s : State) {f : Fld} (hr : f.reg = .CAD_STAT) (hlo : f.lo ≤ f.hi) (hhi : f.hi < 64) :
    (s.cadEvent f).flag f = true := by
  unfold State.cadEvent
  split
  next h => exact h
  next =>
    have hrec : ∀ (z : State) (e : Event), (z.record e).flag f = z.flag f := fun z e =>
      congrArg (bitOf · _) (rd_record z e (by rw [hr]; exact cadStat_not_mem_logRegs))
    rw [hrec, flag_setFld_self _ _ _ _ _ hlo hhi]
    rfl

@[simp] theorem cadEvent_thread (s : State) (f : Fld) (t : Nat) : (s.cadEvent f).thread t = s.thread t := by
  unfold State.cadEvent
  split
  · rfl
  · exact record_thread ..

@[simp] theorem cadEvent_board (s : State) (f : Fld) : (s.cadEvent f).board = s.board := by
  unfold State.cadEvent
  split
  · rfl
  · exact record_board ..

/-! ### The Cadence pair (R44, R453) -/

theorem exec_cadenceLockstepMismatch (hl : s.live = true) (hrun : (s.thread 513).run ≠ .off ∧ (s.thread 513).run ≠ .stopped) :
    exec .cadenceLockstepMismatch s = .next (s.lockstepFail false 0) := congrArg _ (if_pos (by simp [hl, hrun]))

theorem exec_cadenceLockstepMismatch_idle (hrun : (s.thread 513).run = .off ∨ (s.thread 513).run = .stopped) :
    exec .cadenceLockstepMismatch s = .next s := by
  refine congrArg _ (if_neg ?_)
  rcases hrun with h | h <;> simp [h]

theorem exec_cadenceRestart (hl : s.live = true) (hf : s.board.cadFail = true) :
    exec .cadenceRestart s = .next s.cadencePairStart := congrArg _ (if_pos (by simp [hl, hf]))

theorem exec_cadenceRestart_idle (hf : s.board.cadFail = false) : exec .cadenceRestart s = .next s :=
  congrArg _ (if_neg (by simp [hf]))

theorem cadencePairStop_thread_self (s : State) : s.cadencePairStop.thread 513 = { s.thread 513 with run := .stopped } :=
  thread_setThread_self ..

theorem cadencePairStop_thread_ne (s : State) {u : Nat} (h : u ≠ 513) : s.cadencePairStop.thread u = s.thread u :=
  thread_setThread_ne _ _ _ _ h

/-- The thread with which the pair starts (R453). -/
def cadenceStartThread : Thread := Thread.setReg { Thread.initial 513 with pc := 0x10_0000, run := .running } 1 4 false

@[simp] theorem startAt_thread_self (s : State) (t : Nat) (pc : Word) :
    (s.startAt t pc).thread t = { Thread.initial t with pc := pc, run := .running } := thread_setThread_self ..

theorem startAt_thread_ne (s : State) (pc : Word) {t u : Nat} (h : u ≠ t) : (s.startAt t pc).thread u = s.thread u :=
  thread_setThread_ne _ _ _ _ h

/-- A pair that had failed has failed no more, and its start is the Cadence event LOCKSTEP (R46). -/
theorem cadencePairStart_of_failed (hf : s.board.cadFail = true) : s.cadencePairStart =
    (((s.startAt 513 0x10_0000).setThread 513 cadenceStartThread).setBoard { s.board with cadFail := false }).cadEvent
      F.CAD_STAT_LOCKSTEP := by
  unfold State.cadencePairStart
  dsimp only
  rw [startAt_thread_self]
  exact if_pos hf

end Sys2Proof.Proofs.FrameTick

namespace Sys2Proof.Proofs

open Sys2Proof.Machine Sys2Proof.Safety Sys2Proof.Laws Sys2Proof.Proofs.FrameTick

/-! ### The obligations -/

/-- Settles O37: clause by clause, what CAD_CTRL (entry 38) and the timing registers answer to a write. -/
theorem tickRegistersTakeTheirWrites : Obligations.TickRegistersTakeTheirWrites := by
  intro m on v s hm run armed tf sf near ctl
  have hok : 100 ≤ tf → tf ≤ 800 → 1 ≤ sf → sf ≤ 4096 → ¬TimingReserved v := fun h1 h2 h3 h4 => by
    show ¬(tf < 100 ∨ 800 < tf ∨ sf = 0 ∨ 4096 < sf)
    omega
  refine ⟨?_, ?_, fun hr => ?_, fun hr => ?_, fun h1 h2 h3 h4 ha => ?_, fun h => ?_, fun h1 h2 h3 h4 ha => ?_,
    fun hv h => ?_, fun hr hn hv => ?_, fun hr ha hn => ?_, fun hr ha hn => ?_⟩
  · refine ⟨_, exec_startLocalTick hm, ?_, ?_, ?_, actCadCtrl_only ..⟩
    · rw [actCadCtrl_run]; exact Bool.or_true _
    · rw [actCadCtrl_acquire]; rfl
    · rw [actCadCtrl_statRun]; exact Bool.or_true _
  · have h0 : bitOf (if on then 2 else 0) 0 = false := by cases on <;> rfl
    have h1 : bitOf (if on then 2 else 0) 1 = on := by cases on <;> rfl
    refine ⟨_, exec_setAcquire hm on, ?_, ?_, actCadCtrl_only ..⟩
    · rw [actCadCtrl_run, h0, Bool.or_false]
    · rw [actCadCtrl_acquire, h0, h1, Bool.or_false]
  · rw [exec_cadFramesetWrite hm, actFrameset_of_not_run hr]
    rfl
  · exact writeRefused_of m .stateRule _ (by rw [exec_cadFramesetWrite hm, actFrameset_of_run hr])
  · obtain ⟨htf, hsf⟩ := fld_timingNext_written s v
    refine ⟨_, ?_, htf, hsf, wr_only ..⟩
    rw [exec_cadTimingNextWrite hm, actTimingNext_of_takes (hok h1 h2 h3 h4) ha]
  · exact writeRefused_of m .reserved _ (by rw [exec_cadTimingNextWrite hm, actTimingNext_of_reserved h])
  · exact writeRefused_of m .stateRule _ (by rw [exec_cadTimingNextWrite hm, actTimingNext_of_armed (hok h1 h2 h3 h4) ha])
  · have htakes : TimingAtTakes s v := h.imp id fun ⟨hn, hat⟩ =>
      ⟨fun ha => (farEnough_iff ..).2 (hat ha), .inl ((farEnough_iff ..).2 hn)⟩
    obtain ⟨hat, harm, honly⟩ := timingAt_written s v (b2n (v != 0))
    refine ⟨_, (exec_armTimingChange hm v).trans (congrArg _ (actTimingAt_of_takes htakes)), hat, ?_, honly⟩
    rw [harm, testBit_b2n, bne_iff_ne]
    exact hv
  · have hnot : ¬TimingAtTakes s v := by
      rintro (h | ⟨-, h | ⟨-, h⟩⟩)
      · exact absurd hr (by simp [run, h])
      · exact (farEnough_iff ..).1 h hn
      · exact hv h
    exact writeRefused_of m .stateRule _ (by rw [exec_armTimingChange hm, actTimingAt_of_not_takes hnot])
  · obtain ⟨-, harm, honly⟩ := timingAt_written s 0 (b2n (0 != (0 : Word)))
    exact ⟨_, (exec_cancelTimingChange hm).trans (congrArg _ (actTimingAt_of_takes
      (.inr ⟨fun _ => (farEnough_iff ..).2 hn, .inr ⟨ha, rfl⟩⟩))), harm, honly⟩
  · have hnot : ¬TimingAtTakes s 0 := by
      rintro (h | ⟨h, -⟩)
      · exact absurd hr (by simp [run, h])
      · exact (farEnough_iff ..).1 (h ha) hn
    exact writeRefused_of m .stateRule _ (by rw [exec_cancelTimingChange hm, actTimingAt_of_not_takes hnot])

/-- Settles O39: the write of a word by its place and its master (silent in the current bank's image: entry 97), and the seal, of
whatever master (entry 102), by the first condition of R39 that fails. -/
theorem planIsWrittenAndSealed : Obligations.PlanIsWrittenAndSealed := by
  intro m off v s hm o t i next seald
  have hnext : next = true → planAt o = some (t, i, false) ∧ o % 8 = 0 := fun h => by
    obtain ⟨h1, h2, h3⟩ := of_decide_eq_true h
    exact ⟨planAt_next h1 h2, h3⟩
  refine ⟨fun hn hk hs hc => ?_, fun hn h1 h2 => ?_, fun hn hk hs => ?_, fun h1 h2 ha => ?_, fun h => ?_, fun h hc => ?_,
    fun h hc hv => ?_, fun h hc hv => ⟨fun hs => ?_, fun hs tab d hf ht => ?_, fun hs hf => ?_⟩⟩
  · obtain ⟨hp, ha⟩ := hnext hn
    refine ⟨_, (exec_planTableWrite hm hp ha v).trans (congrArg _ (actPlan_of_writes hk hs hc ..)), ?_, fun k hk => ?_, rfl⟩
    · exact (nextWord_written ..).trans (if_pos rfl)
    · exact (nextWord_written ..).trans (if_neg hk)
  · obtain ⟨hp, ha⟩ := hnext hn
    exact writeRefused_of m .master _ (by rw [exec_planTableWrite hm hp ha, actPlan_of_master h1 h2])
  · obtain ⟨hp, ha⟩ := hnext hn
    exact writeRefused_of m .stateRule _ (by rw [exec_planTableWrite hm hp ha, actPlan_of_sealed hk hs])
  · obtain ⟨t', i', hp⟩ := planAt_image h1 h2
    exact (exec_planTableWrite hm hp ha v).trans (congrArg _ (actPlan_image ..))
  · exact sealAnswers_of_refused hm (by decide) (by decide) (actSeal_of_not_started h)
  · exact sealAnswers_of_refused hm (by decide) (by decide) (actSeal_of_closed h hc)
  · exact sealAnswers_of_refused hm (by decide) (by decide) (actSeal_of_wrong_frame h hc hv)
  · exact sealAnswers_of_refused hm (by decide) (by decide) (actSeal_of_sealed h hc hv hs)
  · exact sealAnswers_of_refused hm (by decide) (by omega) (actSeal_of_fails h hc hv hs hf)
  · exact sealAnswers_of_accepted hm (actSeal_of_passes h hc hv hs hf)

/-- Settles O41: a failure stops the pair and is recorded, and a restart starts the failed pair; otherwise neither acts (entry 2). -/
theorem cadencePairFailsAndRestarts : Obligations.CadencePairFailsAndRestarts := by
  intro s hl r
  refine ⟨fun h1 h2 => ?_, exec_cadenceLockstepMismatch_idle, fun hf => ?_, exec_cadenceRestart_idle⟩
  · have hthread : ∀ u, ((s.lockstepFail false 0).thread u) = s.cadencePairStop.thread u := fun u => record_thread s.cadencePairStop _ u
    refine ⟨_, exec_cadenceLockstepMismatch hl ⟨h1, h2⟩, ?_, rfl, record_records s.cadencePairStop _, fun u hu => ?_⟩
    · rw [hthread, cadencePairStop_thread_self]
    · rw [hthread, cadencePairStop_thread_ne s hu]
  · have hself : s.cadencePairStart.thread 513 = cadenceStartThread := by
      rw [cadencePairStart_of_failed hf, cadEvent_thread]
      exact thread_setThread_self ..
    refine ⟨_, exec_cadenceRestart hl hf, ?_, ?_, ?_, ?_, ?_, fun u hu => ?_⟩
    · rw [hself]; rfl
    · rw [hself]; rfl
    · rw [hself]; exact reg_setReg ..
    · rw [cadencePairStart_of_failed hf, cadEvent_board]; rfl
    · rw [cadencePairStart_of_failed hf]; exact flag_cadEvent _ rfl (by decide) (by decide)
    · rw [cadencePairStart_of_failed hf, cadEvent_thread]
      exact (thread_setThread_ne _ _ _ _ hu).trans (startAt_thread_ne s _ hu)

end Sys2Proof.Proofs
end
